-- ==== Sys2Proof/Word.lean ====
section
/-! DEFINITION. The word types of the model and nothing else: a register is 64 bits (R17), a byte 8, a key 256 (R72),
a digest 384 (R126); a byte string is a list of bytes, first byte first; a sparse table lists the entries that differ
from what an unlisted index reads as, by rising index. -/

namespace Sys2Proof

/-- A register (R17). -/
abbrev Word := BitVec 64

/-- One byte. -/
abbrev Byte := BitVec 8

/-- An AES-256 key (R72): byte k of the key is bits [8k+7:8k]. -/
abbrev Key := BitVec 256

/-- A SHA-384 digest or a measurement register (R126): byte k is bits [8k+7:8k]. -/
abbrev Digest := BitVec 384

/-- A byte string, byte 0 first. -/
abbrev Bytes := List Byte

/-- A 128-byte memory line, tag line or counter line (R267, R274): byte k is bits [8k+7:8k]. -/
abbrev Line := BitVec 1024

/-- A sparse table: pairs of an index and its entry, indices strictly rising, no entry equal to the default. -/
abbrev Tbl (α : Type) := List (Nat × α)

end Sys2Proof
end

