-- ==== Sys2Proof/Syntax.lean ====
section
/-! DEFINITION. The commands of the block, one constructor per row of spec/opcode_table.json, with the operands the rule
of each row names. Every row of the table has no bits of its own. `now` is the house time at which the command happens
(notes/assumptions/2.md); `sess` is the id of a secured session (R136). -/

namespace Sys2Proof

/-- The configuration (R4). -/
inductive Kind where
  | k8 | k16 | k32
  deriving DecidableEq, Repr

/-- The requester of a register-port access (R24). -/
structure Requester where
  cls : BitVec 3
  idx : BitVec 5
  deriving DecidableEq, Repr

/-- Where an SPDM message arrives (R136): a DOE mailbox or the management port. -/
inductive SpdmPort where
  | physical
  | interface (part : Nat)
  | management
  deriving DecidableEq, Repr

/-- A Larder slot whose check fails, copy by copy (R86 to R88). -/
structure SlotFailure where
  slot : Nat
  primary : Bool
  shadow : Bool
  deriving DecidableEq, Repr

/-- What the checks that stand between self-tests find (R271, R296, R324, R443, R444, R458): a symbol of an engine's store or bus,
corrected; a granule of a Pantry line beyond the code; a copy of a level-2 node or of a root register (`shadow`: its shadow or
duplicate); a parity or code failure on an engine's data path, on a port's receive or transmit path or elsewhere in an island;
a granule beyond the code in state that one partition holds, that the manager thread holds, or in a store of R461 that several share. -/
inductive Upset where
  | symbol (engine : Nat)
  | granule (engine line granule : Nat)
  | copy (engine : Nat) (level2 shadow : Bool) (index : Nat)
  | memory (engine : Nat)
  | receive (port : Nat)
  | transmit (port : Nat)
  | other (island : Byte)
  | partition (n : Nat)
  | manager
  | store (code : Byte) (index : Nat)
  deriving DecidableEq, Repr

/-- A unit that tests itself (R458), or what the checks between tests find. -/
inductive TestUnit where
  | portTx (port lane : Nat)
  | portRx (port lane : Nat)
  | memLane (engine lane : Nat)
  | pantryWay (engine way : Nat)
  | sharedLane (island : Byte) (lane : Nat)
  | upset (u : Upset)
  deriving DecidableEq, Repr

/-- The commands (spec/opcode_table.json). -/
inductive Instr where
  /-- `COLD_BOOT`, R501: Release of COLD_RST_N starts house time, clears SRAM, reads fuses, derives keys, marks stacks fresh and brings Kerre to READY. -/
  | coldBoot (i3c : Bool) (addr : BitVec 7)
  /-- `WARM_RESET`, R451: The host chip applies a block warm reset of a given class; Kerre reads RECOVERING, zeroises keys, resets islands and rebuilds session state. -/
  | warmReset (cls : BitVec 2) (now : Nat)
  /-- `WARM_RESET_COMPLETE`, R451: A block warm reset ends in READY, or in BOARDED when it is the third counted RECOVERY reset within 600 s. -/
  | warmResetComplete (now : Nat)
  /-- `BOOT`, R502: The host chip delivers boot items (patch image, certificate chains), which Kerre verifies and measures or discards after the 25 ms stage. -/
  | boot (items : Bytes) (now : Nat)
  /-- `BOOT_WAIT_EXPIRY`, R451: If no patch image has arrived by the 25 ms stage, Kerre proceeds on ROM alone and still reaches READY. -/
  | bootWaitExpiry (now : Nat)
  /-- `BLOCK_RESET_SERVICE`, R466: A manager write to HALL.BLOCK_RESET with class SERVICE requests a block warm reset of that class. -/
  | blockResetService (req : Requester) (now : Nat)
  /-- `BLOCK_RESET_TEST`, R466: A manager write to HALL.BLOCK_RESET with class TEST requests a block warm reset of class TEST. -/
  | blockResetTest (req : Requester) (now : Nat)
  /-- `REGISTER_WRITE`, R31: A register-port write to a register with no behaviour of its own stores the value under its access code. -/
  | registerWrite (req : Requester) (off size : Nat) (val : BitVec 128) (now : Nat)
  /-- `COUNTER_READ_CLEAR`, R12: A read of an RC register returns its value and clears it in the same access. -/
  | counterReadClear (req : Requester) (off : Nat) (now : Nat)
  /-- `PORT_FAULT_INFO_RELEASE`, R39: Writing 1 to HALL.PORT_FAULT_INFO.valid releases the captured port fault. -/
  | portFaultInfoRelease (req : Requester) (now : Nat)
  /-- `ROW_WRITE`, R49: A 128-bit write to a program-table row stores the step, making it eligible if go is set, or is ignored and sets overwrite if go was already set. -/
  | rowWrite (req : Requester) (thread row : Nat) (val : BitVec 128) (now : Nat)
  /-- `EVENT_LO_READ`, R30: A read of PORCH.EVENT_LO removes the oldest event entry and latches its upper word for the requester. -/
  | eventLoRead (req : Requester) (thread : Nat) (now : Nat)
  /-- `RESUME`, R46: Writing resume to PORCH.THREAD_CTRL returns a HALTED thread to issuing at issue_row. -/
  | resume (req : Requester) (thread : Nat) (now : Nat)
  /-- `DISCARD`, R46: Writing discard to PORCH.THREAD_CTRL clears go in every unissued row of a HALTED thread. -/
  | discard (req : Requester) (thread : Nat) (now : Nat)
  /-- `CLEAR_OVERWRITE`, R46: Writing clear_overwrite to PORCH.THREAD_CTRL clears the sticky overwrite bit. -/
  | clearOverwrite (req : Requester) (thread : Nat) (now : Nat)
  /-- `ROW_ISSUE`, R59: The sequencer selects an eligible row round-robin and takes it through decode, check and dispatch. -/
  | rowIssue (now : Nat)
  /-- `RESERVED_OPCODE`, R50: A step with an unencoded opcode completes with BAD_OPCODE at its check. -/
  | reservedOpcode (thread row : Nat) (now : Nat)
  /-- `BLOCKED_STEP_RELEASE`, R56: A creating step held because its entry or region is closing becomes selectable once that entry is free. -/
  | blockedStepRelease (thread : Nat) (now : Nat)
  /-- `ENGINE_COMPLETION`, R60: An engine reports a dispatched step complete with its status. -/
  | engineCompletion (thread row : Nat) (now : Nat)
  /-- `ROW_RETIRE`, R60: A completed row retires in row order, clears go and, on a halting status, may leave the thread HALTED. -/
  | rowRetire (thread : Nat) (now : Nat)
  /-- `EVENT_POST`, R66: A retiring row's event is posted to the FIFO one cc after retirement, stalling while the FIFO is full. -/
  | eventPost (thread : Nat) (now : Nat)
  /-- `JOB_EVENT`, R69: When background work ends, Kerre posts a job event to the issuing thread's FIFO and frees its job slot. -/
  | jobEvent (thread : Nat) (now : Nat)
  /-- `STEP_DEADLINE`, R445: A step reaching its deadline completes with HANG, its engine is told to withdraw the descriptor, and a Cellar record is written. -/
  | stepDeadline (thread row : Nat) (now : Nat)
  /-- `WITHDRAWAL_CONFIRM`, R445: The engine confirms withdrawal of a hung descriptor, finishing or leaving each atomic unit. -/
  | withdrawalConfirm (thread row : Nat) (finished : Bool) (now : Nat)
  /-- `WITHDRAWAL_TIMEOUT`, R443: An engine that still beats but gives no withdrawal confirmation within 100 µs makes the error partition-fatal. -/
  | withdrawalTimeout (thread row : Nat) (now : Nat)
  /-- `NOP`, R50: NOP completes at decode. -/
  | nop (thread row : Nat) (now : Nat)
  /-- `FENCE`, R59: FENCE is decoded as a barrier and waits until every earlier row has retired. -/
  | fence (thread row : Nat) (now : Nat)
  /-- `FENCE_COMPLETE`, R67: A waiting FENCE completes once every earlier row has retired, posts its event and may advance the cookie register. -/
  | fenceComplete (thread : Nat) (now : Nat)
  /-- `WAIT`, R68: WAIT compares the named thread's cookie register and completes, fails with COOKIE_RANGE, or pends as a barrier. -/
  | wait (thread row : Nat) (now : Nat)
  /-- `WAIT_COMPLETE`, R68: A pending WAIT completes in the cc after the named thread's cookie register reaches the cookie. -/
  | waitComplete (thread : Nat) (now : Nat)
  /-- `EVENT`, R50: EVENT completes at dispatch and always posts an event carrying its cookie. -/
  | event (thread row : Nat) (now : Nat)
  /-- `RFENCE`, R196: RFENCE sends a MARKER on every open or closing transmit channel of the partition. -/
  | rfence (thread row : Nat) (now : Nat)
  /-- `RFENCE_COMPLETE`, R199: RFENCE completes once every marker has been acknowledged or has timed out, with DONE, PEER_TIMEOUT or CHANNEL_DOWN. -/
  | rfenceComplete (thread row : Nat) (now : Nat)
  /-- `GENKEY`, R94: GENKEY fills a new Larder slot with a DRBG key of the given usage and masks. -/
  | genkey (thread row : Nat) (now : Nat)
  /-- `DERIVE`, R95: DERIVE computes a WRAP-purpose key from a parent key into a new slot. -/
  | derive (thread row : Nat) (now : Nat)
  /-- `WRAP`, R96: WRAP wraps a wrappable key under a wrap key with KW into a transfer buffer. -/
  | wrap (thread row : Nat) (now : Nat)
  /-- `UNWRAP`, R96: UNWRAP unwraps 40 bytes from a transfer buffer into a new slot or fails with UNWRAP_FAIL. -/
  | unwrap (thread row : Nat) (now : Nat)
  /-- `ERASE`, R97: ERASE closes a key entry, waits for issued uses to drain, zeroises the slot and returns it to the pool. -/
  | erase (thread row : Nat) (now : Nat)
  /-- `IMPORT`, R99: IMPORT recovers a hybrid-encapsulated key from seven transfer buffers into a new slot. -/
  | import (thread row : Nat) (now : Nat)
  /-- `MAPREG`, R290: MAPREG maps and keys a new region, marks its chunks fresh, or holds while an overlapping region closes. -/
  | mapreg (thread row : Nat) (now : Nat)
  /-- `UNMAPREG`, R349: UNMAPREG closes a region, waits for its references to drain, erases its key and frees the slot. -/
  | unmapreg (thread row : Nat) (now : Nat)
  /-- `SEAL`, R308: SEAL computes segment tags and seals a run of segments on each engine, stopping at a failure. -/
  | seal (thread row : Nat) (now : Nat)
  /-- `UNSEAL`, R310: UNSEAL verifies and unseals a run of segments, rewriting their tag lines. -/
  | unseal (thread row : Nat) (now : Nat)
  /-- `REKEY`, R331: REKEY accepts a re-key or export job for a region and creates the new region key. -/
  | rekey (thread row : Nat) (now : Nat)
  /-- `SWEEP`, R350: SWEEP crypto-erases a frozen partition's keys and state and starts the chunk-clearing job. -/
  | sweep (thread row : Nat) (now : Nat)
  /-- `PAGEOUT`, R344: PAGEOUT writes a page as a paging record to a host slot and marks it paged out. -/
  | pageout (thread row : Nat) (now : Nat)
  /-- `PAGEIN`, R345: PAGEIN verifies a host record against the paging table and writes the page back under a new major. -/
  | pagein (thread row : Nat) (now : Nat)
  /-- `CHOPEN`, R181: CHOPEN derives a channel key and opens a transmit channel or a receive channel in SYNCING. -/
  | chopen (thread row : Nat) (now : Nat)
  /-- `CHCLOSE`, R194: CHCLOSE puts a channel in CLOSING and completes when its accepted traffic has drained. -/
  | chclose (thread row : Nat) (now : Nat)
  /-- `CHEPOCH`, R187: CHEPOCH advances a transmit channel to the next epoch key. -/
  | chepoch (thread row : Nat) (now : Nat)
  /-- `SQJOIN`, R239: SQJOIN derives a square key into a square slot. -/
  | sqjoin (thread row : Nat) (now : Nat)
  /-- `SQLEAVE`, R242: SQLEAVE closes a square and completes when its stores, reads and sum contexts have drained. -/
  | sqleave (thread row : Nat) (now : Nat)
  /-- `SUMSET`, R213: SUMSET loads a masked or fallback sum context for a (sum id, ring id) pair. -/
  | sumset (thread row : Nat) (now : Nat)
  /-- `ATTEST`, R130: ATTEST writes a signed report with the given nonce to host memory. -/
  | attest (thread row : Nat) (now : Nat)
  /-- `MEASURE`, R127: MEASURE extends a measurement register with a 48-byte digest. -/
  | measure (thread row : Nat) (now : Nat)
  /-- `DOMJOIN`, R152: DOMJOIN joins the domain named in the ticket through a parent, or leaves it when d[24] is set. -/
  | domjoin (thread row : Nat) (now : Nat)
  /-- `DOMLEAD`, R151: DOMLEAD verifies a policy core and forms a domain as leader, or starts an epoch change. -/
  | domlead (thread row : Nat) (now : Nat)
  /-- `FREEZE`, R375: FREEZE makes a bound partition FROZEN and completes when its issued rows have retired. -/
  | freeze (thread row : Nat) (now : Nat)
  /-- `SAVE`, R379: SAVE writes a frozen partition's state as an encrypted migration blob to host memory. -/
  | save (thread row : Nat) (now : Nat)
  /-- `RESTORE`, R381: RESTORE verifies a migration blob and restores keys, regions, thread and measurements into a frozen partition. -/
  | restore (thread row : Nat) (now : Nat)
  /-- `THAW`, R376: THAW returns a FROZEN partition to BOUND. -/
  | thaw (thread row : Nat) (now : Nat)
  /-- `QUOTA`, R366: QUOTA sets one quota or share of a partition. -/
  | quota (thread row : Nat) (now : Nat)
  /-- `VOPEN`, R395: VOPEN authenticates the Vault module, derives the link key, verifies the manifest and unwraps the content key. -/
  | vopen (thread row : Nat) (now : Nat)
  /-- `VLOAD`, R400: VLOAD accepts a load of one manifest entry into a BASE region. -/
  | vload (thread row : Nat) (now : Nat)
  /-- `VCLOSE`, R405: VCLOSE sends CLOSE and zeroises the link key and content key. -/
  | vclose (thread row : Nat) (now : Nat)
  /-- `SNAP`, R413: SNAP waits for pending counter increments before latching the thread's counters. -/
  | snap (thread row : Nat) (now : Nat)
  /-- `SNAP_LATCH`, R413: The counters are copied into the snapshot registers in one cc, and reset if step_reset is set. -/
  | snapLatch (thread : Nat) (now : Nat)
  /-- `TRACE`, R418: TRACE places a marker record in the Attic. -/
  | trace (thread row : Nat) (now : Nat)
  /-- `DRBG_RESEED`, R79: The DRBG reseeds after 65,536 generate requests or 100 ms. -/
  | drbgReseed (now : Nat)
  /-- `ENTROPY_TEST_FAIL`, R80: An entropy health test failure puts the DRBG in HEALTH_HOLD and reruns the start-up test, reaching FAILED after three failures. -/
  | entropyTestFail (now : Nat)
  /-- `ENTROPY_STARTUP_TEST_DONE`, R80: A rerun entropy start-up test completes and the DRBG serves waiting requests again. -/
  | entropyStartupTestDone (now : Nat)
  /-- `LARDER_SCRUB`, R86: The background scrub reads every live slot and shadow and checks it. -/
  | larderScrub (failed : List SlotFailure) (now : Nat)
  /-- `PKE_OPERATION_DONE`, R105: The public-key engine finishes an operation and takes the next queued request. -/
  | pkeOperationDone (now : Nat)
  /-- `GET_NONCE`, R121: Management command GET_NONCE returns a fresh kerre_nonce. -/
  | getNonce (sess : Option Nat) (msg : Bytes) (now : Nat)
  /-- `GET_STATE`, R121: Management command GET_STATE returns SIDE.LC, SIDE.FUSE_STATUS and HALL.STATUS. -/
  | getState (sess : Option Nat) (msg : Bytes) (now : Nat)
  /-- `CRED_PRESENT`, R122: CRED_PRESENT presents the management credential keys, accepted if they match the newest blown slot. -/
  | credPresent (sess : Option Nat) (msg : Bytes) (now : Nat)
  /-- `PROVISION`, R114: PROVISION fuses a UDS, the first credential and bit 0, returns the identity keys and awaits a cold boot. -/
  | provision (sess : Option Nat) (msg : Bytes) (now : Nat)
  /-- `DEPLOY`, R115: DEPLOY moves PROVISIONED to DEPLOYED by blowing bit 1 and requests a block warm reset. -/
  | deploy (sess : Option Nat) (msg : Bytes) (now : Nat)
  /-- `DEBUG_ENTER`, R115: DEBUG_ENTER resets partitions, zeroises keys, blows the next entry bit and requests a block warm reset. -/
  | debugEnter (sess : Option Nat) (msg : Bytes) (now : Nat)
  /-- `DEBUG_EXIT`, R115: DEBUG_EXIT resets partitions, zeroises keys, blows the matching exit bit and requests a block warm reset. -/
  | debugExit (sess : Option Nat) (msg : Bytes) (now : Nat)
  /-- `RETIRE`, R115: RETIRE resets partitions, zeroises keys and blows the retired bit, entering RETIRED behaviour. -/
  | retire (sess : Option Nat) (msg : Bytes) (now : Nat)
  /-- `CRED_INSTALL`, R122: CRED_INSTALL blows the next credential slot with a new credential digest. -/
  | credInstall (sess : Option Nat) (msg : Bytes) (now : Nat)
  /-- `LEAVE_BOARDED`, R456: LEAVE_BOARDED clears the escalation history and requests a SERVICE reset. -/
  | leaveBoarded (sess : Option Nat) (msg : Bytes) (now : Nat)
  /-- `PART_CTRL`, R365: Management command PART_CTRL takes a partition action as HALL.PART_CTRL does. -/
  | partCtrl (sess : Option Nat) (msg : Bytes) (now : Nat)
  /-- `PART_QUOTA`, R365: Management command PART_QUOTA sets a partition limit as QUOTA does. -/
  | partQuota (sess : Option Nat) (msg : Bytes) (now : Nat)
  /-- `CELLAR_READ`, R456: CELLAR_READ returns a Cellar log record or 1 KiB of the crash dump. -/
  | cellarRead (sess : Option Nat) (msg : Bytes) (now : Nat)
  /-- `DUMP_RELEASE`, R456: DUMP_RELEASE clears CELLAR.DUMP_STATUS.valid. -/
  | dumpRelease (sess : Option Nat) (msg : Bytes) (now : Nat)
  /-- `VAULT_STATE`, R396: VAULT_STATE returns the Vault status and module registers. -/
  | vaultState (sess : Option Nat) (msg : Bytes) (now : Nat)
  /-- `VAULT_PAIR`, R396: VAULT_PAIR pairs the module under a new epoch and clears seal_event. -/
  | vaultPair (sess : Option Nat) (msg : Bytes) (now : Nat)
  /-- `VAULT_UNPAIR`, R396: VAULT_UNPAIR checks the module's proof and sends UNPAIR. -/
  | vaultUnpair (sess : Option Nat) (msg : Bytes) (now : Nat)
  /-- `VAULT_PROGRAM`, R406: VAULT_PROGRAM verifies a manifest and streams an image into the module. -/
  | vaultProgram (sess : Option Nat) (msg : Bytes) (now : Nat)
  /-- `MGMT_UNKNOWN_COMMAND`, R121: A management command with an undefined code completes with BAD_OPCODE. -/
  | mgmtUnknownCommand (sess : Option Nat) (msg : Bytes) (now : Nat)
  /-- `MCTP_OTHER_TYPE`, R119: An MCTP message of a type other than 0x05, 0x06 or 0x7F is discarded. -/
  | mctpOtherType (msgType : Byte)
  /-- `PRESENCE_PRESS`, R116: A filtered falling edge of PRESENCE_N starts timing a low period. -/
  | presencePress (now : Nat)
  /-- `PRESENCE_RELEASE`, R116: A filtered rising edge of PRESENCE_N arms a token if the low period lasted 2 s to 30 s, or returns from LOCKOUT to IDLE. -/
  | presenceRelease (now : Nat)
  /-- `PRESENCE_LOCKOUT`, R116: PRESENCE_N held low for 30 s puts the machine in LOCKOUT and counts a lockout. -/
  | presenceLockout (now : Nat)
  /-- `TOKEN_EXPIRY`, R117: A presence token stops being live 600 s after arming. -/
  | tokenExpiry (now : Nat)
  /-- `GET_VERSION`, R134: SPDM GET_VERSION is answered with version 1.3. -/
  | getVersion (at_ : SpdmPort) (now : Nat)
  /-- `GET_CAPABILITIES`, R134: SPDM GET_CAPABILITIES is answered with the responder's capabilities. -/
  | getCapabilities (at_ : SpdmPort) (now : Nat)
  /-- `NEGOTIATE_ALGORITHMS`, R134: SPDM NEGOTIATE_ALGORITHMS is answered with the supported algorithms. -/
  | negotiateAlgorithms (at_ : SpdmPort) (now : Nat)
  /-- `GET_DIGESTS`, R135: SPDM GET_DIGESTS returns the certificate chain digests. -/
  | getDigests (at_ : SpdmPort) (sess : Option Nat) (now : Nat)
  /-- `GET_CERTIFICATE`, R124: SPDM GET_CERTIFICATE returns a stored chain, or InvalidRequest for an empty slot. -/
  | getCertificate (at_ : SpdmPort) (sess : Option Nat) (slot offset length : Nat) (now : Nat)
  /-- `CHALLENGE`, R135: SPDM CHALLENGE is answered with a signed challenge response. -/
  | challenge (at_ : SpdmPort) (slot : Nat) (nonce : Key) (now : Nat)
  /-- `GET_MEASUREMENTS`, R137: SPDM GET_MEASUREMENTS returns measurement blocks or a signed or tagged report. -/
  | getMeasurements (at_ : SpdmPort) (sess : Option Nat) (index : Nat) (nonce : Key) (now : Nat)
  /-- `KEY_EXCHANGE`, R136: SPDM KEY_EXCHANGE opens a secured session within the instance's session limit. -/
  | keyExchange (at_ : SpdmPort) (reqId : BitVec 16) (transcript : Bytes) (now : Nat)
  /-- `FINISH`, R135: SPDM FINISH completes session establishment. -/
  | finish (at_ : SpdmPort) (sess : Nat) (transcript : Bytes) (now : Nat)
  /-- `HEARTBEAT`, R134: SPDM HEARTBEAT keeps a session alive. -/
  | heartbeat (at_ : SpdmPort) (sess : Nat) (now : Nat)
  /-- `KEY_UPDATE`, R133: SPDM KEY_UPDATE advances the session key-update count so the next report is signed. -/
  | keyUpdate (at_ : SpdmPort) (sess : Nat) (now : Nat)
  /-- `END_SESSION`, R136: SPDM END_SESSION ends a secured session. -/
  | endSession (at_ : SpdmPort) (sess : Nat) (now : Nat)
  /-- `SPDM_UNSUPPORTED_REQUEST`, R135: Any other SPDM request is answered with ERROR UnsupportedRequest. -/
  | spdmUnsupportedRequest (at_ : SpdmPort) (code : Byte) (now : Nat)
  /-- `SPDM_SESSION_TIMEOUT`, R136: A session with no message for two heartbeat periods ends. -/
  | spdmSessionTimeout (at_ : SpdmPort) (sess : Nat) (now : Nat)
  /-- `GET_TDISP_VERSION`, R138: TDISP GET_TDISP_VERSION is answered with version 1.0. -/
  | getTdispVersion (part : Nat) (now : Nat)
  /-- `GET_TDISP_CAPABILITIES`, R138: TDISP GET_TDISP_CAPABILITIES returns the responder capabilities. -/
  | getTdispCapabilities (part : Nat) (now : Nat)
  /-- `LOCK_INTERFACE_REQUEST`, R362: LOCK_INTERFACE_REQUEST moves an ENABLED partition's interface to CONFIG_LOCKED. -/
  | lockInterfaceRequest (part : Nat) (now : Nat)
  /-- `START_INTERFACE_REQUEST`, R363: START_INTERFACE_REQUEST binds the partition and moves it to BOUND. -/
  | startInterfaceRequest (part : Nat) (now : Nat)
  /-- `STOP_INTERFACE_REQUEST`, R362: STOP_INTERFACE_REQUEST resets a bound or locked partition, or unlocks an interface in ERROR. -/
  | stopInterfaceRequest (part : Nat) (now : Nat)
  /-- `GET_DEVICE_INTERFACE_REPORT`, R138: TDISP GET_DEVICE_INTERFACE_REPORT lists the partition's Porch as its MMIO range. -/
  | getDeviceInterfaceReport (part : Nat) (now : Nat)
  /-- `GET_DEVICE_INTERFACE_STATE`, R138: TDISP GET_DEVICE_INTERFACE_STATE returns the interface state. -/
  | getDeviceInterfaceState (part : Nat) (now : Nat)
  /-- `TDISP_UNSUPPORTED_REQUEST`, R138: TDISP P2P-stream and MMIO-attribute requests are answered with an unsupported-request error. -/
  | tdispUnsupportedRequest (part : Nat) (code : Byte) (now : Nat)
  /-- `QUERY`, R139: IDE_KM QUERY is answered with the IDE capabilities. -/
  | query (now : Nat)
  /-- `KEY_PROG`, R139: IDE_KM KEY_PROG writes a stream key and IV to the IDE key port, or refuses a 65th stream. -/
  | keyProg (stream : Nat) (streamId : BitVec 8) (keySet tx : Bool) (sub : BitVec 2) (key : Key) (iv : BitVec 64) (now : Nat)
  /-- `K_SET_GO`, R139: IDE_KM K_SET_GO activates a key set at the IDE key port. -/
  | kSetGo (stream : Nat) (keySet tx : Bool) (sub : BitVec 2) (now : Nat)
  /-- `K_SET_STOP`, R139: IDE_KM K_SET_STOP clears a key set at the IDE key port. -/
  | kSetStop (stream : Nat) (keySet tx : Bool) (sub : BitVec 2) (now : Nat)
  /-- `IDE_KEY_PORT_ACK`, R495: The IDE engine acknowledges a key-port request and Kerre zeroises its key copy. -/
  | ideKeyPortAck (now : Nat)
  /-- `IDE_KEY_PORT_TIMEOUT`, R495: A key-port request with no acknowledgement within 1 µs is counted and the IDE_KM request answered with an error. -/
  | ideKeyPortTimeout (now : Nat)
  /-- `HELLO`, R155: A received HELLO is answered, held or refused according to the partition's domain state and limits. -/
  | hello (msg : Bytes) (now : Nat)
  /-- `PROOF_P`, R156: A requester checks a received PROOF_P and answers with PROOF_C or abandons with DENIED. -/
  | proofP (msg : Bytes) (now : Nat)
  /-- `PROOF_C`, R157: A parent checks a received PROOF_C and sends KEY or REFUSE. -/
  | proofC (msg : Bytes) (now : Nat)
  /-- `KEY`, R157: A child recovers and installs the domain key from KEY, sends KEY_ACK and answers held HELLOs. -/
  | key (msg : Bytes) (now : Nat)
  /-- `KEY_ACK`, R157: A parent counts the child after a valid KEY_ACK. -/
  | keyAck (msg : Bytes) (now : Nat)
  /-- `CONFIRM`, R157: An attest-only session ends on CONFIRM and sets the domain member flag. -/
  | confirm (msg : Bytes) (now : Nat)
  /-- `EPOCH_NEW`, R162: A child verifies EPOCH_NEW, stores the pending key and forwards it to its children. -/
  | epochNew (msg : Bytes) (now : Nat)
  /-- `EPOCH_READY`, R162: A parent records a child's readiness and sends its own EPOCH_READY or commits when all have answered. -/
  | epochReady (msg : Bytes) (now : Nat)
  /-- `EPOCH_COMMIT`, R163: A member commits the pending domain key, re-derives channel and square keys and forwards the commit. -/
  | epochCommit (msg : Bytes) (now : Nat)
  /-- `LEAVE`, R164: A valid LEAVE makes a parent drop the child or a child set orphan. -/
  | leave (msg : Bytes) (now : Nat)
  /-- `REPORT_REQ`, R158: A REPORT_REQ in a domain session is answered with a signed or tagged report. -/
  | reportReq (msg : Bytes) (now : Nat)
  /-- `REPORT`, R158: A REPORT is received from a peer in a domain session. -/
  | report (msg : Bytes) (now : Nat)
  /-- `HOLD`, R159: A received HOLD restarts the requester's retransmission count. -/
  | hold (msg : Bytes) (now : Nat)
  /-- `REFUSE`, R152: A received REFUSE ends the join with DENIED. -/
  | refuse (msg : Bytes) (now : Nat)
  /-- `DOMAIN_RETRANSMIT`, R159: A party waiting for a domain message retransmits after each channel timeout and ends the session after the fourth. -/
  | domainRetransmit (part sess : Nat) (now : Nat)
  /-- `DOMAIN_REASSEMBLY_TIMEOUT`, R153: A domain message whose fragments do not all arrive within the channel timeout is discarded. -/
  | domainReassemblyTimeout (srcNode srcPart : Nat) (now : Nat)
  /-- `OLD_DOMAIN_KEY_ERASE`, R163: One second after a commit the old domain key is erased and traffic under it discarded. -/
  | oldDomainKeyErase (part : Nat) (now : Nat)
  /-- `PORT_NODE_WRITE`, R171: A write to PORT.NODE sets the fabric node number for every port unless locked. -/
  | portNodeWrite (req : Requester) (port : Nat) (val : Word) (now : Nat)
  /-- `CHANNEL_SEND`, R185: A channel send request is checked, assigned a sequence and sent as a DATA packet or held for credit or link. -/
  | channelSend (port : Nat) (hdr : BitVec 256) (payload : Bytes) (now : Nat)
  /-- `RESERVED_REQUEST_TYPE`, R488: A transmit-stream request with a reserved type or bad header is refused with BAD_FIELD. -/
  | reservedRequestType (port : Nat) (hdr : BitVec 256) (payload : Bytes) (now : Nat)
  /-- `DATA`, R189: A received DATA packet is checked, tag-verified, window-checked and released to the merge buffer. -/
  | data (port : Nat) (pkt : Bytes) (now : Nat)
  /-- `MARKER`, R197: A received MARKER is verified and accepted into the window, or its stored acknowledgement is resent. -/
  | marker (port : Nat) (pkt : Bytes) (now : Nat)
  /-- `MARKER_ACKNOWLEDGE`, R197: Once the floor passes the marker and its merge entries have drained, the receiver sends and stores MARK_ACK. -/
  | markerAcknowledge (slot : Nat) (now : Nat)
  /-- `MARK_ACK`, R198: A transmitter accepts a MARK_ACK for its outstanding marker or discards it. -/
  | markAck (port : Nat) (pkt : Bytes) (now : Nat)
  /-- `CREDIT`, R192: A transmitter accepts a newer CREDIT, raises its credited floor and merge credits, and sends held requests. -/
  | credit (port : Nat) (pkt : Bytes) (now : Nat)
  /-- `SYNC_REQ`, R184: A transmitter answers a SYNC_REQ with a SYNC_ACK state, advancing or downing the channel as the state requires. -/
  | syncReq (port : Nat) (pkt : Bytes) (now : Nat)
  /-- `SYNC_ACK`, R183: A syncing receive channel verifies a SYNC_ACK and enters OPEN or DOWN. -/
  | syncAck (port : Nat) (pkt : Bytes) (now : Nat)
  /-- `CTRL_DOMAIN_FRAGMENT`, R180: A CTRL packet of type DOMAIN is rate-checked and its fragment reassembled into a domain message. -/
  | ctrlDomainFragment (port : Nat) (pkt : Bytes) (now : Nat)
  /-- `RESERVED_KIND_PACKET`, R174: A packet of reserved kind or version, or naming an absent partition, is discarded as malformed. -/
  | reservedKindPacket (port : Nat) (pkt : Bytes) (now : Nat)
  /-- `SYNC_TIMEOUT`, R183: A syncing receive channel resends SYNC_REQ after each channel timeout and goes DOWN after four unanswered sends. -/
  | syncTimeout (slot : Nat) (now : Nat)
  /-- `MARKER_RESEND`, R198: A marker unacknowledged for a quarter of the channel timeout is resent from stored bytes. -/
  | markerResend (slot : Nat) (now : Nat)
  /-- `MARKER_TIMEOUT`, R200: A marker unacknowledged for the channel timeout takes its channel DOWN. -/
  | markerTimeout (slot : Nat) (now : Nat)
  /-- `CREDIT_STALL_TIMEOUT`, R200: A request held for credit for the channel timeout takes the channel DOWN. -/
  | creditStallTimeout (slot : Nat) (now : Nat)
  /-- `GAP_TIMEOUT`, R200: A receive floor that does not advance past a gap for the channel timeout takes the channel DOWN and discards held packets. -/
  | gapTimeout (slot : Nat) (now : Nat)
  /-- `CREDIT_TIMER`, R192: A receiver sends a CREDIT 1 µs after an unreported floor advance. -/
  | creditTimer (slot : Nat) (now : Nat)
  /-- `KEPT_EPOCH_EXPIRY`, R188: A former channel epoch's key stops being accepted one channel timeout after it was left. -/
  | keptEpochExpiry (slot : Nat) (now : Nat)
  /-- `HELD_REQUEST_TIMEOUT`, R185: A sum or multicast request held for HALL.CH_TIMEOUT is refused with HANG. -/
  | heldRequestTimeout (port : Nat) (now : Nat)
  /-- `LINK_UP`, R185: A port link coming up lets held packets leave on it. -/
  | linkUp (port : Nat) (now : Nat)
  /-- `LINK_DOWN`, R185: A port link going down removes it from steering. -/
  | linkDown (port : Nat) (now : Nat)
  /-- `CH_EVICT`, R195: A manager write to HALL.CH_EVICT evicts a channel slot as CHCLOSE does. -/
  | chEvict (req : Requester) (slot : Nat) (now : Nat)
  /-- `SUM_REQUEST`, R223: A sum request is checked, converted, masked and sent, gathered or kept as the receiver's own term. -/
  | sumRequest (port : Nat) (hdr : BitVec 256) (payload : Bytes) (now : Nat)
  /-- `SUM`, R226: A received SUM packet is checked and added to a gathering or receiver accumulator. -/
  | sum (port : Nat) (pkt : Bytes) (now : Nat)
  /-- `GATHER_TIMEOUT`, R225: A gathering accumulator open for HALL.CH_TIMEOUT is discarded. -/
  | gatherTimeout (square pair pkt : Nat) (now : Nat)
  /-- `ACCUMULATOR_TIMEOUT`, R227: A receiver accumulator still below N after HALL.CH_TIMEOUT fails with SUM_INCOMPLETE. -/
  | accumulatorTimeout (square pair pkt : Nat) (now : Nat)
  /-- `RING_TIMEOUT`, R229: A ring with no arrival for HALL.CH_TIMEOUT fails its packets without accumulators and ends. -/
  | ringTimeout (square pair : Nat) (now : Nat)
  /-- `SUM_EVENT`, R229: When a ring ends, a sum event is posted to the receiving partition's FIFO. -/
  | sumEvent (square pair : Nat) (now : Nat)
  /-- `SUM_RELEASE`, R235: A write of PORCH.SUM_RELEASE frees the selected sum context and its accumulators. -/
  | sumRelease (req : Requester) (part : Nat) (now : Nat)
  /-- `MULTICAST_REQUEST`, R247: A multicast request is checked, takes the next multicast sequence and is sent as an MSTORE. -/
  | multicastRequest (port : Nat) (hdr : BitVec 256) (payload : Bytes) (now : Nat)
  /-- `MSTORE`, R248: A received MSTORE is verified, replay-checked per sender and merged as a STORE. -/
  | mstore (port : Nat) (pkt : Bytes) (now : Nat)
  /-- `SQUARE_READ`, R256: A square read request is checked and sent as a READ_REQ, or absorbed by a pending identical read. -/
  | squareRead (port : Nat) (hdr : BitVec 256) (payload : Bytes) (now : Nat)
  /-- `READ_REQ`, R254: A responder takes a READ_REQ, joins a pending response or starts a memory read for the lines. -/
  | readReq (port : Nat) (pkt : Bytes) (now : Nat)
  /-- `READ_RSP`, R256: A requester verifies a READ_RSP's line tags and delivers the lines or a failure status. -/
  | readRsp (port : Nat) (pkt : Bytes) (now : Nat)
  /-- `SQUARE_READ_TIMEOUT`, R256: A square read with no answer within HALL.CH_TIMEOUT is delivered with PEER_TIMEOUT. -/
  | squareReadTimeout (port : Nat) (tag : BitVec 8) (now : Nat)
  /-- `MERGE_WINDOW_CLOSE`, R259: An entry open for HALL.MERGE_WINDOW drains. -/
  | mergeWindowClose (line : Nat) (now : Nat)
  /-- `MARKER_FLUSH`, R259: At a 64-lc flush boundary after a marker is released, entries listing its channel drain. -/
  | markerFlush (port : Nat) (now : Nat)
  /-- `MEMORY_READ`, R282: A read on a network stream is admitted and its line fetched or served from a fresh or sealed path. -/
  | memoryRead (engine stream : Nat) (hdr : BitVec 256) (now : Nat)
  /-- `MEMORY_WRITE`, R285: A write on a network stream is admitted, advances the line minor, encrypts, tags and issues the line. -/
  | memoryWrite (engine stream : Nat) (hdr : BitVec 256) (payload : Bytes) (now : Nat)
  /-- `STACK_READ_RESPONSE`, R491: A line read from a stack arrives, is code-checked and verified, and released, failed or poisoned. -/
  | stackReadResponse (engine : Nat) (tag : BitVec 12) (line check : Bytes) (status : BitVec 4) (now : Nat)
  /-- `LANDING_SLOT_GRANT`, R315: A sealed read waiting for a Landing slot takes one when it frees. -/
  | landingSlotGrant (engine : Nat) (now : Nat)
  /-- `PANTRY_SPLIT_ADJUST`, R281: Every 16 µs the engine moves one Pantry way between classes and adjusts the dirty ceiling. `ties`: from which class on a
  tie takes the first, of those that saved fewest and of those that missed most, which the rule leaves open. -/
  | pantrySplitAdjust (engine : Nat) (ties : Nat × Nat) (now : Nat)
  /-- `PANTRY_SPLIT_WRITE`, R300: A write to MEM.PANTRY_SPLIT takes effect only under hold with classes summing to working_ways. -/
  | pantrySplitWrite (req : Requester) (engine : Nat) (val : Word) (now : Nat)
  /-- `ERR_INFO_RELEASE`, R301: Writing 1 to MEM.ERR_INFO.valid releases the captured memory error. -/
  | errInfoRelease (req : Requester) (engine : Nat) (now : Nat)
  /-- `SEG_ERR_RELEASE`, R328: Writing 1 to MEM.SEG_ERR.valid releases the captured segment failure. -/
  | segErrRelease (req : Requester) (engine : Nat) (now : Nat)
  /-- `REGION_SHARE_WRITE`, R292: A write to HALL.REGION_SHARE sets a BASE region's share mask, making it read-only, with forbidden clears ignored. -/
  | regionShareWrite (req : Requester) (val : Word) (now : Nat)
  /-- `REGION_RIGHTS_WRITE`, R293: A write to HALL.REGION_RIGHTS lowers a region's dma or debug right; a raise is ignored. -/
  | regionRightsWrite (req : Requester) (val : Word) (now : Nat)
  /-- `PAGE_CONVERSION`, R333: A conversion unit locks a page, re-encrypts it under the new key (or imports an export record) and unlocks it. -/
  | pageConversion (engine job : Nat) (now : Nat)
  /-- `EXPORT_PAGE`, R339: An export job encrypts one page as an export record to host memory and leaves it in export form. -/
  | exportPage (engine job : Nat) (now : Nat)
  /-- `REKEY_END`, R335: After the boundary passes the last page and old-key uses drain, the old key is erased and the job event posted. -/
  | rekeyEnd (job : Nat) (now : Nat)
  /-- `SWEEP_CHUNK`, R351: The Sweep writes one chunk's level-1 node and leaves in fresh form, freeing regions as they finish. -/
  | sweepChunk (engine job : Nat) (now : Nat)
  /-- `PANTRY_WRITE_AHEAD`, R480: The background scheduler writes one dirty Pantry line ahead of eviction when tokens allow. -/
  | pantryWriteAhead (engine : Nat) (now : Nat)
  /-- `JOB_STALL`, R447: A background job with no progress report for 3 ms is restarted or ended with HANG. -/
  | jobStall (job : Nat) (now : Nat)
  /-- `HEARTBEAT_MISS`, R446: An engine with no heartbeat for HALL.HEARTBEAT_LIMIT has hung, raising block-critical error 0x01. -/
  | heartbeatMiss (island : Byte) (now : Nat)
  /-- `PAGE_TABLE_WRITE`, R343: A write to PORCH.PAGE_TABLE names the paging table region, ignored while entries are nonzero. -/
  | pageTableWrite (req : Requester) (thread : Nat) (val : Word) (now : Nat)
  /-- `MEM_CPL`, R493: A host read completion with data arrives on the host-path stream. -/
  | memCpl (tag : Nat) (ok : Bool) (payload : Bytes) (now : Nat)
  /-- `HOST_WRITE_COMPLETE`, R344: The host path reports a record's writes complete, letting PAGEOUT, SAVE or ATTEST finish. -/
  | hostWriteComplete (tag : Nat) (now : Nat)
  /-- `XLAT_CPL`, R348: A host page translation completes and fills the region lookup cache. -/
  | xlatCpl (page : Nat) (ok : Bool) (now : Nat)
  /-- `INVAL`, R348: A host address invalidation stops new uses of matching lookup entries. -/
  | inval (page : Nat) (now : Nat)
  /-- `INVAL_DONE`, R348: Once uses under the old translation complete, Kerre removes the entries and sends the completion. -/
  | invalDone (page : Nat) (now : Nat)
  /-- `DOE_ABORT`, R493: A DOE mailbox abort makes Kerre discard the response to the aborted object. -/
  | doeAbort (at_ : SpdmPort) (now : Nat)
  /-- `PART_ENABLE`, R362: HALL.PART_CTRL ENABLE makes a DISABLED partition ENABLED with its PART entry live. -/
  | partEnable (req : Requester) (part : Nat) (now : Nat)
  /-- `PART_DISABLE`, R362: HALL.PART_CTRL DISABLE returns an unlocked ENABLED partition to DISABLED. -/
  | partDisable (req : Requester) (part : Nat) (now : Nat)
  /-- `PART_RESET`, R448: HALL.PART_CTRL RESET starts a partition reset of the named partition. -/
  | partReset (req : Requester) (part : Nat) (now : Nat)
  /-- `PARTITION_RESET_END`, R448: A partition reset ends, restarting counters and mailboxes, returning to ENABLED and writing a Cellar record. -/
  | partitionResetEnd (part : Nat) (now : Nat)
  /-- `MAILBOX_POST`, R372: A 128-bit header write with full set posts a mailbox slot, sets its sequence and time and raises the receiver's source. -/
  | mailboxPost (req : Requester) (outbound : Bool) (part slot : Nat) (header : BitVec 128) (now : Nat)
  /-- `MAILBOX_TAKE`, R373: Writing 1 to a slot's full bit takes the slot and zeroes it. -/
  | mailboxTake (req : Requester) (outbound : Bool) (part : Nat) (slots : BitVec 16) (now : Nat)
  /-- `MIGRATE_WRITE`, R388: A write to PORCH.MIGRATE records migration consent, ignored with a reserved bit set. -/
  | migrateWrite (req : Requester) (part : Nat) (val : Word) (now : Nat)
  /-- `IDENT`, R395: Kerre checks a module's IDENT chains, cross-binding and signatures. -/
  | ident (frame : Bytes) (now : Nat)
  /-- `PROOF`, R395: Kerre checks the module's PROOF under the derived pairing key. -/
  | proof (frame : Bytes) (now : Nat)
  /-- `PAIR_OK`, R396: On a verified PAIR_OK Kerre installs the new pairing key and clears seal_event. -/
  | pairOk (frame : Bytes) (now : Nat)
  /-- `MANIFEST`, R397: Kerre verifies the manifest received from the module. -/
  | manifest (frame : Bytes) (now : Nat)
  /-- `VAULT_KEY`, R395: Kerre unwraps the content key from the module's KEY frame into the content-key register. -/
  | vaultKey (frame : Bytes) (now : Nat)
  /-- `SHARD_DATA`, R402: A shard is decrypted into the region and its tag checked; a failure refreshes and re-requests it, ending the job after four. -/
  | shardData (frame : Bytes) (now : Nat)
  /-- `PROG_OK`, R406: The module's PROG_OK ends a programming, recorded in the module counts and VAULT.PROG_RESULT. -/
  | progOk (frame : Bytes) (now : Nat)
  /-- `VAULT_ERROR`, R396: A module ERROR ends the running Vault command with VAULT_SEAL, VAULT_LIFE or VAULT_AUTH. -/
  | vaultError (frame : Bytes) (now : Nat)
  /-- `VAULT_FRAME_TIMEOUT`, R393: A module that does not answer within 10 ms fails the exchange or the shard. -/
  | vaultFrameTimeout (now : Nat)
  /-- `VLOAD_START`, R401: The next accepted load starts, load-locks its region, rekeys it and requests its shards. -/
  | vloadStart (now : Nat)
  /-- `VAULT_SEAL_OPEN`, R391: A filtered falling edge of VAULT_SEAL_N zeroises the Vault keys, ends loads and sets seal_event. -/
  | vaultSealOpen (now : Nat)
  /-- `COUNT_READ`, R414: A read of PORCH.COUNT in a step-reset latch cc returns the completed value and sets the rolled bit. -/
  | countRead (req : Requester) (part k : Nat) (now : Nat)
  /-- `MANAGER_SNAP`, R416: A write of go to COUNT.SNAP_CTRL latches all global and partition counters in the second cc after. -/
  | managerSnap (req : Requester) (now : Nat)
  /-- `ATTIC_RECORD_WRITE`, R417: A queued Attic record takes the next global sequence and overwrites the ring position, or is dropped. -/
  | atticRecordWrite (now : Nat)
  /-- `ATTIC_EXPORT`, R421: Each complete block of 128 records is written to host memory when export is set. -/
  | atticExport (now : Nat)
  /-- `ATTIC_REC_LATCH`, R420: A read of word 0 of ATTIC_REC latches the record the cursor names, or LOST. -/
  | atticRecLatch (req : Requester) (thread : Nat) (now : Nat)
  /-- `ATTIC_REC_ADVANCE`, R420: A read of word 3 of ATTIC_REC advances the cursor. -/
  | atticRecAdvance (req : Requester) (thread : Nat) (now : Nat)
  /-- `EXTERNAL_EDGE`, R435: A filtered active edge of an external input is latched and pends its source. -/
  | externalEdge (src : Nat) (now : Nat)
  /-- `STORM_INTERVAL_END`, R436: Each 1 ms interval of house time restarts the storm edge counts. -/
  | stormIntervalEnd (now : Nat)
  /-- `STUCK_TIMEOUT`, R436: An external level source active for INTC.STUCK_TIME is masked and flagged. -/
  | stuckTimeout (src : Nat) (now : Nat)
  /-- `LEVEL_INPUT_CHANGE`, R429: A level source's input changes, making it pending or not. -/
  | levelInputChange (src : Nat) (active : Bool) (now : Nat)
  /-- `INTERRUPT_DELIVERY`, R432: At a reference edge each free target selects the lowest pending enabled source and presents it. -/
  | interruptDelivery (now : Nat)
  /-- `EOI`, R431: A write of the in-service source to INTC.EOI ends its service on a MANUAL target. -/
  | eoi (req : Requester) (target : Nat) (val : Word) (now : Nat)
  /-- `IRQ_ACK`, R431: The host chip's acknowledgement ends service on a MESSAGE target. -/
  | irqAck (target : Nat) (now : Nat)
  /-- `MASK_SET`, R439: A write to INTC.MASK_SET masks sources. -/
  | maskSet (req : Requester) (w : Nat) (val : Word) (now : Nat)
  /-- `MASK_CLR`, R439: A write to INTC.MASK_CLR unmasks sources. -/
  | maskClr (req : Requester) (w : Nat) (val : Word) (now : Nat)
  /-- `PEND_SET`, R429: A write to INTC.PEND_SET pends edge sources. -/
  | pendSet (req : Requester) (w : Nat) (val : Word) (now : Nat)
  /-- `PEND_CLR`, R429: A write to INTC.PEND_CLR clears edge sources' pending bits. -/
  | pendClr (req : Requester) (w : Nat) (val : Word) (now : Nat)
  /-- `TARGET_WRITE`, R430: The first write to INTC.TARGET stores and locks the source's target; later writes are ignored and counted. -/
  | targetWrite (req : Requester) (src : Nat) (val : Word) (now : Nat)
  /-- `TGT_CTRL_WRITE`, R430: The first write to INTC.TGT_CTRL sets and locks the target's mode. -/
  | tgtCtrlWrite (req : Requester) (target : Nat) (val : Word) (now : Nat)
  /-- `DUMP_STATUS_RELEASE`, R463: Writing 1 to CELLAR.DUMP_STATUS.valid releases the crash dump and clears missed. -/
  | dumpStatusRelease (req : Requester) (now : Nat)
  /-- `SELF_TEST`, R458: An idle lane or Pantry way runs its known-answer test; a second failure maps it out. -/
  | selfTest (unit : TestUnit) (fails failsAgain : Bool) (now : Nat)
  /-- `POWER_OFF_REQUEST`, R471: A cleared bit of SIDE.PWR_REQ switches a domain off if its condition holds, or sets PWR_REFUSED. -/
  | powerOffRequest (req : Requester) (domain : Nat) (now : Nat)
  /-- `POWER_ON_REQUEST`, R472: A set bit of SIDE.PWR_REQ raises the power request for an off domain. -/
  | powerOnRequest (req : Requester) (domain : Nat) (now : Nat)
  /-- `PWR_ACK`, R472: The power switch acknowledgement completes a domain's off or on transition. -/
  | pwrAck (domain : Nat) (level : Bool) (now : Nat)
  /-- `POWER_ACK_TIMEOUT`, R472: A late power acknowledgement leaves the domain in transition and is counted in SIDE.PWR_FAULT. -/
  | powerAckTimeout (domain : Nat) (now : Nat)
  /-- `DVFS_MEASURE`, R475: Every 1 µs an island's loop measures occupancy and raises or lowers its operating point. -/
  | dvfsMeasure (domain occupancy queueMax : Nat) (now : Nat)
  /-- `VOK`, R475: The regulator reports the voltage settled and the island switches its clock up. -/
  | vok (domain : Nat) (now : Nat)
  /-- `SPREAD_STEP`, R476: Every 1 µs each spread island clock takes a pseudo-random step. -/
  | spreadStep (domain : Nat) (now : Nat)
  /-- `CLK_SPREAD_WRITE`, R476: A write to SIDE.CLK_SPREAD turns spreading off only in MANUFACTURE and DEBUG. -/
  | clkSpreadWrite (req : Requester) (val : Word) (now : Nat)
  /-- `BUDGET_STROBE`, R478: The always-on island latches a budget word on the EBUD_VLD strobe. -/
  | budgetStrobe (word : BitVec 32)
  /-- `BUDGET_EPOCH`, R479: At each 100 µs boundary B takes the latest word, T is refilled and job ages advance. -/
  | budgetEpoch (now : Nat)
  /-- `LINK_STATE_RECORD_ACCESS`, R504: The link layer reads or writes its per-port link-state record in retention SRAM. -/
  | linkStateRecordAccess (addr : BitVec 10) (write : Option Word)
  /-- `REGISTER_READ`, R36: A register-port read that breaks a port rule (size, alignment, NOT_READY, unmapped, denied) returns zero, is counted, captured and, except for UNMAPPED, signals the error response and raises source 5. -/
  | registerRead (req : Requester) (off size : Nat) (now : Nat)
  /-- `LANDING_FULL`, R427: A port's Landing that stays full for 1 µs pends that port's source 96 + p. -/
  | landingFull (port : Nat) (now : Nat)
  /-- `FUSE_BLOW_DONE`, R498: The fuse port reports a blow complete, after which Kerre reads the word back, blows again once on failure, and goes on to respond to the transition or credential command. -/
  | fuseBlowDone (readsBack : Bool) (now : Nat)
  /-- `DYNAMIC_ADDRESS_ASSIGNMENT`, R496: Under the I3C binding the bus controller assigns Kerre's management target a dynamic address. -/
  | dynamicAddressAssignment (addr : BitVec 7)
  /-- `ENDPOINT_ID_ASSIGNMENT`, R140: The MCTP bus owner assigns Kerre an endpoint ID, which SIDE.MGMT_INFO then reports in place of zero. -/
  | endpointIdAssignment (eid : Byte)
  deriving DecidableEq, Repr

end Sys2Proof
end

