-- ==== Sys2Proof/Decode.lean ====
section
/-! DEFINITION. Decoding. No row of spec/opcode_table.json has bits, so no word spells a command: commands arrive as
events at the block's ports (R486), each with the operands of its rule. -/

namespace Sys2Proof

/-- The command a word of the table's bits spells: the table gives no row any bits. -/
def decodeTableWord (_nbits _w : Nat) : Option Instr := none

end Sys2Proof
end

