-- ==== Sys2Proof/Config.lean ====
section
/-! DEFINITION. What one built device fixes, and the values the spec leaves open: constants without a body, so that no
proof can lean on a value of theirs. Each names its log entry. -/

namespace Sys2Proof.Config

/-- Output of generate request n of the CTR_DRBG with its additional input (R79), read as 256 bits: a free value
(notes/assumptions/10.md). -/
opaque drbg : Nat → Bytes → Key

/-- Values fixed at manufacture that no rule states (R18, R140): silicon stepping, ROM version, the IANA enterprise
number, the spare-way count is in R279 (notes/assumptions/11.md). -/
opaque stepping : BitVec 8
opaque romVersion : BitVec 8
opaque iana : BitVec 32

/-- The bits of the configuration fuse word that are blown at manufacture beside config and stepping (R498)
(notes/assumptions/11.md). -/
opaque fuseConfig : BitVec 48

/-- M0, the ROM image digest (R126): the image is not in the spec (notes/assumptions/11.md). -/
opaque romDigest : Digest

/-- M2, the digest of the dispatch table of a ROM with or without a running patch (R126): the table's bytes are not in
the spec (notes/assumptions/11.md). -/
opaque dispatchDigest : Option Bytes → Digest

/-- P-384 and ML-DSA-87 (R103, FIPS 186-5, FIPS 204), uninterpreted (notes/assumptions/12.md): the public key of a
private scalar, a signature made with draw n, a verification. -/
opaque p384Public : Nat → Bytes
opaque p384Sign : Nat → Nat → Bytes → Bytes
opaque p384Verify : Bytes → Bytes → Bytes → Bool
opaque p384OnCurve : Bytes → Bool
opaque p384Ecdh : Nat → Bytes → Bytes
opaque mldsaPublic : Key → Bytes
opaque mldsaSign : Key → Nat → Bytes → Bytes → Bytes
opaque mldsaVerify : Bytes → Bytes → Bytes → Bytes → Bool

/-- ML-KEM-1024 (R103, FIPS 203), uninterpreted: the encapsulation key of pair n, the input check of a received one, decapsulation under pair n, and an
encapsulation to a key with draw n (ciphertext, shared secret) (notes/assumptions/12.md). -/
opaque mlkemPublic : Nat → Bytes
opaque mlkemKeyOk : Bytes → Bool
opaque mlkemDecaps : Nat → Bytes → Bytes
opaque mlkemEncaps : Bytes → Nat → Bytes × Bytes

/-- The order of P-384, which FIPS 186-5 gives and the identity scalar of R72 is taken modulo. -/
def p384Order : Nat := 0xFFFFFFFFFFFFFFFFFFFFFFFFFFFFFFFFFFFFFFFFFFFFFFFFC7634D81F4372DDF581A0DB248B0A77AECEC196ACCC52973

/-- The public key a certificate chain's leaf carries (R124), and whether a Vault module's two chains lead to the Drathen
Vault roots with their cross-binding (R390, R395): X.509 is outside the spec (notes/assumptions/12.md). -/
opaque leafKey : Bytes → Bytes
opaque vaultChainsOk : Bytes → Bytes → Bool
opaque vaultLeafKeys : Bytes → Bytes → Bytes × Bytes

/-- The Drathen patch keys whose digests the ROM holds (R71): their P-384 point and ML-DSA-87 key. -/
opaque patchP384 : Bytes
opaque patchMldsa : Bytes

/-- SPDM 1.3 quantities the standard defines (R132, R135): TH1 of a session's transcript, TH2 from it and FINISH, the requester's DHE
point in a transcript, a session's verify data, the key and IV of one direction (`true`: from Kerre) in the handshake or, after it, the
data phase at a key-update count, whether FINISH verifies, the responder's message bytes (notes/assumptions/13.md). -/
opaque spdmTh1 : Bytes → Bytes
opaque spdmTh2 : Bytes → Bytes → Bytes
opaque spdmShare : Bytes → Bytes
opaque spdmVerify : Bytes → Bytes → Bytes
opaque spdmTraffic : Bytes → Bytes → Bool → Nat → Bool → Key × Bytes
opaque spdmFinishOk : Bytes → Bytes → Bool
opaque spdmBody : Nat → Bytes → Bytes

/-- The hash of a Pantry (R279: not architectural), by engine, area of the stack and line modulo 1,024 (notes/assumptions/14.md). -/
opaque pantryHash : Nat → Nat → Nat → BitVec 10

/-- Which port of the candidates carries least load at occasion n (R185: the load is no register)
(notes/assumptions/15.md). -/
opaque leastLoaded : Nat → List Nat → Nat

/-- Bits 1 and 2 of PORT.LINK of a port as the host chip reports them (R207: link training, ready withheld), at occasion n
(notes/assumptions/90.md). -/
opaque linkReport : Nat → Nat → BitVec 2

/-- Percent of capacity of a partition over the last whole 1 ms (R387), at occasion n (notes/assumptions/16.md). -/
opaque utilisation : Nat → Nat → BitVec 32

/-- Word j of a crash dump taken at house time t of cause c (R462 names the contents and gives no layout)
(notes/assumptions/17.md). -/
opaque dumpWord : Nat → Nat → Nat → Word

/-- One step of the pseudo-random walk of an island clock (R476), by seed and step count: parts in ten thousand above
or below its point plus 200 (notes/assumptions/18.md). -/
opaque spreadStep : Nat → Nat → Nat

/-- A party's half of a domain session id (R153), which the spec leaves to the party, at occasion n
(notes/assumptions/41.md). -/
opaque sessionHalf : Nat → BitVec 16

/-- Which bits of a fuse word hold after a second blow whose read-back fails (R498), at occasion n: bit i of the number
(notes/assumptions/42.md). -/
opaque blownBits : Nat → Nat

end Sys2Proof.Config
end

