-- ==== Sys2Proof/Machine/State.lean ====
section
/-! DEFINITION. The machine's state as plain data: everything the spec gives the block, window by window, and the queue
of waiting commands. Sparse tables (`Tbl`) hold what differs from the default named beside them. Counts are natural
numbers, narrowed where a register shows them. -/

namespace Sys2Proof.Machine

/-! ## Threads (chapter 02) -/

/-- State of a handle entry (R47, R55). -/
inductive HState where
  | free | live | closing
  deriving DecidableEq, Repr

/-- One handle entry (R54): generation counted from the thread's base, state, the global slot while it is not free. -/
structure HEntry where
  gen : Nat := 1
  st : HState := .free
  slot : Nat := 0
  deriving DecidableEq, Repr

/-- Where an issued row stands (R59): decoded (NOP, FENCE, WAIT and unencoded opcodes), checked (EVENT), dispatched to an
engine, a pending barrier, being worked on by an engine, finished by its engine with a status, completed with a status. -/
inductive Stage where
  | decoded | checked | dispatched | barrier | running
  | finished (st : Byte)
  | completed (st : Byte)
  deriving DecidableEq, Repr

/-- A row in flight (R60): its row, its step, its stage, the global slots it holds or names, the slot its handle b names, the generation its freeing entry had,
the house time of decode and of dispatch, the deadline it was given (R445), rows in flight at decode, and whether a withdrawal is awaited (R445); the base sequence
value it holds (R508), whether the step that was to make an object it names has failed (R56), whether it waits for the DRBG (R80),
what an `ATTEST` (R129) or a `SAVE` (R379) composed at its dispatch, the consent that `SAVE` and `RESTORE` found there and the refusal
that `SAVE`'s state made (R379, R384). -/
structure Flight where
  row : Nat
  step : BitVec 128
  stage : Stage
  slot : Nat := 0
  keySlot : Nat := 0
  bSlot : Option Nat := none
  oldGen : Nat := 0
  decodedAt : Nat := 0
  dispatchedAt : Nat := 0
  limit : Nat := 0
  depth : Nat := 0
  acked : Nat := 0
  timedOut : Nat := 0
  markers : Nat := 0
  lost : Bool := false
  baseSeq : Nat := 0
  orphaned : Bool := false
  drawing : Bool := false
  report : Bytes := []
  consent : Word := 0
  ruling : Option Byte := none
  deriving DecidableEq, Repr

/-- An event waiting to be posted (R65, R66, R69, R229): row, opcode, status, cookie when it is the step's own, whether
it moves the cookie register, and whether it frees a job slot. -/
structure Post where
  row : Nat
  opcode : Byte
  status : Byte
  cookie : Option (BitVec 32) := none
  moves : Bool := false
  job : Bool := false
  deriving DecidableEq, Repr

/-- A sequencer thread with the registers of its Porch that the manager has too (R43, R304, R330, R358, R418). -/
structure Thread where
  rows : Tbl (BitVec 128) := []
  issueRow : Nat := 0
  retireRow : Nat := 0
  haltRow : Nat := 0
  flights : List Flight := []
  withdrawals : List Flight := []
  halting : Option Nat := none
  halted : Bool := false
  held : Bool := false
  overwrite : Bool := false
  fifoFull : Bool := false
  fifo : List (BitVec 128) := []
  posts : List Post := []
  jobEnds : List Post := []
  jobs : Nat := 0
  cookie : BitVec 32 := 0
  handleQuery : Word := 0
  xfer : Tbl Byte := []
  handleBase : Nat := 0
  handles : Tbl HEntry := []
  evHigh : Tbl Word := []
  regionSelect : Nat := 0
  sealStop : Option (Nat × Nat) := none
  sealLast : Nat × Nat := (0, 0)
  pageBase : Word := 0
  pageTable : BitVec 16 := 0
  pageVersion : Nat := 1
  pageOut : Nat := 0
  exportBase : Word := 0
  rekeySelect : Nat := 0
  atticMask : BitVec 7 := 0x5F
  atticNext : Nat := 0
  atticLost : Nat := 0
  atticCursor : Nat := 0
  atticFirst : Nat := 0
  snapWait : Option Nat := none
  errorAt : Tbl Nat := []
  deriving DecidableEq, Repr

/-! ## Keys (chapter 03) -/

/-- A Larder slot (R81, R108): the slot's words, which copies are bad, its state 0 free, 1 live, 2 closing, 3 reserved slot in use,
and the thread that still holds it once it is retired (R87, R100). -/
structure LSlot where
  key : Key := 0
  attr : Word := 0
  owner : Word := 0
  check : BitVec 32 := 0
  st : BitVec 2 := 0
  primaryBad : Bool := false
  shadowBad : Bool := false
  retired : Bool := false
  heldBy : Option Nat := none
  deriving DecidableEq, Repr

/-- A pool of global slots (R57): slots below `limit` from `next` on have never been used since reset, `freed` lists
the slots returned since, oldest first, `live` counts slots given out. -/
structure Pool where
  next : Nat := 0
  limit : Nat := 0
  freed : List Nat := []
  live : Nat := 0
  deriving DecidableEq, Repr

/-- DRBG and entropy state (R80, R107). -/
inductive DrbgState where
  | instantiating | ready | reseeding | healthHold | failed
  deriving DecidableEq, Repr

/-- The DRBG and its entropy source (R79, R80, R107); `seeded` once this boot's start-up test has passed and the keys of R73 step 2 are
made. -/
structure Drbg where
  st : DrbgState := .instantiating
  seeded : Bool := false
  draws : Nat := 0
  sinceReseed : Nat := 0
  lastReseed : Nat := 0
  reseeds : Nat := 0
  fails : Nat := 0
  deriving DecidableEq, Repr

/-- A request in the public-key engine (R105): a step's row, or another function's request, and when it started. -/
structure PkeReq where
  thread : Nat
  row : Option Nat
  since : Nat
  deriving DecidableEq, Repr

/-- The Larder and its registers (R106), the DRBG, the key-tree unit's private registers and the public-key engine. -/
structure Larder where
  slots : Tbl LSlot := []
  pool : Pool := {}
  subst : Tbl Nat := []
  retiredCount : Nat := 0
  fallbackCount : Nat := 0
  healthFails : Nat := 0
  scrubTime : Nat := 0
  slotKey : Option Key := none
  drbg : Drbg := {}
  baseSeq : Nat := 1
  managerPair : Nat := 0
  managerPaging : Key := 0
  identity : Option (Nat × Key) := none
  pke : List PkeReq := []
  pkeWait : List PkeReq := []
  deriving DecidableEq, Repr

/-! ## Life cycle, management, SPDM (chapter 04) -/

/-- The fuse banks (R498). -/
structure Fuses where
  uds : Key := 0
  udsCheck : BitVec 32 := 0
  lc : BitVec 9 := 0
  creds : Tbl Digest := []
  credCount : Nat := 0
  deriving DecidableEq, Repr

/-- A transition or credential command waiting for its blow (R115, R498): the command's code, the message it answers,
the session, whether a blow has failed once, the body of its response, and what a credential or the UDS blows. -/
structure Blow where
  code : Byte
  seq : BitVec 32
  sess : Option Nat
  failed : Bool := false
  body : Bytes := []
  data : Bytes := []
  deriving DecidableEq, Repr

inductive Presence where
  | idle | held | lockout
  deriving DecidableEq, Repr

/-- SIDE registers of life cycle and management (R140) and the management responder (R120); the life-cycle word as
the last boot or block warm reset read it (R110, R141). -/
structure Mgmt where
  lcWord : BitVec 9 := 0
  presence : Presence := .idle
  lineLow : Bool := false
  lowSince : Nat := 0
  armed : Option Nat := none
  armedAt : Nat := 0
  armedCount : Nat := 0
  lockouts : Nat := 0
  eid : Byte := 0
  i3c : Bool := false
  address : BitVec 7 := 0
  dynamic : Option (BitVec 7) := none
  nonce : Option Key := none
  lastSeq : Option Nat := none
  cred : Option Bytes := none
  blow : Option Blow := none
  blowFail : Bool := false
  readOk : Bool := false
  udsValid : Bool := false
  coldNeeded : Bool := false
  measure : Tbl Digest := []
  fallback : Bool := false
  boardedSince : Bool := false
  patch : BitVec 2 := 0
  svn : Byte := 0
  chains : Tbl Bytes := []
  discarded : Nat := 0
  deriving DecidableEq, Repr

/-- A secured session (R13, R132, R136): its secret and transcript hashes, from which its keys come, and how many records Kerre has
sent under the keys in use. -/
structure Session where
  port : SpdmPort
  id : BitVec 32
  th1 : Bytes
  secret : Bytes := []
  th2 : Bytes := []
  sent : Nat := 0
  established : Bool := false
  updates : Nat := 0
  reported : Bool := false
  lastHeard : Nat := 0
  deriving DecidableEq, Repr

/-- A generate request that waits while the DRBG does not serve (R79, R80): the nonce of a management response, the UDS of a `PROVISION`,
an SPDM request, a bind, the nonce of a Vault HELLO, the encapsulation that answers an IDENT, the region keys of a blob that has come, the seed and tree key of
a power domain. -/
inductive DrawReq where
  | answer (sess : Option Nat) (code seq : Nat) (st : Byte) (body : Bytes)
  | provision (sess : Option Nat) (msg : Bytes)
  | challenge (at_ : SpdmPort) (slot : Nat) (nonce : Key)
  | keyExchange (at_ : SpdmPort) (reqId : BitVec 16) (transcript : Bytes)
  | bind (part : Nat) (quiet : Bool)
  | hello
  | pair (ident : Bytes)
  | restore (thread row : Nat) (blob : Bytes)
  | powerOn (domain : Nat)
  deriving DecidableEq, Repr

/-- One IDE stream (R144). -/
structure IdeStream where
  id : BitVec 8 := 0
  programmed : Bool := false
  activeSet : Bool := false
  running : Bool := false
  deriving DecidableEq, Repr

/-- One operation of the IDE key port (R495): op 1 KEY_PROG, 2 K_SET_GO, 3 K_SET_STOP, with the key copy Kerre holds
until the acknowledge; `own` when a reset makes it and no request awaits an answer. -/
structure IdeOp where
  op : Nat
  stream : Nat
  keySet : Bool
  tx : Bool
  sub : BitVec 2
  key : Key := 0
  iv : BitVec 64 := 0
  since : Nat := 0
  own : Bool := false
  deriving DecidableEq, Repr

/-! ## Domains (chapter 05) -/

inductive DomState where
  | none | joining | member
  deriving DecidableEq, Repr

/-- What a domain session is for (R158). -/
inductive DRole where
  | parent | child | peer
  deriving DecidableEq, Repr

/-- How far a domain session has come (R154 to R157, R162). -/
inductive DStage where
  | helloSent | helloHeld | proofPSent | proofCSent | keySent | keyed | confirmSent | epochNewSent | readySent
  deriving DecidableEq, Repr

/-- One domain session (R157 to R159): peer, session id, nonces, the transcript so far, its hash once fixed, the last
message sent and when, unanswered sends, the peer's import keys and identity digest. -/
structure DSess where
  role : DRole
  stage : DStage
  node : Nat
  part : Nat
  id : BitVec 32
  ownNonce : Key := 0
  peerNonce : Key := 0
  transcript : Bytes := []
  th : Bytes := []
  lastMsg : Bytes := []
  lastSent : Nat := 0
  sends : Nat := 0
  importP : Bytes := []
  importK : Bytes := []
  ready : Option Nat := none
  commits : Nat := 0
  reported : Bool := false
  deriving DecidableEq, Repr

/-- The domain of one partition (R166, R167) with what its protocol keeps: a pending key's slot and epoch, the slot, epoch and commit
time of each key kept for its overlap, the parent session a member gave up to join another parent; the tickets read at the dispatch of `DOMJOIN` and `DOMLEAD` steps still working, by row (R150), the
row of the join under way and the core its parent sent. -/
structure Domain where
  st : DomState := .none
  parentNode : Nat := 0
  parentPart : Nat := 0
  epoch : Nat := 0
  leader : Bool := false
  orphan : Bool := false
  id : BitVec 64 := 0
  version : BitVec 32 := 0
  core : Bytes := []
  verifier : Bytes := []
  entry : Bytes := []
  pending : Option (Nat × Nat) := none
  pendingCore : Bytes := []
  joinRow : Option Nat := none
  joinCore : Bytes := []
  tickets : Tbl Bytes := []
  old : List (Nat × Nat × Nat) := []
  sessions : List DSess := []
  former : Option DSess := none
  heldNew : List Bytes := []
  deriving DecidableEq, Repr

/-- A domain message being reassembled in a port's Landing (R153): its header with the offset taken as zero, the parts of its body that came. -/
structure Reassembly where
  port : Nat
  srcNode : Nat
  srcPart : Nat
  dstPart : Nat
  head : Bytes
  got : List (Nat × Bytes)
  since : Nat
  deriving DecidableEq, Repr

/-! ## Channels and ports (chapter 06) -/

inductive ChState where
  | free | open_ | syncing | closing | down
  deriving DecidableEq, Repr

/-- One key position of a channel slot (R188): epoch, domain-epoch bit, key, house time of last use. -/
structure ChKey where
  epoch : Nat
  dom : Bool
  key : Key
  used : Nat
  deriving DecidableEq, Repr

/-- An outstanding marker of a transmit channel (R196, R198): its sequence, its packet once encrypted, whether it has left,
when its RFENCE dispatched. -/
structure MarkerOut where
  m : Nat
  bytes : Bytes := []
  sent : Bool := false
  since : Nat
  firstSent : Nat
  lastSent : Nat
  thread : Nat
  row : Nat
  deriving DecidableEq, Repr

/-- A packet accepted by a receive channel's window that waits for a gap to fill (R258): in one of its port's staging registers, as
plaintext, or in the port's Landing, as channel ciphertext with the key its lanes decrypt it under (R318, R319). -/
structure Waiting where
  seq : Nat
  marker : Bool
  epoch : Nat
  dom : Bool
  add : Bool
  offset : Nat
  staged : Bool
  key : Key
  payload : Bytes
  port : Nat
  deriving DecidableEq, Repr

/-- A request held in a port's stall buffer (R185, R192). -/
structure HeldReq where
  seq : Nat
  tag : BitVec 8
  port : Nat
  add : Bool
  offset : Nat
  payload : Bytes
  since : Nat
  deriving DecidableEq, Repr

/-- A channel slot (R181 to R201, R209); `ackAgain` while a stored MARK_ACK is to go again and no link is up (R185, R198), `drainedAt` the
touches drained at its last CREDIT (R260). -/
structure Chan where
  st : ChState := .free
  rx : Bool := false
  thread : Nat := 0
  index : Nat := 0
  gen : Nat := 0
  peerNode : Nat := 0
  peerPart : Nat := 0
  id : Nat := 0
  cause : Nat := 0
  epoch : Nat := 0
  keys : List ChKey := []
  next : Nat := 0
  floor : Nat := 0
  seen : List Nat := []
  credited : Nat := 0
  lastCredit : Option Nat := none
  grant : Nat := 1024
  touches : Nat := 0
  epochPkts : Nat := 0
  epochBytes : Nat := 0
  held : List HeldReq := []
  marker : Option MarkerOut := none
  former : List (Nat × Nat) := []
  latestMarker : Option Nat := none
  markerDue : Option (Nat × Nat) := none
  markAck : Bytes := []
  ackAgain : Bool := false
  drained : Nat := 0
  drainedAt : Nat := 0
  waiting : List Waiting := []
  gapSince : Nat := 0
  creditNum : Nat := 0
  creditFloor : Nat := 0
  creditGrant : Nat := 0
  advancedAt : Nat := 0
  syncNonce : Key := 0
  syncMsg : Bytes := []
  syncSent : Nat := 0
  syncSends : Nat := 0
  answered : List (Bytes × Bytes) := []
  evicted : Bool := false
  deriving DecidableEq, Repr

/-- A fabric port's registers (R206, R237, R265, R329) and CTRL token bucket (R180). -/
structure Port where
  up : Bool := false
  training : Bool := false
  txStall : Bool := false
  degraded : Bool := false
  txLanes : BitVec 9 := 0
  rxLanes : BitVec 9 := 0
  txSpare : Bool := false
  rxSpare : Bool := false
  landingHigh : Nat := 0
  clearRate : BitVec 8 := 0x10
  clearUsed : Nat := 0
  clearSince : Nat := 0
  txPackets : Nat := 0
  rxPackets : Nat := 0
  tagFails : Nat := 0
  replays : Nat := 0
  malformed : Nat := 0
  noChannel : Nat := 0
  staleEpoch : Nat := 0
  ctrlOver : Nat := 0
  accHigh : Nat := 0
  sumMalformed : Nat := 0
  sumNoContext : Nat := 0
  sumReplay : Nat := 0
  sumNoAcc : Nat := 0
  sumTagFails : Nat := 0
  sumIncomplete : Nat := 0
  sumInner : Nat := 0
  sumTx : Nat := 0
  mergeHigh : Nat := 0
  rxSpoiled : Bool := false
  txSpoiled : Bool := false
  windowDrains : Nat := 0
  markerDrains : Nat := 0
  evictions : Nat := 0
  overflowed : Nat := 0
  mergeTouches : Nat := 0
  noSquare : Nat := 0
  sqReplay : Nat := 0
  noWindow : Nat := 0
  unsolicited : Nat := 0
  mstoreTagFails : Nat := 0
  lineTagFails : Nat := 0
  readTimeouts : Nat := 0
  crossSealed : Nat := 0
  crossPoison : Nat := 0
  crossBudget : Nat := 0
  crossRead : Nat := 0
  crossReadOnly : Nat := 0
  crossAttr : Nat := 0
  markerReleased : List Nat := []
  deriving DecidableEq, Repr

/-! ## Masked sums and squares (chapters 07, 08) -/

inductive SumState where
  | open_ | failed | fallback
  deriving DecidableEq, Repr

/-- An accumulator (R225, R226): the packet, the port it opened on, what arrived, the own term apart from it, the
running tag sums, and the request's next hop. -/
structure Acc where
  pkt : Nat
  port : Nat
  opened : Nat
  target : Nat
  count : Nat := 0
  offset : Nat := 0
  lanes : List Nat := []
  taus : List Nat := []
  tsum : List Nat := []
  own : Option (List Nat × List Nat) := none
  hop : Option (Nat × Nat × Nat) := none
  deriving DecidableEq, Repr

/-- A sum context (R213, R216, R229). -/
structure SumCtx where
  sumId : Nat
  ringId : Nat
  index : Nat
  n : Nat
  st : SumState
  row : Nat
  pkts : Option Nat := none
  reqPkts : Option Nat := none
  sent : List Nat := []
  committed : List Nat := []
  failed : List (Nat × Byte) := []
  accs : List Acc := []
  near : Bool := false
  firstAt : Option Nat := none
  lastAt : Nat := 0
  status : Byte := 0
  deriving DecidableEq, Repr

inductive SqState where
  | free | live | closing | gone
  deriving DecidableEq, Repr

/-- A sender's multicast replay window (R248). -/
structure SqWindow where
  node : Nat
  dom : Bool
  floor : Nat
  seen : List Nat
  deriving DecidableEq, Repr

/-- A square slot (R240, R264). -/
structure Square where
  st : SqState := .free
  id : Nat := 0
  thread : Nat := 0
  index : Nat := 0
  gen : Nat := 0
  key : Key := 0
  keyDom : Bool := false
  other : Option Key := none
  windows : List SqWindow := []
  ctxs : List SumCtx := []
  deriving DecidableEq, Repr

/-- A pending square read of a port (R256), held in the stall buffer while the table is full. -/
structure SqRead where
  port : Nat
  tags : List (BitVec 8 × Nat)
  part : Nat
  square : Nat
  node : Nat
  respPart : Nat
  offset : Nat
  lines : Nat
  since : Nat
  sent : Bool := false
  deriving DecidableEq, Repr

/-- A square response being read from memory (R254): its number, the port its request came on, whether it waits for one of
the port's 256 places, its square's slot and id, how many of its lines memory still owes. -/
structure SqResp where
  id : Nat
  waiting : Bool := false
  port : Nat
  square : Nat
  sqId : Nat
  part : Nat
  requesters : List (Nat × Nat)
  offset : Nat
  lines : Nat
  got : List (Nat × Nat × Line) := []
  region : Nat
  owed : Nat := 0
  status : Byte := 0
  deriving DecidableEq, Repr

/-- Mode of one word of a merge entry (R257). -/
inductive WordMode where
  | none | store | add
  deriving DecidableEq, Repr

/-- A line-merge entry (R257): its words, up to four channel slots, every touch by channel slot and sequence, the words that
ADDs from channels and fallback sums have entered (R231), whether its drain is due and waits for its page (R334). -/
structure MEntry where
  line : Nat
  part : Nat
  region : Nat
  words : List (WordMode × BitVec 32)
  chans : List Nat := []
  touches : List (Nat × Nat) := []
  overflow : Bool := false
  guarded : BitVec 32 := 0
  due : Bool := false
  opened : Nat := 0
  port : Nat := 0
  deriving DecidableEq, Repr

/-- A sum, multicast or square-read request held until a link, an accumulator or a pending-read place frees (R185, R226) with its
square's slot, or, once a gathering node has formed
it, a combined packet held for a link: its node, its partition's number and its bytes. -/
structure Parked where
  port : Nat
  hdr : BitVec 256
  payload : Bytes
  since : Nat
  slot : Option Nat := none
  built : Option (Nat × Nat × Bytes) := none
  deriving DecidableEq, Repr

/-! ## Memory engines (chapters 09, 10, 11) -/

inductive PClass where
  | level1 | leaf | tagLine
  deriving DecidableEq, Repr

/-- A Pantry entry (R279, R308, R514): a line of the stack by number, its contents as verified, granules lost to the code,
dirty, vouched mask, last use. -/
structure PEntry where
  line : Nat
  cls : PClass
  value : Line
  bad : BitVec 4 := 0
  dirty : Bool := false
  vouched : BitVec 16 := 0
  used : Nat := 0
  deriving DecidableEq, Repr

/-- Who asked for a line operation: a network stream (tag, enabled granules), a merge
drain, a square response, a step, a job, a Vault load, or the engine itself. -/
inductive Origin where
  | stream (tag : BitVec 10) (granules : BitVec 4)
  | drain (port : Nat)
  | square (index : Nat)
  | row (thread row : Nat)
  | job (index : Nat)
  | vault
  | engine
  deriving DecidableEq, Repr

/-- What a waiting operation of a memory engine does once the lines it needs are there. Segment runs hold the next segment
of the region and the end; page operations hold their phase; a Pantry way leaves service (R298). -/
inductive MemAct where
  | read (cipher : Bool)
  | write (bytes : Line) (mask : BitVec 128)
  | merge (words : List (WordMode × BitVec 32)) (guarded : BitVec 32)
  | segs (next stop : Nat) (unsealing : Bool)
  | convert (record : Option Bytes)
  | exportPage
  | pageOut (slot version phase : Nat)
  | pageIn (slot : Nat) (record : Bytes) (phase : Nat)
  | wayOut (way : Nat)
  deriving DecidableEq, Repr

/-- A waiting operation (R283): its number, where it comes from, the line it starts at (protected address div 128), the partition
whose access it is, the region, the raw lines read for it and those it awaits (engine and stack line as one number), granules
the code gave up, the lines it locks beside its own (first and count: R287, R288), whether it waits for a Landing slot (R315),
for a Pantry way that others hold (R280), for the Landing slots of its page (R326) or for the host path, and the key epochs of
its region whose budget was spent at admission (R289). -/
structure MemOp where
  id : Nat := 0
  origin : Origin
  act : MemAct
  addr : Nat
  part : Nat
  region : Nat
  got : Tbl Line := []
  bad : List Nat := []
  wants : List Nat := []
  locks : List (Nat × Nat) := []
  waiting : Bool := false
  forRoom : Bool := false
  forPage : Option (Nat × Nat) := none
  parkedOp : Bool := false
  spent : List Nat := []
  deriving DecidableEq, Repr

/-- A slot of an engine's Landing (R314): its segment (protected address div 2048), the partition that holds it, the operations that
use it, whether the segment's hash has been folded (R317). -/
structure SegSlot where
  seg : Nat
  part : Nat
  users : List Nat
  folded : Bool := false
  deriving DecidableEq, Repr

/-- A sealed read that waits for a Landing slot (R315): its operation, segment and partition. -/
structure SlotWait where
  op : Nat
  seg : Nat
  part : Nat
  deriving DecidableEq, Repr

/-- A copy of a level-2 node (or root register) that fails its check (R296): the pinned node or register, or its shadow or duplicate. -/
structure CopyFault where
  level2 : Bool
  index : Nat
  shadow : Bool
  deriving DecidableEq, Repr

/-- What an interval of a Pantry has measured (R281): the misses each class saved (level-1 nodes, leaves, tag lines) and took, writes
that waited for a dirty eviction and leaf read misses. -/
structure PantryStats where
  saved : Nat × Nat × Nat := (0, 0, 0)
  missed : Nat × Nat × Nat := (0, 0, 0)
  writeWaits : Nat := 0
  leafMisses : Nat := 0
  deriving DecidableEq, Repr

/-- A stack read Kerre has issued (R491): its tag and the stack line. -/
structure StackRead where
  tag : BitVec 12
  line : Nat
  deriving DecidableEq, Repr

/-- A memory engine (R274 to R301, R314, R327). Default entry of `l2` and `roots`: the fresh node (R277). The shadow of a level-2 node
in ways 29 to 31 and the duplicate of a root register equal them but where `faults` names one (R279, R296); `spoiled`: the next
access finds its data failing a check inside Kerre (R324). -/
structure Engine where
  treeKey : Key := 0
  roots : Tbl Line := []
  l2 : Tbl Line := []
  pantry : List PEntry := []
  clock : Nat := 0
  reads : List StackRead := []
  readQueue : List Nat := []
  nextTag : BitVec 12 := 0
  ops : List MemOp := []
  slots : List SegSlot := []
  slotWaits : List SlotWait := []
  faults : List CopyFault := []
  spoiled : Bool := false
  stats : PantryStats := {}
  interval : Nat := 0
  landingHigh : Nat := 0
  lanes : BitVec 7 := 0
  sparesLeft : BitVec 3 := 0
  hold : Bool := false
  l1Ways : BitVec 5 := 4
  leafWays : BitVec 5 := 0xD
  tagWays : BitVec 5 := 0xC
  dirtyMax : BitVec 5 := 8
  workingWays : BitVec 6 := 29
  spareWays : BitVec 2 := 0
  hits : Nat := 0
  leafMisses : Nat := 0
  l1Misses : Nat := 0
  writeWaits : Nat := 0
  corrected : Nat := 0
  uncorrectable : Nat := 0
  tagFails : Nat := 0
  nodeFails : Nat := 0
  pagesPoisoned : Nat := 0
  nodesPoisoned : Nat := 0
  reencryptions : Nat := 0
  majorAdvances : Nat := 0
  shadowUses : Nat := 0
  errAddr : BitVec 37 := 0
  errInfo : Word := 0
  segErr : Word := 0
  sealed : Nat := 0
  unsealed : Nat := 0
  sealRefused : Nat := 0
  segFails : Nat := 0
  unsealFails : Nat := 0
  deriving DecidableEq, Repr

inductive RState where
  | free | live | closing
  deriving DecidableEq, Repr

/-- A region slot (R290 to R293, R303, R331 to R340, R401 to R403). Kind: 0 PRIVATE, 1 BASE, 2 BASE_MAP. -/
structure Region where
  st : RState := .free
  kind : BitVec 2 := 0
  thread : Nat := 0
  index : Nat := 0
  gen : Nat := 0
  base : Nat := 0
  log2 : Nat := 0
  dma : BitVec 2 := 0
  dbg : BitVec 2 := 0
  square : Option Nat := none
  keySlot : Nat := 0
  newSlot : Option Nat := none
  loaded : Key := 0
  loadedNew : Key := 0
  epoch : Nat := 0
  writes : Nat := 0
  oldWrites : Nat := 0
  share : BitVec 32 := 0
  exportKey : Option (BitVec 16) := none
  exSlot : Nat := 0
  exLoaded : Key := 0
  exportLocked : Bool := false
  exportedPages : Nat := 0
  importing : Bool := false
  loadLocked : Bool := false
  withheld : Bool := false
  vault : Option (Digest × Nat × Bool) := none
  sweeping : Bool := false
  reap : Bool := false
  deriving DecidableEq, Repr

inductive JKind where
  | rekey | sweep
  deriving DecidableEq, Repr

inductive JState where
  | free | queued | running | ending
  deriving DecidableEq, Repr

/-- An entry of the job table (R356, R357, R481). -/
structure Job where
  st : JState := .free
  kind : JKind := .rekey
  thread : Nat := 0
  row : Nat := 0
  cookie : BitVec 32 := 0
  target : Nat := 0
  urgent : Bool := false
  firmware : Bool := false
  export_ : Bool := false
  exportKey : BitVec 16 := 0
  silent : Bool := false
  stalled : Bool := false
  poisoned : Bool := false
  status : Byte := 0
  boundary : Tbl Nat := []
  passed : Nat := 0
  epochPassed : Nat := 0
  age : Nat := 0
  byAge : Bool := false
  lastReport : Nat := 0
  deriving DecidableEq, Repr

/-- What a host read or write is for (R493). -/
inductive HostUse where
  | attest (thread row : Nat)
  | save (thread row part : Nat) (tag : Bytes)
  | pageOut (thread row : Nat) (slot version : Nat)
  | pageIn (thread row : Nat) (slot : Nat)
  | policy (thread row : Nat)
  | restore (thread row : Nat)
  | exportRecord (job : Nat)
  | importRecord (job engine : Nat)
  | attic
  | image (offset : Nat)
  deriving DecidableEq, Repr

/-- A host read or write (R493): its tag, host address, length, data of a write, whether it has been issued (it waits for
the translations it needs, R348), its interface instance. -/
structure HostReq where
  tag : Nat
  write : Bool
  inst : Nat
  addr : Nat
  length : Nat
  data : Bytes
  issued : Bool
  use : HostUse
  deriving DecidableEq, Repr

/-- The host path (R144, R348, R360). -/
structure HostPath where
  lookup : List Nat := []
  xlat : List Nat := []
  invalidating : List Nat := []
  invals : Nat := 0
  pagesOut : Nat := 0
  pagesIn : Nat := 0
  replays : Nat := 0
  tagFails : Nat := 0
  malformed : Nat := 0
  nextTag : Nat := 0
  reqs : List HostReq := []
  sessions : List Session := []
  streams : Tbl IdeStream := []
  ide : List IdeOp := []
  deriving DecidableEq, Repr

/-- The Threshold window (R356). -/
structure Thresh where
  rate : Word := 0x0000002805000100
  jobSelect : Nat := 0
  jobs : Tbl Job := []
  heldWrites : Nat := 0
  pressure : Nat := 0
  deriving DecidableEq, Repr

/-! ## Partitions (chapter 12) -/

inductive PState where
  | disabled | enabled | bound | frozen | resetting
  deriving DecidableEq, Repr

inductive TdiState where
  | unlocked | locked | run | error
  deriving DecidableEq, Repr

/-- A SYNC_REQ answered for a channel not opened yet (R184, R512): who asked, for which id, with which nonce, and the SYNC_ACK sent. -/
structure SyncAnswer where
  node : Nat
  part : Nat
  id : Nat
  nonce : Bytes
  msg : Bytes
  deriving DecidableEq, Repr

/-- A partition: its state, quotas, mailboxes, its registers, sums, squares, counters, measurements and domain. -/
structure Part where
  st : PState := .disabled
  tdi : TdiState := .unlocked
  toUnlocked : Bool := false
  resetCause : Nat := 0
  resetRecord : Option Nat := none
  saved : Bool := false
  refused : Bool := false
  bindCount : Nat := 0
  restoreCount : Nat := 0
  quotas : Tbl Nat := []
  notice : BitVec 6 := 0
  migrate : Word := 0
  mbx : Tbl Word := []
  seqOut : Nat := 1
  seqIn : Nat := 1
  badPosts : Nat := 0
  fullWrites : Nat := 0
  sumGuard : Nat := 0x40000000
  sumFloor : Nat := 0
  sumClamped : Nat := 0
  sumRange : Nat := 0
  addRange : Bool := false
  sumSelect : BitVec 48 := 0
  multicast : Nat := 0
  sqSelect : Nat := 0
  sqReceived : Nat := 0
  txFloor : Nat := 0
  keptFor : BitVec 64 := 0
  syncAnswers : List SyncAnswer := []
  counts : Tbl Nat := []
  snap : Tbl Nat := []
  snaps : Nat := 0
  snapReset : Bool := false
  snapTime : Nat := 0
  stepReset : Bool := false
  rolled : BitVec 16 := 0
  latched : Option (Nat × Tbl Nat) := none
  measure : Tbl Digest := []
  importPair : Nat := 0
  dom : Domain := {}
  deriving DecidableEq, Repr

/-! ## Vault (chapter 13) -/

inductive VState where
  | closed | opening | open_ | loading | programming | pairing
  deriving DecidableEq, Repr

/-- What a link exchange is for and the next frame it awaits (R395, R396, R406). -/
inductive VAwait where
  | none | ident | proof | manifest | key | pairOk | shard | progOk
  deriving DecidableEq, Repr

/-- One load queued or running (R400). -/
structure VLoad where
  thread : Nat
  row : Nat
  region : Nat
  handle : BitVec 16
  entry : Nat
  cookie : BitVec 32
  replace : Bool
  deriving DecidableEq, Repr

/-- The management command a link exchange serves: none for VOPEN (with the step's row), else code, sequence, session. -/
structure VReq where
  code : Byte := 0
  seq : BitVec 32 := 0
  sess : Option Nat := none
  row : Option (Nat × Nat) := none
  deriving DecidableEq, Repr

/-- A Vault management command that came while an exchange ran (R408): its session, its message, when it came. -/
structure VWait where
  sess : Option Nat
  msg : Bytes
  came : Nat
  deriving DecidableEq, Repr

structure Vault where
  st : VState := .closed
  await : VAwait := .none
  purpose : Nat := 0
  req : VReq := {}
  since : Nat := 0
  sealOpen : Bool := false
  sealEvent : Bool := false
  lifeSpent : Bool := false
  progBusy : Bool := false
  lastError : Byte := 0
  serial : BitVec 64 := 0
  programs : BitVec 32 := 0
  life : BitVec 16 := 0
  pairEpoch : BitVec 16 := 0
  sessions : BitVec 16 := 0
  capacity : BitVec 32 := 0
  manifest : Bytes := []
  manifestId : BitVec 64 := 0
  reportSerial : BitVec 64 := 0
  reportPrograms : BitVec 32 := 0
  reportDigest : Digest := 0
  nK : Key := 0
  nM : Key := 0
  newPair : Key := 0
  contentKey : Key := 0
  seqOut : Nat := 0
  seqIn : Nat := 0
  trailer : Option Key := none
  loads : List VLoad := []
  loadRunning : Bool := false
  shardsWritten : Nat := 0
  shardNext : Nat := 0
  retries : Nat := 0
  shards : Nat := 0
  shardTagFails : Nat := 0
  shardLate : Nat := 0
  progAddr : Word := 0
  progStatus : Byte := 0
  progBytes : Nat := 0
  imageLength : Nat := 0
  waiting : List VWait := []
  deriving DecidableEq, Repr

/-! ## Counters, Attic, interrupts, Cellar, power (chapters 14 to 17) -/

/-- The COUNT window (R425). -/
structure Count where
  global : Tbl Nat := []
  globalSnap : Tbl Nat := []
  partSnap : Tbl Nat := []
  snaps : Nat := 0
  time : Nat := 0
  rolled : BitVec 32 := 0
  deriving DecidableEq, Repr

/-- An Attic record (R417) with the thread and the own sequence it was numbered under (R419). -/
structure ARec where
  bits : BitVec 256 := 0
  thread : Nat := 0
  own : Nat := 0
  numbering : Nat := 0
  g : Nat := 0
  deriving DecidableEq, Repr

/-- The Attic (R417 to R426): ring positions hold the last record written there. -/
structure Attic where
  ring : Tbl ARec := []
  head : Nat := 0
  queue : List ARec := []
  ctrl : BitVec 3 := 1
  cursor : Nat := 0
  latch : Tbl (BitVec 256) := []
  dropped : Nat := 0
  skipped : Nat := 0
  base : Word := 0
  size : Nat := 0
  blocks : Nat := 0
  nextBlock : Nat := 0
  mask : BitVec 7 := 0x5F
  deriving DecidableEq, Repr

/-- The interrupt controller (R439): pending bits and when each was set, assertions on their way to a pending bit (source
to house time + 1), masks, latches and levels, what each target serves (source + 1) and the reference edge + 1 at which
its end of interrupt is sampled, storm counts of the 1 ms interval, when a level went active (+ 1). -/
structure Intc where
  pend : BitVec 256 := 0
  pendAt : Tbl Nat := []
  asserted : Tbl Nat := []
  mask : BitVec 256 := BitVec.allOnes 256
  raw : BitVec 256 := 0
  guardFlag : BitVec 256 := 0
  target : Tbl (BitVec 8) := []
  tgtCtrl : Tbl (BitVec 8) := []
  serving : Tbl Nat := []
  freeing : Tbl Nat := []
  stuckTime : Nat := 0x3E8
  stormTrips : Nat := 0
  stuckTrips : Nat := 0
  eoiMismatch : Nat := 0
  lockedWrites : Nat := 0
  stormLimit : Tbl Nat := []
  edges : Tbl Nat := []
  interval : Nat := 0
  activeSince : Tbl Nat := []
  deriving DecidableEq, Repr

/-- The Cellar (R460 to R468). -/
structure Cellar where
  log : Tbl (BitVec 512) := []
  head : Nat := 0
  escTimes : List Nat := []
  boarded : Bool := false
  dumpValid : Bool := false
  dumpCause : Byte := 0
  dumpIsland : Byte := 0
  dumpMissed : Nat := 0
  dumpTime : Nat := 0
  dump : Option (Nat × Nat) := none
  checks : Nat := 0
  checkTimes : Tbl (List Nat) := []
  deriving DecidableEq, Repr

inductive PowerState where
  | off | on | turningOff | turningOn
  deriving DecidableEq, Repr

/-- One power domain (R472, R475, R476, R485): its operating point and floor, measurements in a row that allow a lower point, the
point it asked voltage for, what it measured last, the seed and the steps of its clock's walk and where it stands. -/
structure PDomain where
  st : PowerState := .on
  point : BitVec 2 := 0
  floor : BitVec 2 := 3
  lows : Nat := 0
  aim : Option (BitVec 2) := none
  occupancy : Nat := 0
  queueMax : Nat := 0
  seed : Nat := 0
  walk : Nat := 0
  offset : Nat := 200
  deriving DecidableEq, Repr

/-- Power, clocks and budget registers of SIDE (R484). -/
structure Power where
  domains : Tbl PDomain := []
  req : BitVec 28 := BitVec.allOnes 28
  refused : BitVec 28 := 0
  late : Nat := 0
  ideLate : Nat := 0
  spread : Bool := true
  word : Option (BitVec 32) := none
  budget : BitVec 32 := 0
  epochs : Nat := 0
  tokens : Nat := 0
  unlimited : Bool := false
  missed : Nat := 0
  spent : Nat := 0
  cost : Word := 0x00000028012C0258
  urgentFloor : Nat := 0x40
  ageLimit : Nat := 0x186A0
  linkState : Tbl Word := []
  sharedLost : Tbl Nat := []
  deriving DecidableEq, Repr

/-- Where a boot or a block warm reset stands (R451, R501): no handling, waiting for boot items, past the 25 ms stage. -/
inductive BootPhase where
  | none | cold | warm | warmDone
  deriving DecidableEq, Repr

/-- Reset control (R38, R466, R503); `staged` once the boot stage has ended while the DRBG's start-up test still runs (R80). -/
structure Reset where
  status : BitVec 4 := 0
  phase : BootPhase := .none
  patchTaken : Option Bytes := none
  cls : BitVec 2 := 0
  cause : Byte := 0
  lastCls : BitVec 2 := 0
  lastCause : Byte := 0
  warmResets : Nat := 0
  entry : Nat := 0
  trigger : Option Nat := none
  request : Option (BitVec 2) := none
  frozen : Bool := false
  staged : Bool := false
  boardedEnd : Bool := false
  deriving DecidableEq, Repr

/-- The Hall registers that no other structure holds (R37, R208, R263, R302, R385, R466). -/
structure Hall where
  faultCount : Nat := 0
  faultAddr : BitVec 26 := 0
  faultInfo : Word := 0
  chTimeout : Nat := 0x3E8
  chSelect : Nat := 0
  evicted : Nat := 0
  steerSelect : Nat := 0
  steer : Tbl (BitVec 32) := []
  mergeWindow : Nat := 0x7D0
  mergeCredit : Nat := 0x1000
  sqFloor : Nat := 0
  sqSelect : Nat := 0
  regionSelect : Nat := 0
  partSelect : Nat := 0
  heartbeat : Nat := 0x64
  deadline : Tbl Nat := []
  node : BitVec 14 := 0
  nodeValid : Bool := false
  mbxSelect : Nat := 0
  mbxBad : Nat := 0
  mbxFull : Nat := 0
  deriving DecidableEq, Repr

/-! ## Outputs -/

/-- What crosses the boundary outwards (R486), in the order it leaves. -/
inductive Out where
  | regRead (value : Word) (error : Bool)
  | regWrite (error : Bool)
  | packet (port : Nat) (bytes : Bytes)
  | response (port : Nat) (tag : BitVec 8) (status : Byte)
  | delivery (port : Nat) (tag : BitVec 8) (status : Byte) (lines : List (Nat × Line))
  | memory (engine : Nat) (tag : BitVec 10) (status : Byte) (line : Line)
  | stackRead (engine : Nat) (tag : BitVec 12) (line : Nat)
  | stackWrite (engine : Nat) (line : Nat) (value : Line) (check : BitVec 128)
  | host (kind : Byte) (inst : Nat) (tag : Nat) (addr : Nat) (bytes : Bytes)
  | management (sess : Option Nat) (msg : Bytes)
  | spdm (at_ : SpdmPort) (sess : Option Nat) (code : Byte) (body : Bytes)
  | secured (at_ : SpdmPort) (record : Bytes)
  | tdisp (part : Nat) (code : Byte) (ok : Bool) (body : Bytes)
  | ideKm (code : Byte) (ok : Bool) (body : Bytes)
  | ideKey (op : IdeOp)
  | vault (frame : Bytes)
  | irq (target : Nat) (source : Nat) (on : Bool)
  | resetRequest (cls : BitVec 2)
  | power (domain : Nat) (on : Bool)
  | voltage (domain : Nat) (point : BitVec 2)
  | blow (word bit : Nat)
  | linkRecord (value : Word)
  | bootRequest
  deriving DecidableEq, Repr

/-! ## The block -/

/-- The block without the queue of commands. -/
structure Dev where
  kind : Kind := .k32
  time : Nat := 0
  reset : Reset := {}
  fuses : Fuses := {}
  hall : Hall := {}
  threads : Tbl Thread := []
  lastPicked : Nat := 0
  larder : Larder := {}
  mgmt : Mgmt := {}
  host : HostPath := {}
  parts : Tbl Part := []
  regionPool : Pool := {}
  chanPool : Pool := {}
  squarePool : Pool := {}
  chans : Tbl Chan := []
  ports : Tbl Port := []
  squares : Tbl Square := []
  sqReads : List SqRead := []
  sqResps : List SqResp := []
  merge : List MEntry := []
  parked : List Parked := []
  assembling : List Reassembly := []
  inbox : List (Nat × Bytes) := []
  engines : Tbl Engine := []
  regions : Tbl Region := []
  thresh : Thresh := {}
  vault : Vault := {}
  count : Count := {}
  attic : Attic := {}
  intc : Intc := {}
  cellar : Cellar := {}
  power : Power := {}
  drawWait : List DrawReq := []
  opSeq : Nat := 1
  free : Nat := 0
  out : List Out := []
  deriving DecidableEq, Repr

/-- The machine: the commands that wait, first in first out, and the block. -/
structure State where
  pending : List Instr := []
  dev : Dev := {}
  deriving DecidableEq, Repr

/-- Why a step stops the machine: no command does (a command that names a unit the configuration does not have finds no wire and changes
nothing, notes/assumptions/5.md). -/
inductive Fault where
  deriving DecidableEq, Repr

/-- Why a command has no meaning. -/
inductive Refusal where
  /-- Raised by an arm of exec whose command has no meaning yet. Safe. -/
  | notModelled (mnemonic : String)
  deriving DecidableEq, Repr

/-- The machine right after reset: COLD_RST_N low, every register at its reset value, every SRAM zero, no fuse blown
(notes/assumptions/1.md), nothing waiting. The first command that does anything is COLD_BOOT (R501). -/
def State.reset : State := {}

end Sys2Proof.Machine
end

