-- ==== Sys2Proof/Machine/Ops.lean ====
section
/-! DEFINITION. The named operations every meaning is built from: sparse tables, bit fields and byte strings, the counts
of the configuration, access to one unit of the block, house time, counters, interrupt assertion, Attic and Cellar
records, and the frame in which a command's effect runs. -/

namespace Sys2Proof.Machine

/-! ## Sparse tables -/

/-- The entry at index k, the default d where none is listed. -/
def tget {α : Type} (t : Tbl α) (d : α) (k : Nat) : α :=
  match t with
  | [] => d
  | (i, v) :: r => if i = k then v else tget r d k

/-- List v at index k, indices kept rising. -/
def tput {α : Type} (t : Tbl α) (k : Nat) (v : α) : Tbl α :=
  match t with
  | [] => [(k, v)]
  | (i, w) :: r => if i < k then (i, w) :: tput r k v else if i = k then (k, v) :: r else (k, v) :: (i, w) :: r

/-- List nothing at index k. -/
def tdel {α : Type} (t : Tbl α) (k : Nat) : Tbl α :=
  match t with
  | [] => []
  | (i, w) :: r => if i = k then tdel r k else (i, w) :: tdel r k

/-- Set the entry at index k to v; an entry equal to the default is not listed. -/
def tset {α : Type} [DecidableEq α] (t : Tbl α) (d : α) (k : Nat) (v : α) : Tbl α :=
  if v = d then tdel t k else tput t k v

/-- Change the entry at index k by f. -/
def tmod {α : Type} [DecidableEq α] (t : Tbl α) (d : α) (k : Nat) (f : α → α) : Tbl α :=
  tset t d k (f (tget t d k))

/-- The canonical form: indices strictly rising from `lo` on, no entry equal to the default. -/
def Tbl.wfFrom {α : Type} [DecidableEq α] (d : α) (lo : Nat) : Tbl α → Bool
  | [] => true
  | (i, v) :: r => decide (lo ≤ i) && decide (v ≠ d) && Tbl.wfFrom d (i + 1) r

def Tbl.wf {α : Type} [DecidableEq α] (d : α) (t : Tbl α) : Bool := Tbl.wfFrom d 0 t

/-- The first index below n where p holds. -/
def findBelow (n : Nat) (p : Nat → Bool) : Option Nat := (List.range n).find? p

/-! ## Bit fields and byte strings (R10: little-endian, bit 0 least significant) -/

/-- The w bits of n from bit lo up. -/
def fld (n lo w : Nat) : Nat := (n >>> lo) % 2 ^ w

/-- Bit i of n. -/
def bitOf (n i : Nat) : Bool := fld n i 1 = 1

/-- n with the w bits from lo up replaced by v. -/
def setFld (n lo w v : Nat) : Nat := n - fld n lo w * 2 ^ lo + (v % 2 ^ w) * 2 ^ lo

/-- The word of w bits in which bit n alone is set. -/
def oneBit (w n : Nat) : BitVec w := (1 : BitVec w) <<< n

/-- One bit as a number. -/
def b2n (b : Bool) : Nat := if b then 1 else 0

/-- Saturating at 2^w - 1. -/
def sat (w n : Nat) : Nat := min n (2 ^ w - 1)

/-- The number a byte string spells, byte 0 least significant. -/
def leNat : Bytes → Nat
  | [] => 0
  | b :: r => b.toNat + 256 * leNat r

/-- The n low bytes of a number, least significant first. -/
def natLe (n v : Nat) : Bytes :=
  match n with
  | 0 => []
  | k + 1 => BitVec.ofNat 8 v :: natLe k (v / 256)

/-- The n low bytes of a number, most significant first. -/
def natBe (n v : Nat) : Bytes := (natLe n v).reverse

/-- The number a byte string spells, byte 0 most significant. -/
def beNat (b : Bytes) : Nat := leNat b.reverse

/-- Bytes [at, at + n) of a string, zero past its end. -/
def slice (b : Bytes) (at_ n : Nat) : Bytes :=
  let r := (b.drop at_).take n
  r ++ List.replicate (n - r.length) 0

/-- Little-endian number of n bytes at an offset. -/
def leAt (b : Bytes) (at_ n : Nat) : Nat := leNat (slice b at_ n)

/-- A string of exactly n bytes: cut, or filled with zeros. -/
def padTo (n : Nat) (b : Bytes) : Bytes := slice b 0 n

/-- Every byte of [at, at + n) is zero. -/
def zeroAt (b : Bytes) (at_ n : Nat) : Bool := (slice b at_ n).all (· = 0)

def keyBytes (k : Key) : Bytes := natLe 32 k.toNat
def bytesKey (b : Bytes) : Key := BitVec.ofNat 256 (leAt b 0 32)
def digestBytes (h : Digest) : Bytes := natLe 48 h.toNat
def bytesDigest (b : Bytes) : Digest := BitVec.ofNat 384 (leAt b 0 48)
def lineBytes (l : Line) : Bytes := natLe 128 l.toNat
def bytesLine (b : Bytes) : Line := BitVec.ofNat 1024 (leAt b 0 128)

/-! ## Counts of the configuration (R4, R469) -/

/-- Kerre 8, 16 or 32 as a number. -/
def Kind.num : Kind → Nat
  | .k8 => 8
  | .k16 => 16
  | .k32 => 32

/-- Partitions. -/
def Kind.parts (k : Kind) : Nat := Kind.num k

/-- Fabric ports. -/
def Kind.ports (k : Kind) : Nat := Kind.num k

/-- Memory engines. -/
def Kind.engines : Kind → Nat
  | .k8 => 4
  | .k16 => 8
  | .k32 => 12

def Kind.keySlots (k : Kind) : Nat := 256 * Kind.num k
def Kind.chanSlots (k : Kind) : Nat := 2048 * Kind.num k
def Kind.squareSlots (k : Kind) : Nat := 32 * Kind.num k
def Kind.regionSlots (k : Kind) : Nat := 128 * Kind.num k

/-- Kerre 32 has invoker attributes and Larder shadows. -/
def Kind.invoker (k : Kind) : Bool := k = .k32

def Kind.portSpares : Kind → Nat
  | .k8 => 0
  | .k16 => 1
  | .k32 => 1

def Kind.memSpares : Kind → Nat
  | .k8 => 2
  | .k16 => 3
  | .k32 => 6

/-- AES-256 lanes in total. -/
def Kind.lanes : Kind → Nat
  | .k8 => 380
  | .k16 => 812
  | .k32 => 1388

/-- Power domains: eight fixed ones, one per engine, one per group of four ports (R469). -/
def Kind.domains (k : Kind) : Nat := 8 + Kind.engines k + Kind.ports k / 4

/-- Switchable domains: trace, Vault, engines and port groups (R469). -/
def Kind.switchable (k : Kind) (d : Nat) : Bool := d = 3 || d = 4 || (decide (8 ≤ d) && decide (d < Kind.domains k))

/-- Protected capacity in GiB (R4). -/
def Kind.capacity (k : Kind) : Nat := 89 * Kind.engines k

/-! ## One unit of the block -/

def Dev.nparts (d : Dev) : Nat := Kind.parts d.kind
/-- The manager thread's number (R41). -/
def Dev.mgr (d : Dev) : Nat := Kind.parts d.kind

def Dev.th (d : Dev) (n : Nat) : Thread := tget d.threads {} n
def Dev.setTh (d : Dev) (n : Nat) (t : Thread) : Dev := { d with threads := tset d.threads {} n t }
def Dev.onTh (d : Dev) (n : Nat) (f : Thread → Thread) : Dev := d.setTh n (f (d.th n))
def Dev.part (d : Dev) (n : Nat) : Part := tget d.parts {} n
def Dev.setPart (d : Dev) (n : Nat) (t : Part) : Dev := { d with parts := tset d.parts {} n t }
def Dev.onPart (d : Dev) (n : Nat) (f : Part → Part) : Dev := d.setPart n (f (d.part n))
def Dev.dom (d : Dev) (n : Nat) : Domain := (d.part n).dom
def Dev.onDom (d : Dev) (n : Nat) (f : Domain → Domain) : Dev := d.onPart n fun p => { p with dom := f p.dom }
def Dev.port (d : Dev) (n : Nat) : Port := tget d.ports {} n
def Dev.onPort (d : Dev) (n : Nat) (f : Port → Port) : Dev := { d with ports := tmod d.ports {} n f }
def Dev.eng (d : Dev) (n : Nat) : Engine := tget d.engines {} n
def Dev.setEng (d : Dev) (n : Nat) (e : Engine) : Dev := { d with engines := tset d.engines {} n e }
def Dev.onEng (d : Dev) (n : Nat) (f : Engine → Engine) : Dev := d.setEng n (f (d.eng n))
def Dev.reg (d : Dev) (n : Nat) : Region := tget d.regions {} n
def Dev.setReg (d : Dev) (n : Nat) (r : Region) : Dev := { d with regions := tset d.regions {} n r }
def Dev.onReg (d : Dev) (n : Nat) (f : Region → Region) : Dev := d.setReg n (f (d.reg n))
def Dev.ch (d : Dev) (n : Nat) : Chan := tget d.chans {} n
def Dev.setCh (d : Dev) (n : Nat) (c : Chan) : Dev := { d with chans := tset d.chans {} n c }
def Dev.onCh (d : Dev) (n : Nat) (f : Chan → Chan) : Dev := d.setCh n (f (d.ch n))
def Dev.sq (d : Dev) (n : Nat) : Square := tget d.squares {} n
def Dev.setSq (d : Dev) (n : Nat) (c : Square) : Dev := { d with squares := tset d.squares {} n c }
def Dev.onSq (d : Dev) (n : Nat) (f : Square → Square) : Dev := d.setSq n (f (d.sq n))
def Dev.slot (d : Dev) (n : Nat) : LSlot := tget d.larder.slots {} n
def Dev.setSlot (d : Dev) (n : Nat) (s : LSlot) : Dev :=
  { d with larder := { d.larder with slots := tset d.larder.slots {} n s } }
def Dev.onSlot (d : Dev) (n : Nat) (f : LSlot → LSlot) : Dev := d.setSlot n (f (d.slot n))
def Dev.job (d : Dev) (n : Nat) : Job := tget d.thresh.jobs {} n
def Dev.setJob (d : Dev) (n : Nat) (j : Job) : Dev := { d with thresh := { d.thresh with jobs := tset d.thresh.jobs {} n j } }
def Dev.onJob (d : Dev) (n : Nat) (f : Job → Job) : Dev := d.setJob n (f (d.job n))
def Dev.pdom (d : Dev) (n : Nat) : PDomain := tget d.power.domains {} n
def Dev.onPdom (d : Dev) (n : Nat) (f : PDomain → PDomain) : Dev :=
  { d with power := { d.power with domains := tmod d.power.domains {} n f } }
def Dev.onHall (d : Dev) (f : Hall → Hall) : Dev := { d with hall := f d.hall }
def Dev.onLarder (d : Dev) (f : Larder → Larder) : Dev := { d with larder := f d.larder }
def Dev.onMgmt (d : Dev) (f : Mgmt → Mgmt) : Dev := { d with mgmt := f d.mgmt }
def Dev.onHost (d : Dev) (f : HostPath → HostPath) : Dev := { d with host := f d.host }
def Dev.onVault (d : Dev) (f : Vault → Vault) : Dev := { d with vault := f d.vault }
def Dev.onIntc (d : Dev) (f : Intc → Intc) : Dev := { d with intc := f d.intc }
def Dev.onCellar (d : Dev) (f : Cellar → Cellar) : Dev := { d with cellar := f d.cellar }
def Dev.onAttic (d : Dev) (f : Attic → Attic) : Dev := { d with attic := f d.attic }
def Dev.onCount (d : Dev) (f : Count → Count) : Dev := { d with count := f d.count }
def Dev.onPower (d : Dev) (f : Power → Power) : Dev := { d with power := f d.power }
def Dev.onReset (d : Dev) (f : Reset → Reset) : Dev := { d with reset := f d.reset }
def Dev.onThresh (d : Dev) (f : Thresh → Thresh) : Dev := { d with thresh := f d.thresh }

/-- Send something across the boundary. -/
def Dev.emit (d : Dev) (o : Out) : Dev := { d with out := d.out ++ [o] }

/-- Do f for every number below n, in rising order. -/
def forBelow (n : Nat) (f : Nat → Dev → Dev) (d : Dev) : Dev := (List.range n).foldl (fun d i => f i d) d

/-- Do f for every element of a list, in order. -/
def forEach {α : Type} (l : List α) (f : α → Dev → Dev) (d : Dev) : Dev := l.foldl (fun d x => f x d) d

/-! ## State of the block -/

/-- HALL.STATUS.state reads READY and no block-critical error has frozen the block (R38, R444). -/
def Dev.ready (d : Dev) : Bool := d.reset.status = 1 && !d.reset.frozen

/-- The responders of the management port and SPDM serve: READY or BOARDED (R455). -/
def Dev.serving (d : Dev) : Bool := (d.reset.status = 1 || d.reset.status = 3) && !d.reset.frozen

/-- A power domain is on (R472). -/
def Dev.powered (d : Dev) (dom : Nat) : Bool := (d.pdom dom).st = .on

/-- The domain of memory engine m and of the group of port p (R469). -/
def Dev.engDomain (_d : Dev) (m : Nat) : Nat := 8 + m
def Dev.portDomain (d : Dev) (p : Nat) : Nat := 8 + Kind.engines d.kind + p / 4

/-- Handlings in progress, saturating at 3 (R457). -/
def Dev.depth (d : Dev) : Nat :=
  min 3 ((d.parts.filter fun p => p.2.st = .resetting).length + b2n (decide (d.reset.status = 2)))

/-! ## Interrupts (R427, R429, R434) -/

/-- A source whose partition, engine or port exists (R427). -/
def srcPresent (k : Kind) (s : Nat) : Bool :=
  if s < 10 then true else if s < 16 then false
  else if s < 48 then decide (s - 16 < Kind.parts k) else if s < 80 then decide (s - 48 < Kind.parts k)
  else if s < 84 then true else if s < 96 then decide (s - 84 < Kind.engines k)
  else if s < 128 then decide (s - 96 < Kind.ports k) else decide (s < 256)

/-- Assert an internal source: its pending bit sets at the second reference edge from now (R434). An assertion of a
source already on its way merges with it (R429). -/
def Dev.raise (d : Dev) (s : Nat) : Dev :=
  if srcPresent d.kind s && tget d.intc.asserted 0 s = 0 then
    d.onIntc fun c => { c with asserted := tset c.asserted 0 s (d.time + 1) }
  else d

/-- The reference edge two edges after house time t (R434). -/
def secondEdge (t : Nat) : Nat := (t / 10 + 2) * 10

/-- Pend source s, the bit set at house time t; a bit already set keeps its time (R429). -/
def Intc.pendAtTime (c : Intc) (s t : Nat) : Intc :=
  if c.pend.getLsbD s then c
  else { c with pend := c.pend ||| oneBit 256 s, pendAt := tset c.pendAt 0 s t }

/-- A level source (R427, R440): 129 and 131, and an integrator input set so. -/
def Intc.isLevel (c : Intc) (s : Nat) : Bool := s = 129 || s = 131 || (decide (132 ≤ s) && (tget c.target 0 s).getLsbD 4)

/-- An external input's filtered level changes: a level source pends while it is active (R429, R436). -/
def Dev.level (d : Dev) (s : Nat) (active : Bool) : Dev :=
  d.onIntc fun c =>
    let bit := oneBit 256 s
    let since := if active then (if tget c.activeSince 0 s = 0 then d.time + 1 else tget c.activeSince 0 s) else 0
    let c := { c with raw := if active then c.raw ||| bit else c.raw &&& ~~~bit, activeSince := tset c.activeSince 0 s since }
    if !c.isLevel s then c
    else if active then c.pendAtTime s d.time
    else { c with pend := c.pend &&& ~~~bit }

/-- A guard masks a source and sets its flag; source 9 is raised (R436). -/
def Dev.guardTrips (d : Dev) (s : Nat) : Dev :=
  (d.onIntc fun c => { c with mask := c.mask ||| oneBit 256 s, guardFlag := c.guardFlag ||| oneBit 256 s }).raise 9

/-- A filtered active edge of an external edge source is latched: it pends at once and counts for the storm guard of its 1 ms
interval (R434 to R436). -/
def Dev.edge (d : Dev) (s : Nat) : Dev :=
  let c := d.intc
  let now := d.time / 1000000
  let edges := if c.interval = now then c.edges else []
  let n := tget edges 0 s + 1
  let d := d.onIntc fun c => { c.pendAtTime s d.time with edges := tset edges 0 s n, interval := now }
  if n = tget c.stormLimit 0x3E8 s + 1 then (d.guardTrips s).onIntc fun c => { c with stormTrips := sat 16 (c.stormTrips + 1) }
  else d

/-- Bring the controller to house time t: assertions whose second edge has come pend, and targets whose end of interrupt
has been sampled are free (R433, R434). -/
def Intc.settle (c : Intc) (t : Nat) : Intc :=
  let c := c.asserted.foldl (fun c e =>
    if secondEdge (e.2 - 1) ≤ t then
      { c.pendAtTime e.1 (secondEdge (e.2 - 1)) with asserted := tset c.asserted 0 e.1 0 }
    else c) c
  c.freeing.foldl (fun c e =>
    if e.2 ≤ t + 1 then { c with serving := tset c.serving 0 e.1 0 } else c) c

/-! ## House time and the frame of a command (R8) -/

/-- House time runs on to `now`, never back. -/
def Dev.advance (d : Dev) (now : Nat) : Dev :=
  let t := max d.time now
  { d with time := t, intc := d.intc.settle t }

/-- House time, the configuration and the fuses as they were: no effect but the boot and the fuse port touches them. -/
def Dev.keep (d d0 : Dev) : Dev := { d with kind := d0.kind, time := d0.time, fuses := d0.fuses }

/-- Run an effect at house time `now`. -/
def State.run (s : State) (now : Nat) (f : Dev → Dev) : Host.Outcome State Fault Refusal :=
  .next { s with dev := (f (s.dev.advance now)).keep (s.dev.advance now) }

/-- Run an effect that blows fuses at house time `now`. -/
def State.runFuse (s : State) (now : Nat) (f : Dev → Dev) : Host.Outcome State Fault Refusal :=
  .next { s with dev :=
    { f (s.dev.advance now) with kind := s.dev.kind, time := (s.dev.advance now).time } }

/-- Run an effect on a unit that exists; a unit that does not exist has no wire, and nothing changes (R4;
notes/assumptions/5.md). -/
def State.runUnit (s : State) (now : Nat) (present : Bool) (f : Dev → Dev) : Host.Outcome State Fault Refusal :=
  s.run now fun d => if present then f d else d

/-! ## Counters (R411, R415) -/

/-- Add v to counter k of partition n, modulo 2^64. -/
def Dev.addCount (d : Dev) (n k v : Nat) : Dev :=
  if n < d.nparts then
    d.onPart n fun p => { p with counts := tset p.counts 0 k ((tget p.counts 0 k + v) % 2 ^ 64) }
  else d

/-- Add v to global counter k, modulo 2^64. -/
def Dev.addGlobal (d : Dev) (k v : Nat) : Dev :=
  d.onCount fun c => { c with global := tset c.global 0 k ((tget c.global 0 k + v) % 2 ^ 64) }

/-! ## Attic records (R417 to R419) -/

/-- The kinds a thread's mask enables; TRACE is always made (R418). -/
def Dev.atticOn (d : Dev) (thread kind : Nat) : Bool :=
  kind = 8 || (if thread < d.nparts then (d.th thread).atticMask else d.attic.mask).getLsbD (kind - 1)

/-- The 32 bytes of a record (R417). -/
def atticBits (time kind thread row status key wait who detail : Nat) : BitVec 256 :=
  BitVec.ofNat 256 (time % 2 ^ 64 + kind % 256 * 2 ^ 64 + thread % 256 * 2 ^ 72 + row % 256 * 2 ^ 80 + status % 256 * 2 ^ 88
    + key % 2 ^ 32 * 2 ^ 96 + sat 32 wait * 2 ^ 128 + who % 2 ^ 32 * 2 ^ 160 + detail % 2 ^ 64 * 2 ^ 192)

/-- `who` of a peer (R417). -/
def whoPeer (node part : Nat) : Nat := node % 2 ^ 14 + part % 32 * 2 ^ 14

/-- Offer a record to the Attic: into its queue of 64, or dropped and counted for its thread and in global counter 331
while the Attic is held, its island is off, or the queue is full. A record takes its thread's next own number when it is
offered, a dropped one too (R418, R421, R473; notes/assumptions/24.md). -/
def Dev.atticPut (d : Dev) (kind thread row : Nat) (status : Byte) (key wait who detail : Nat) : Dev :=
  if !(d.attic.ctrl.getLsbD 0) || !(decide (thread ≤ d.mgr)) || !d.atticOn thread kind then d else
  let t := d.th thread
  let own := t.atticNext
  if d.attic.ctrl.getLsbD 1 || !d.powered 3 || decide (64 ≤ d.attic.queue.length) then
    let d := d.onTh thread fun t => { t with atticNext := (own + 1) % 2 ^ 32, atticLost := sat 32 (t.atticLost + 1) }
    (d.onAttic fun a => { a with dropped := sat 32 (a.dropped + 1) }).addGlobal 331 1
  else
    let d := d.onTh thread fun t => { t with atticNext := (own + 1) % 2 ^ 32 }
    d.onAttic fun a => { a with queue := a.queue ++
      [{ bits := atticBits d.time kind thread row status.toNat key wait who detail, thread := thread, own := own,
         numbering := t.atticFirst, g := 0 }] }

/-! ## Cellar records (R460) -/

/-- part_a form of a partition, 0x80 for none (R76). -/
def partForm (p : Option Nat) : Nat := match p with
  | some n => n % 32
  | none => 0x80

/-- Write a Cellar record; each pends source 8 and advances global counter 332. `detail` is bytes 32 to 63. -/
def Dev.record (d : Dev) (cause action status : Nat) (thread : Option Nat) (part : Option Nat) (island object detail : Nat) :
    Dev :=
  let g := d.cellar.head
  let v := d.time % 2 ^ 64 + g % 2 ^ 32 * 2 ^ 64 + cause % 256 * 2 ^ 96 + action % 256 * 2 ^ 104 + d.depth * 2 ^ 112
    + status % 256 * 2 ^ 120 + (thread.getD 0xFF) % 256 * 2 ^ 128 + partForm part * 2 ^ 136 + island % 256 * 2 ^ 144
    + d.reset.warmResets % 2 ^ 32 * 2 ^ 160 + object % 2 ^ 64 * 2 ^ 192 + detail % 2 ^ 256 * 2 ^ 256
  let d := d.onCellar fun c => { c with log := tset c.log 0 (g % 256) (BitVec.ofNat 512 v), head := (g + 1) % 2 ^ 32 }
  (d.raise 8).addGlobal 332 1

/-- Island codes of a record (R460). -/
def islandEng (m : Nat) : Nat := 0x10 + m
def islandPort (p : Nat) : Nat := 0x40 + p / 4

/-! ## Block-critical errors (R444, R457, R463) -/

/-- Ask the host chip for a RECOVERY reset (R444, R503). -/
def Dev.requestReset (d : Dev) (cls : BitVec 2) : Dev :=
  (d.onReset fun r => { r with request := some cls }).emit (.resetRequest cls)

/-- Raise a block-critical error: source 0, a Cellar record, the state frozen for the dump (R463: the first failure's, counted
in `missed` while a dump is held), a RECOVERY reset requested unless Kerre restarts a reset by itself. -/
def Dev.criticalRec (d : Dev) (code island object detail : Nat) : Dev :=
  let g := d.cellar.head
  let d := (d.raise 0).record code 4 0 none none island object detail
  let d := d.onReset fun r => { r with frozen := true, trigger := some g, cause := BitVec.ofNat 8 code }
  let d := d.onCellar fun c =>
    if c.dumpValid then { c with dumpMissed := sat 16 (c.dumpMissed + 1) }
    else match c.dump with
      | some _ => c
      | none => { c with dump := some (d.time, code * 256 + island) }
  if d.reset.status = 2 || d.reset.request = some 3 then d else d.requestReset 3

/-- A block-critical error of a code in an island. One that arises during a block warm reset is cause 0x14 with the record of the
handling in progress in its detail (R457, R461). -/
def Dev.critical (d : Dev) (code island object : Nat) : Dev :=
  if d.reset.status = 2 then d.criticalRec 0x14 island 0 (d.reset.trigger.getD 0xFFFFFFFF)
  else d.criticalRec code island object 0

end Sys2Proof.Machine
end

