-- ==== Sys2Proof/Machine/Flags.lean ====
section
/-! DEFINITION. Status codes (R52), what counts as an error of a step (R62), and the status words that registers compute
from the state (R38, R45, R116, R140). -/

namespace Sys2Proof.Machine

namespace Status
abbrev done : Byte := 0x00
abbrev badOpcode : Byte := 0x10
abbrev badField : Byte := 0x11
abbrev length : Byte := 0x12
abbrev align : Byte := 0x13
abbrev staleHandle : Byte := 0x15
abbrev noSlot : Byte := 0x16
abbrev cookieRange : Byte := 0x17
abbrev keyAttr : Byte := 0x20
abbrev keySlotBad : Byte := 0x21
abbrev keyEpoch : Byte := 0x22
abbrev unwrapFail : Byte := 0x23
abbrev tagFail : Byte := 0x30
abbrev memTagFail : Byte := 0x31
abbrev sumIncomplete : Byte := 0x32
abbrev treePoison : Byte := 0x33
abbrev replay : Byte := 0x34
abbrev rangeNear : Byte := 0x35
abbrev segTagFail : Byte := 0x36
abbrev peerTimeout : Byte := 0x40
abbrev channelDown : Byte := 0x41
abbrev squareGone : Byte := 0x42
abbrev regionFault : Byte := 0x50
abbrev budgetExhausted : Byte := 0x51
abbrev pagedOut : Byte := 0x52
abbrev denied : Byte := 0x60
abbrev presenceRequired : Byte := 0x61
abbrev frozen : Byte := 0x62
abbrev quota : Byte := 0x70
abbrev hang : Byte := 0x71
abbrev vaultAuth : Byte := 0x80
abbrev vaultShard : Byte := 0x81
abbrev vaultLife : Byte := 0x82
abbrev vaultSeal : Byte := 0x83
end Status

/-- A status that does not halt a thread (R62). -/
def statusOk (st : Byte) : Bool := st = Status.done || st = Status.rangeNear

/-- Kinds of port fault (R39). -/
inductive PortFault where
  | denied | unmapped | size | align | rowHalf | notReady
  deriving DecidableEq, Repr

/-- The kind as HALL.PORT_FAULT_INFO holds it (R39). -/
def PortFault.code : PortFault → Nat
  | .denied => 1
  | .unmapped => 2
  | .size => 3
  | .align => 4
  | .rowHalf => 5
  | .notReady => 6

/-- The thread's state as THREAD_STATUS shows it (R45): IDLE 0, RUNNING 1, BLOCKED 2, HALTED 3, STOPPED 4. -/
inductive ThreadState where
  | idle | running | blocked | halted | stopped
  deriving DecidableEq, Repr

def ThreadState.code : ThreadState → Nat
  | .idle => 0
  | .running => 1
  | .blocked => 2
  | .halted => 3
  | .stopped => 4

/-- Serial order of cookies (R67): a is at or after b. -/
def cookieAtOrAfter (a b : BitVec 32) : Bool := (a - b).toNat < 2 ^ 31

/-- a is after b (R67). -/
def cookieAfter (a b : BitVec 32) : Bool := let x := (a - b).toNat; decide (1 ≤ x) && decide (x < 2 ^ 31)

end Sys2Proof.Machine
end

