-- ==== Sys2Proof/Machine/Operands.lean ====
section
/-! DEFINITION. The step (R48), its opcodes with what their operand fields name (R50), deadline classes (R63, R466) and
the handle form (R54). -/

namespace Sys2Proof.Machine

/-- The opcodes (R50). -/
inductive Opc where
  | nop | fence | wait | event | rfence
  | genkey | derive | wrap | unwrap | erase | import
  | mapreg | unmapreg | seal | unseal | rekey | sweep | pageout | pagein
  | chopen | chclose | chepoch | sqjoin | sqleave | sumset
  | attest | measure | domjoin | domlead
  | freeze | save | restore | thaw | quota
  | vopen | vload | vclose | snap | trace
  deriving DecidableEq, Repr

/-- Opcode values (R50). -/
def Opc.code : Opc → Nat
  | .nop => 0x01 | .fence => 0x02 | .wait => 0x03 | .event => 0x04 | .rfence => 0x05
  | .genkey => 0x10 | .derive => 0x11 | .wrap => 0x12 | .unwrap => 0x13 | .erase => 0x14 | .import => 0x15
  | .mapreg => 0x20 | .unmapreg => 0x21 | .seal => 0x22 | .unseal => 0x23 | .rekey => 0x24 | .sweep => 0x25
  | .pageout => 0x26 | .pagein => 0x27
  | .chopen => 0x30 | .chclose => 0x31 | .chepoch => 0x32 | .sqjoin => 0x33 | .sqleave => 0x34 | .sumset => 0x35
  | .attest => 0x40 | .measure => 0x41 | .domjoin => 0x42 | .domlead => 0x43
  | .freeze => 0x50 | .save => 0x51 | .restore => 0x52 | .thaw => 0x53 | .quota => 0x54
  | .vopen => 0x60 | .vload => 0x61 | .vclose => 0x62 | .snap => 0x70 | .trace => 0x71

/-- Every opcode. -/
def Opc.all : List Opc :=
  [.nop, .fence, .wait, .event, .rfence, .genkey, .derive, .wrap, .unwrap, .erase, .import, .mapreg, .unmapreg, .seal,
   .unseal, .rekey, .sweep, .pageout, .pagein, .chopen, .chclose, .chepoch, .sqjoin, .sqleave, .sumset, .attest, .measure,
   .domjoin, .domlead, .freeze, .save, .restore, .thaw, .quota, .vopen, .vload, .vclose, .snap, .trace]

/-- The opcode a value encodes; values not listed are reserved (R50). -/
def Opc.ofCode (n : Nat) : Option Opc := Opc.all.find? fun o => Opc.code o = n

/-- Whether a partition thread may issue it (R50, column By). -/
def Opc.byPartition : Opc → Bool
  | .sweep | .freeze | .save | .restore | .thaw | .quota | .vopen | .vload | .vclose => false
  | _ => true

/-- Whether the manager thread may issue it (R50, column By). -/
def Opc.byManager : Opc → Bool
  | .rfence | .chopen | .chclose | .chepoch | .sqjoin | .sqleave | .sumset | .domjoin | .domlead => false
  | _ => true

/-- Kinds of object a handle names (R54). -/
inductive HKind where
  | key | region | channel | square | part
  deriving DecidableEq, Repr

def HKind.code : HKind → Nat
  | .key => 1
  | .region => 2
  | .channel => 3
  | .square => 4
  | .part => 5

def HKind.ofCode (n : Nat) : Option HKind := [HKind.key, .region, .channel, .square, .part].find? fun k => HKind.code k = n

/-- What a handle field of a step names (R50): nothing (must be zero), a free entry to be filled, a live one, a live one
that the step frees, a live one or nothing. -/
inductive HUse where
  | none
  | new (k : HKind)
  | live (k : HKind)
  | frees (k : HKind)
  | opt (k : HKind)
  deriving DecidableEq, Repr

/-- The use of handle a (R50). -/
def Opc.useA : Opc → HUse
  | .genkey | .derive | .unwrap | .import => .new .key
  | .wrap => .live .key
  | .erase => .frees .key
  | .mapreg => .new .region
  | .unmapreg => .frees .region
  | .seal | .unseal | .rekey | .pageout | .pagein | .vload => .live .region
  | .sweep | .freeze | .save | .restore | .thaw | .quota => .live .part
  | .chopen => .new .channel
  | .chclose => .frees .channel
  | .chepoch => .live .channel
  | .sqjoin => .new .square
  | .sqleave => .frees .square
  | .sumset => .live .square
  | _ => .none

/-- The use of handle b (R50). -/
def Opc.useB : Opc → HUse
  | .derive => .opt .key
  | .wrap | .unwrap | .save | .restore => .live .key
  | .mapreg => .opt .square
  | .rekey => .opt .key
  | _ => .none

/-- A step that fills a new entry (R55). -/
def Opc.creates (o : Opc) : Bool := match o.useA with
  | .new _ => true
  | _ => false

/-- ERASE, UNMAPREG, CHCLOSE and SQLEAVE (R55). -/
def Opc.freeing (o : Opc) : Bool := match o.useA with
  | .frees _ => true
  | _ => false

/-- The deadline class k of HALL.DEADLINE (R63, R466); none for the instant class. -/
def Opc.deadline : Opc → Option Nat
  | .nop | .fence | .event => none
  | .wait => some 0
  | .genkey | .derive | .wrap | .unwrap | .erase | .chopen | .chclose | .chepoch | .sqjoin | .sqleave | .sumset
  | .vclose => some 1
  | .rekey | .sweep | .vload => some 2
  | .mapreg | .unmapreg | .seal | .unseal | .pageout | .pagein => some 3
  | .rfence => some 4
  | .import | .attest | .measure | .domjoin | .domlead | .vopen => some 5
  | .freeze | .save | .restore | .thaw | .quota => some 6
  | .snap | .trace => some 7

/-- Reset values of HALL.DEADLINE in microseconds (R466). -/
def deadlineReset (k : Nat) : Nat := [0xF4240, 0x64, 0x64, 0x2710, 0x64, 0xF4240, 0x186A0, 0xA].getD k 0

/-- A step taken apart (R48). -/
structure Step where
  opcode : Nat
  go : Bool
  notify : Bool
  order : Bool
  cont : Bool
  reserved : Nat
  a : Nat
  b : Nat
  c : Nat
  d : Nat
  deriving DecidableEq, Repr

/-- The fields of a 128-bit row (R48). -/
def Step.of (w : BitVec 128) : Step :=
  let n := w.toNat
  { opcode := fld n 120 8, go := bitOf n 119, notify := bitOf n 118, order := bitOf n 117, cont := bitOf n 116,
    reserved := fld n 112 4, a := fld n 96 16, b := fld n 80 16, c := fld n 64 16, d := fld n 0 64 }

/-- The opcode of a step. -/
def Step.op (s : Step) : Option Opc := Opc.ofCode s.opcode

/-- Index and generation of a handle (R54). -/
def hIndex (h : Nat) : Nat := fld h 0 12
def hGen (h : Nat) : Nat := fld h 12 4

/-- Clear go of a row (R49). -/
def clearGo (w : BitVec 128) : BitVec 128 := w &&& ~~~((1 : BitVec 128) <<< 119)

/-- Generation after g (R55). -/
def nextGen (g : Nat) : Nat := g % 15 + 1

/-! ## Handle entries -/

/-- Where the table of handle entries keeps entry `index` of a kind (R54). -/
def hKey (k : HKind) (index : Nat) : Nat := HKind.code k * 4096 + index

/-- Generations 1 to 15 moved on n times (R55). -/
def genShift (n g : Nat) : Nat := (g + 14 + n) % 15 + 1

/-- Entry `index` of a kind: the table counts generations from the thread's base, which a partition reset moves on (R58). -/
def Thread.handle (t : Thread) (k : HKind) (index : Nat) : HEntry :=
  let e := tget t.handles {} (hKey k index)
  { e with gen := genShift t.handleBase e.gen }

def Thread.setHandle (t : Thread) (k : HKind) (index : Nat) (e : HEntry) : Thread :=
  { t with handles := tset t.handles {} (hKey k index) { e with gen := genShift (15 - t.handleBase % 15) e.gen } }

/-- Every entry free, every generation moved on by one (R58). -/
def Thread.renewHandles (t : Thread) : Thread :=
  { t with handleBase := (t.handleBase + 1) % 15,
           handles := (t.handles.map fun e => (e.1, ({ gen := e.2.gen } : HEntry))).filter fun e => e.2 ≠ {} }

/-- The entry a handle of a thread names. -/
def Dev.entry (d : Dev) (thread : Nat) (k : HKind) (h : Nat) : HEntry := (d.th thread).handle k (hIndex h)

/-- The global slot of a live handle: live entry, current generation (R56). -/
def Dev.liveSlot (d : Dev) (thread : Nat) (k : HKind) (h : Nat) : Option Nat :=
  let e := d.entry thread k h
  if e.st = .live && e.gen = hGen h then some e.slot else none

end Sys2Proof.Machine
end

