-- ==== Sys2Proof/Machine/Crypto.lean ====
section
/-! DEFINITION. The published algorithms Kerre's data paths and key tree use (R13): AES-256 (FIPS 197), GCM (SP 800-38D),
CMAC (SP 800-38B), the SP 800-108 KDF with its labels (R75, R76), KW (SP 800-38F), SHA-384 and HMAC (FIPS 180-4,
FIPS 198-1) and CRC-32. Public-key algorithms are uninterpreted constants of Config. -/

namespace Sys2Proof.Machine

/-! ## AES-256 -/

/-- The S-box of FIPS 197, entry i in bits [8i+7:8i]. -/
def sboxTable : Nat :=
  0xc323c7041531d871f1e5a534ccf73f362693fdb7c072a49cafa2d4adf04759fa7dc982ca76abd7fe2b670130c56f6bf27b777c63 * 2 ^ 0
  + 0x85334d43fbaaefd0cf584c4a39becb6a5bb1fc20ed00d153842fe329b3d63b52a05a6e1b1a2c830975b227ebe28012079a059618 * 2 ^ 416
  + 0x14b8ee4688902a22dc4f816073195d643d7ea7c41744975fec130ccdd2f3ff1021dab6bcf5389d928f40a351a89f3c507f02f945 * 2 ^ 832
  + 0x8a8bbd4b1f74dde8c6b4a61c2e2578ba08ae7a65eaf4566ca94ed58d6d37c8e779e4959162acd3c25c2406490a3a32e0db0b5ede * 2 ^ 1248
  + 0x16bb54b00f2d99416842e6bf0d89a18cdf2855cee9871e9b948ed9691198f8e19e1dc186b95735610ef6034866b53e70 * 2 ^ 1664

def sbox (b : Nat) : Nat := (sboxTable >>> (8 * b)) % 256

/-- Multiply by x in the field of FIPS 197. -/
def xtime (b : Nat) : Nat := if b < 128 then 2 * b else (2 * b - 256) ^^^ 0x1B

def subWord (w : List Nat) : List Nat := w.map sbox
def xorL (a b : List Nat) : List Nat := List.zipWith (· ^^^ ·) a b

/-- The key schedule, from the words so far (newest first, each four bytes), n words still to make, i the next index. -/
def keyWords (n i : Nat) (rcon : Nat) (ws : List (List Nat)) : List (List Nat) :=
  match n with
  | 0 => ws
  | k + 1 =>
    let prev := ws.headD []
    let base := ws.getD 7 []
    let t := if i % 8 = 0 then xorL (subWord (prev.drop 1 ++ prev.take 1)) [rcon, 0, 0, 0]
             else if i % 8 = 4 then subWord prev else prev
    keyWords k (i + 1) (if i % 8 = 0 then xtime rcon else rcon) (xorL base t :: ws)

def chunks (n : Nat) (fuel : Nat) (l : List α) : List (List α) :=
  match fuel with
  | 0 => []
  | k + 1 => if l.isEmpty then [] else l.take n :: chunks n k (l.drop n)

/-- The fifteen round keys of sixteen bytes. -/
def roundKeys (key : List Nat) : List (List Nat) :=
  let ws := (keyWords 52 8 1 (chunks 4 8 key).reverse).reverse
  (chunks 4 15 ws).map List.flatten

def shiftRows (s : List Nat) : List Nat :=
  [0, 5, 10, 15, 4, 9, 14, 3, 8, 13, 2, 7, 12, 1, 6, 11].map fun i => s.getD i 0

def mixColumn (c : List Nat) : List Nat :=
  match c with
  | [a, b, e, f] =>
    [xtime a ^^^ (xtime b ^^^ b) ^^^ e ^^^ f, a ^^^ xtime b ^^^ (xtime e ^^^ e) ^^^ f,
     a ^^^ b ^^^ xtime e ^^^ (xtime f ^^^ f), (xtime a ^^^ a) ^^^ b ^^^ e ^^^ xtime f]
  | l => l

/-- The rounds with the remaining round keys. -/
def aesRounds (rks : List (List Nat)) (s : List Nat) : List Nat :=
  match rks with
  | [] => s
  | [k] => xorL (shiftRows (s.map sbox)) k
  | k :: r => aesRounds r (xorL ((chunks 4 4 (shiftRows (s.map sbox))).flatMap mixColumn) k)

/-- AES-256 of one block, bytes as numbers, with expanded round keys. -/
def aesWith (rks : List (List Nat)) (block : List Nat) : List Nat :=
  match rks with
  | [] => block
  | k :: r => aesRounds r (xorL block k)

def toNats (b : Bytes) : List Nat := b.map (·.toNat)
def toBytes (l : List Nat) : Bytes := l.map (BitVec.ofNat 8)

/-- The expanded key of a Larder key (byte 0 of the key first, R75). -/
def expand (k : Key) : List (List Nat) := roundKeys (toNats (keyBytes k))

/-- AES-256 of a 16-byte block. -/
def aes256 (k : Key) (block : Bytes) : Bytes := toBytes (aesWith (expand k) (toNats block))

/-! ### The inverse cipher, for KW unwrap -/

/-- The inverse S-box of FIPS 197, entry i in bits [8i+7:8i]. -/
def invSboxTable : Nat :=
  0x66a12e084ec3fa420b954cee3d23c2a632947b54cbe9dec444438e3487ff2f9b8239e37cfbd7f3819ea340bf38a53630d56a0952 * 2 ^ 0
  + 0x0ad3bc8c00abd890849d8da75746155edab9edfd5048706c92b6655dcc5ca4d41698688664f6f87225d18b6d49a25b76b224d928 * 2 ^ 416
  + 0xe837f9e28535ade72274ac9673e6b4f0cecff297eadc674f4111913a6b8a130103bdafc1020f3fca8f1e2cd00645b3b80558e4f7 * 2 ^ 832
  + 0x5fec8027591012b131c7078833a8dd1ff45acd78fec0db9a2079d2c64b3e56fc1bbe18aa0e62b76f89c5291d711af1476edf751c * 2 ^ 1248
  + 0x7d0c2155631469e126d677ba7e042b17619953833cbbebc8b0f52aae4d3be0a0ef9cc9939f7ae52d0d4ab519a97f5160 * 2 ^ 1664

def invSbox (v : Nat) : Nat := (invSboxTable >>> (8 * v)) % 256

def invShiftRows (s : List Nat) : List Nat :=
  [0, 13, 10, 7, 4, 1, 14, 11, 8, 5, 2, 15, 12, 9, 6, 3].map fun i => s.getD i 0

/-- InvMixColumns of one column: the multiplication by 4x^2 + 5 that makes the matrix of MixColumns into its inverse, then
MixColumns. -/
def invMixColumn (c : List Nat) : List Nat :=
  match c with
  | [a, b, e, f] =>
    let u := xtime (xtime (a ^^^ e))
    let v := xtime (xtime (b ^^^ f))
    mixColumn [a ^^^ u, b ^^^ v, e ^^^ u, f ^^^ v]
  | l => l

/-- The inverse rounds; the round keys come last one first. -/
def aesInvRounds (rks : List (List Nat)) (s : List Nat) : List Nat :=
  match rks with
  | [] => s
  | [k] => xorL ((invShiftRows s).map invSbox) k
  | k :: r => aesInvRounds r ((chunks 4 4 (xorL ((invShiftRows s).map invSbox) k)).flatMap invMixColumn)

def aesInvWith (rks : List (List Nat)) (block : List Nat) : List Nat :=
  match rks.reverse with
  | [] => block
  | k :: r => aesInvRounds r (xorL block k)

/-! ## CMAC and the KDF -/

def xorB (a b : Bytes) : Bytes := List.zipWith (· ^^^ ·) a b

/-- Doubling in GF(2^128) for CMAC subkeys, most significant bit first. -/
def cmacDouble (n : Nat) : Nat := if n < 2 ^ 127 then 2 * n else (2 * n - 2 ^ 128) ^^^ 0x87

/-- The chain of CMAC over whole blocks. -/
def cmacChain (rks : List (List Nat)) (blocks : List Bytes) (x : Bytes) : Bytes :=
  match blocks with
  | [] => x
  | b :: r => cmacChain rks r (toBytes (aesWith rks (toNats (xorB x b))))

/-- AES-256-CMAC (SP 800-38B). -/
def cmac (k : Key) (msg : Bytes) : Bytes :=
  let rks := expand k
  let l := beNat (toBytes (aesWith rks (List.replicate 16 0)))
  let k1 := cmacDouble l
  let full := decide (msg.length % 16 = 0) && !msg.isEmpty
  let last := if full then msg.drop (msg.length - 16) else
    padTo 16 (msg.drop (msg.length / 16 * 16) ++ [0x80])
  let lead := chunks 16 (msg.length + 1) (if full then msg.take (msg.length - 16) else msg.take (msg.length / 16 * 16))
  let m := xorB last (natBe 16 (if full then k1 else cmacDouble k1))
  cmacChain rks (lead ++ [m]) (List.replicate 16 0)

/-- Blocks i to i + n - 1 of the KDF (R75). -/
def kdfBlocks (parent : Key) (label : Bytes) (bits n i : Nat) : Bytes :=
  match n with
  | 0 => []
  | k + 1 => cmac parent (natBe 4 i ++ label ++ [0] ++ natBe 4 bits) ++ kdfBlocks parent label bits k (i + 1)

/-- kdf(parent, label, bits) of R75. -/
def kdf (parent : Key) (label : Bytes) (bits : Nat) : Bytes := kdfBlocks parent label bits (bits / 128) 1

/-- A label (R76); parts in the part_a form. -/
def label (purpose nodeA partA nodeB partB index epoch : Nat) : Bytes :=
  natLe 4 purpose ++ natLe 2 nodeA ++ natLe 1 partA ++ [0] ++ natLe 2 nodeB ++ natLe 1 partB ++ [0] ++ natLe 4 index
    ++ natLe 2 epoch ++ List.replicate 14 0

/-- A key derived under a label. -/
def kdfKey (parent : Key) (l : Bytes) : Key := bytesKey (kdf parent l 256)

namespace Purpose
abbrev idnt : Nat := 0x544E4449
abbrev sealing : Nat := 0x4C414553
abbrev atrt : Nat := 0x54525441
abbrev slot : Nat := 0x544F4C53
abbrev mgmt : Nat := 0x544D474D
abbrev valt : Nat := 0x544C4156
abbrev page : Nat := 0x45474150
abbrev base : Nat := 0x45534142
abbrev regn : Nat := 0x4E474552
abbrev chan : Nat := 0x4E414843
abbrev sqre : Nat := 0x45525153
abbrev wrap : Nat := 0x50415257
abbrev migr : Nat := 0x5247494D
abbrev rept : Nat := 0x54504552
end Purpose

/-! ## GCM -/

/-- Multiplication in GF(2^128) of SP 800-38D on 128-bit numbers whose most significant bit is bit 0 of the block: n bits
of x still to take, v the running multiple. -/
def gfLoop (n x v z : Nat) : Nat :=
  match n with
  | 0 => z
  | k + 1 =>
    let z' := if (x >>> k) % 2 = 1 then z ^^^ v else z
    gfLoop k x (if v % 2 = 1 then (v / 2) ^^^ (0xE1 * 2 ^ 120) else v / 2) z'

def gfMul (x y : Nat) : Nat := gfLoop 128 x y 0

/-- GHASH over whole blocks. -/
def ghash (h : Nat) (blocks : List Bytes) (y : Nat) : Nat :=
  match blocks with
  | [] => y
  | b :: r => ghash h r (gfMul (y ^^^ beNat (padTo 16 b)) h)

/-- Counter-mode output of n blocks under a 12-byte IV from 32-bit big-endian counter c on. -/
def ctrBlocks (rks : List (List Nat)) (iv : Bytes) (n c : Nat) : Bytes :=
  match n with
  | 0 => []
  | k + 1 => toBytes (aesWith rks (toNats (iv ++ natBe 4 c))) ++ ctrBlocks rks iv k (c + 1)

/-- The GCM tag over ciphertext c and additional data a. -/
def gcmTag (rks : List (List Nat)) (iv a c : Bytes) : Bytes :=
  let h := beNat (toBytes (aesWith rks (List.replicate 16 0)))
  let blocks := chunks 16 (a.length + 1) a ++ chunks 16 (c.length + 1) c ++ [natBe 8 (8 * a.length) ++ natBe 8 (8 * c.length)]
  xorB (natBe 16 (ghash h blocks 0)) (ctrBlocks rks iv 1 1)

/-- AES-256-GCM with a 96-bit IV: ciphertext and tag. -/
def gcmSeal (k : Key) (iv a p : Bytes) : Bytes × Bytes :=
  let rks := expand k
  let c := xorB p (ctrBlocks rks iv ((p.length + 15) / 16) 2)
  (c, gcmTag rks iv a c)

/-- The keystream applied to a ciphertext: its plaintext. -/
def gcmPlain (k : Key) (iv c : Bytes) : Bytes := xorB c (ctrBlocks (expand k) iv ((c.length + 15) / 16) 2)

/-- Open: the plaintext when the tag verifies. -/
def gcmOpen (k : Key) (iv a c tag : Bytes) : Option Bytes :=
  if gcmTag (expand k) iv a c = tag then some (gcmPlain k iv c) else none

/-! ## KW (SP 800-38F) -/

/-- One pass of wrap over the semiblocks r, from counter t. -/
def kwStep (rks : List (List Nat)) (rs : List Bytes) (a : Bytes) (t : Nat) : Bytes × List Bytes :=
  match rs with
  | [] => (a, [])
  | r :: rest =>
    let b := toBytes (aesWith rks (toNats (a ++ r)))
    let a' := xorB (b.take 8) (natBe 8 t)
    let (a2, rest') := kwStep rks rest a' (t + 1)
    (a2, b.drop 8 :: rest')

def kwPasses (rks : List (List Nat)) (n : Nat) (rs : List Bytes) (a : Bytes) (t : Nat) : Bytes × List Bytes :=
  match n with
  | 0 => (a, rs)
  | k + 1 =>
    let (a', rs') := kwStep rks rs a t
    kwPasses rks k rs' a' (t + rs.length)

/-- KW with the default ICV; the input is whole semiblocks. -/
def kwWrap (k : Key) (p : Bytes) : Bytes :=
  let (a, rs) := kwPasses (expand k) 6 (chunks 8 p.length p) (List.replicate 8 0xA6) 1
  a ++ rs.flatten

/-- One pass of unwrap, the semiblocks last first, from counter t down. -/
def kwUnstep (rks : List (List Nat)) (rs : List Bytes) (a : Bytes) (t : Nat) : Bytes × List Bytes :=
  match rs with
  | [] => (a, [])
  | r :: rest =>
    let b := toBytes (aesInvWith rks (toNats (xorB a (natBe 8 t) ++ r)))
    let (a2, rest') := kwUnstep rks rest (b.take 8) (t - 1)
    (a2, b.drop 8 :: rest')

def kwUnpasses (rks : List (List Nat)) (n : Nat) (rs : List Bytes) (a : Bytes) (t : Nat) : Bytes × List Bytes :=
  match n with
  | 0 => (a, rs)
  | k + 1 =>
    let (a', rs') := kwUnstep rks rs a t
    kwUnpasses rks k rs' a' (t - rs.length)

/-- KW unwrap: the plaintext when the ICV verifies. -/
def kwUnwrap (k : Key) (c : Bytes) : Option Bytes :=
  let rs := (chunks 8 c.length (c.drop 8)).reverse
  let (a, out) := kwUnpasses (expand k) 6 rs (c.take 8) (6 * rs.length)
  if a = List.replicate 8 0xA6 then some out.reverse.flatten else none

/-! ## SHA-384 and HMAC -/

/-- Round constants of FIPS 180-4, K_i in bits [64i+63:64i]. -/
def shaK : Nat :=
  0xaf194f9b59f111f1b605d0193956c25bf348b538e9b5dba58189dbbcb5c0fbcfec4d3b2f7137449123ef65cd428a2f98d728ae22 * 2 ^ 0
  + 0x72be5d74f27b896f550c7dc3d5ffb4e2243185be4ee4b28c12835b0145706fbed807aa98a3030242ab1c5ed5da6d8118923f82a4 * 2 ^ 416
  + 0x77ac9c650fc19dc68b8cd5b5efbe4786384f25e3e49b69c19ef14ad2c19bf174cf6926949bdc06a725c7123580deb1fe3b1696b1 * 2 ^ 832
  + 0xa831c66d2db43210983e5152ee66dfab76f988da831153b55cb0a9dcbd41fbd44a7484aa6ea6e4832de92c6f592b0275240ca1cc * 2 ^ 1248
  + 0x46d22ffc142929670a0e6e7006ca6351e003826fd5a79147930aa725c6e00bf33da88fc2bf597fc7beef0ee4b00327c898fb213f * 2 ^ 1664
  + 0x81c2c92e47edaee6766a0abb3c77b2a8650a73548baf63de53380d139d95b3df4d2c6dfc5ac42aed2e1b21385c26c92627b70a85 * 2 ^ 2080
  + 0x5565a910d192e819d6ef5218c76c51a30654be30c24b8b70d0f89791a81a664bbc423001a2bfe8a14cf1036492722c851482353b * 2 ^ 2496
  + 0x34b0bcb5e19b48a82748774cdf8eeb991e376c085141ab5319a4c116b8d2d0c8106aa07032bbd1b8f40e35855771202ad6990624 * 2 ^ 2912
  + 0xa1f0ab7278a5636f43172f60748f82ee5defb2fc682e6ff3d6b2b8a35b9cca4f7763e3734ed8aa4ae3418acb391c0cb3c5c95a63 * 2 ^ 3328
  + 0xca273eceea26619cc67178f2e372532bbef9a3f7b2c67915a4506cebde82bde990befffa23631e288cc702081a6439ec84c87814 * 2 ^ 3744
  + 0x131c471b113f9804bef90dae0a637dc5a2c898a606f067aa72176fbaf57d4f7fee6ed178eada7dd6cde0eb1ed186b8c721c0c207 * 2 ^ 4160
  + 0x597f299cfc657e2a4cc5d4becb3e42b6431d67c49c100d4c3c9ebe0a15c9bebc32caab7b40c7249328db77f523047d841b710b35 * 2 ^ 4576
  + 0x6c44198c4a4758175fcb6fab3ad6faec * 2 ^ 4992

/-- Initial hash value of SHA-384, word i in bits [64i+63:64i]. -/
def shaInit : Nat :=
  0x64f98fa78eb44a876858151167332667ffc00b31152fecd8f70e59399159015a3070dd17629a292a367cd507cbbb9d5dc1059ed8 * 2 ^ 0
  + 0x47b5481dbefa4fa4db0c2e0d * 2 ^ 416

def rotr (n x : Nat) : Nat := (x >>> n) ||| (x * 2 ^ (64 - n) % 2 ^ 64)

/-- The message schedule, newest word first, n words still to make. -/
def shaSchedule (n : Nat) (w : List Nat) : List Nat :=
  match n with
  | 0 => w
  | k + 1 =>
    let s1 := let x := w.getD 1 0; rotr 19 x ^^^ rotr 61 x ^^^ (x >>> 6)
    let s0 := let x := w.getD 14 0; rotr 1 x ^^^ rotr 8 x ^^^ (x >>> 7)
    shaSchedule k ((s1 + w.getD 6 0 + s0 + w.getD 15 0) % 2 ^ 64 :: w)

/-- The rounds over the schedule from index t on; the working variables a to h. -/
def shaRounds (ws : List Nat) (t : Nat) (v : List Nat) : List Nat :=
  match ws, v with
  | w :: r, [a, b, c, d, e, f, g, h] =>
    let t1 := h + (rotr 14 e ^^^ rotr 18 e ^^^ rotr 41 e) + ((e &&& f) ^^^ ((2 ^ 64 - 1 - e) &&& g)) + (shaK >>> (64 * t)) % 2 ^ 64 + w
    let t2 := (rotr 28 a ^^^ rotr 34 a ^^^ rotr 39 a) + ((a &&& b) ^^^ (a &&& c) ^^^ (b &&& c))
    shaRounds r (t + 1) [(t1 + t2) % 2 ^ 64, a, b, c, (d + t1) % 2 ^ 64, e, f, g]
  | _, v => v

def shaBlock (h : List Nat) (block : Bytes) : List Nat :=
  let w := (shaSchedule 64 ((chunks 8 16 block).map beNat).reverse).reverse
  List.zipWith (fun a b => (a + b) % 2 ^ 64) h (shaRounds w 0 h)

/-- SHA-384 of a byte string. -/
def sha384 (m : Bytes) : Bytes :=
  let l := m.length
  let z := (239 - l % 128) % 128
  let padded := m ++ [0x80] ++ List.replicate z 0 ++ natBe 16 (8 * l)
  let h := (chunks 128 (padded.length + 1) padded).foldl shaBlock ((List.range 8).map fun i => (shaInit >>> (64 * i)) % 2 ^ 64)
  (h.take 6).flatMap (natBe 8)

/-- SHA-384 as a register holds it. -/
def sha384d (m : Bytes) : Digest := bytesDigest (sha384 m)

/-- HMAC-SHA-384. -/
def hmac (key msg : Bytes) : Bytes :=
  let k := padTo 128 (if 128 < key.length then sha384 key else key)
  sha384 (k.map (· ^^^ 0x5C) ++ sha384 (k.map (· ^^^ 0x36) ++ msg))

/-- The first 32 bytes of an HMAC as a key. -/
def hmacKey (key msg : Bytes) : Key := bytesKey (hmac key msg)

/-! ## CRC-32 (IEEE 802.3) -/

def crcBits (n c : Nat) : Nat :=
  match n with
  | 0 => c
  | k + 1 => crcBits k (if c % 2 = 1 then (c / 2) ^^^ 0xEDB88320 else c / 2)

def crc32 (b : Bytes) : Nat := (b.foldl (fun c x => crcBits 8 (c ^^^ x.toNat)) 0xFFFFFFFF) ^^^ 0xFFFFFFFF

end Sys2Proof.Machine
end

