-- ==== Sys2Proof/Machine/Floor.lean ====
section
/-! DEFINITION. The Floor Plan (R14, R15, R18 to R22): the header and the 16 entries a configuration is built with. -/

namespace Sys2Proof.Machine

/-- Base of the Manager Porch: right behind the last partition Porch (R15). -/
def Kind.managerPorch (k : Kind) : Nat := 0x1000000 + Kind.parts k * 0x40000

/-- One entry (R19): type, instances, stride, base, param0, param1; version 0x01, stride zero for one instance. -/
def floorEntry (type count stride base p0 p1 : Nat) : List Nat :=
  [count * 2 ^ 32 + 2 ^ 16 + type, (if count = 1 then 0 else stride) * 2 ^ 32 + base, p0, p1]

/-- param1 of PORCH and MANAGER_PORCH (R20). -/
def porchParam : Nat := 256 + 64 * 2 ^ 16 + 16 * 2 ^ 24 + 256 * 2 ^ 32

/-- The entries in ascending order of type (R14, R20, R21). -/
def floorEntries (k : Kind) : List Nat :=
  let n := Kind.parts k
  let m := 0x100000
  floorEntry 0x0001 1 0 0 0x10000 0
  ++ floorEntry 0x0002 1 0 0x10000 0x10000 (n + 3 * 2 ^ 8)
  ++ floorEntry 0x0003 n 0x40000 0x1000000 0x40000 porchParam
  ++ floorEntry 0x0004 1 0 (Kind.managerPorch k) 0x40000 porchParam
  ++ floorEntry 0x0005 1 0 0x2000000 m (Kind.keySlots k + (if Kind.invoker k then 3 * 2 ^ 16 else 0))
  ++ floorEntry 0x0006 (Kind.ports k) 0x1000 0x2100000 0x1000 (8 + Kind.portSpares k * 2 ^ 8 + 400 * 2 ^ 16 + 512 * 2 ^ 32)
  ++ floorEntry 0x0007 (Kind.engines k) 0x1000 0x2300000 0x1000
      (60 + Kind.memSpares k * 2 ^ 8 + 96 * 2 ^ 16 + 4096 * 2 ^ 32 + 1024 * 2 ^ 48)
  ++ floorEntry 0x0008 1 0 0x2400000 m 0
  ++ floorEntry 0x0009 1 0 0x2500000 m (256 + 8 * 2 ^ 16)
  ++ floorEntry 0x000A 1 0 0x2600000 m (16 + 512 * 2 ^ 16)
  ++ floorEntry 0x000B 1 0 0x2700000 m (2048 + 32 * 2 ^ 32)
  ++ floorEntry 0x000C 1 0 0x2800000 m (256 + 64 * 2 ^ 16 + 512 * 2 ^ 32)
  ++ floorEntry 0x000D 1 0 0x2900000 m (8192 + 64 * 2 ^ 16)
  ++ floorEntry 0x000E 1 0 0x2A00000 m (64 + n * 2 ^ 16)
  ++ floorEntry 0x000F 1 0 0x2B00000 m 0
  ++ floorEntry 0x0100 1 0 0 (Kind.chanSlots k + Kind.squareSlots k * 2 ^ 32 + Kind.regionSlots k * 2 ^ 48)
      (Kind.lanes k + (n + 4) * 2 ^ 16 + Kind.domains k * 2 ^ 24)

/-- The table with a CRC in its header (R18). -/
def floorWords (k : Kind) (crc : Nat) : List Nat :=
  [16 * 2 ^ 48 + 2 ^ 40 + 0x4B455252, Kind.num k + Config.romVersion.toNat * 2 ^ 8 + Config.stepping.toNat * 2 ^ 16,
   544 * 2 ^ 32 + 0x4000000, crc] ++ floorEntries k

/-- The table's bytes, its CRC taken with the CRC field zero. -/
def floorTable (k : Kind) : Bytes :=
  (floorWords k (crc32 ((floorWords k 0).flatMap (natLe 8)))).flatMap (natLe 8)

/-- A word of the window FLOOR; past the table it is reserved. -/
def floorRead (k : Kind) (off : Nat) : Word := BitVec.ofNat 64 (leAt (floorTable k) off 8)

end Sys2Proof.Machine
end

