-- ==== Sys2Proof/Machine/Code.lean ====
section
/-! DEFINITION. The symbol code of R270: a systematic Reed-Solomon code over GF(2^8) on granules of 32 bytes with four
check bytes, one symbol corrected, two detected. -/

namespace Sys2Proof.Machine

/-- Multiply by alpha = 2 modulo x^8 + x^4 + x^3 + x^2 + 1 (R270). -/
def rsX (b : Nat) : Nat := if b < 128 then 2 * b else (2 * b) ^^^ 0x11D

/-- Product of two field elements, n bits of a still to take from the top. -/
def rsMul (n a b acc : Nat) : Nat :=
  match n with
  | 0 => acc
  | k + 1 => rsMul k a b (if (a >>> k) % 2 = 1 then rsX acc ^^^ b else rsX acc)

/-- Coefficients of the generator below x^4, from x^3 down: the product of (x - alpha^i), i = 0 to 3 (R270). -/
def rsGen : List Nat := [15, 54, 120, 64]

/-- Check bytes j = 0 to 3 of a granule's bytes, byte 0 the highest degree (R270). -/
def rsCheck (bytes r : List Nat) : List Nat :=
  match bytes with
  | [] => r
  | b :: rest =>
    let f := b ^^^ r.headD 0
    rsCheck rest (List.zipWith (fun x g => x ^^^ rsMul 8 f g 0) (r.drop 1 ++ [0]) rsGen)

/-- Horner value of a codeword at alpha^i: its coefficients from the highest degree down. -/
def rsEval (word : List Nat) (x acc : Nat) : Nat :=
  match word with
  | [] => acc
  | c :: rest => rsEval rest x (rsMul 8 acc x 0 ^^^ c)

/-- alpha^n. -/
def rsPow (n : Nat) : Nat :=
  match n with
  | 0 => 1
  | k + 1 => rsX (rsPow k)

/-- Decode a codeword of 36 symbols: none where it is uncorrectable; else the 32 message bytes and whether one symbol was
corrected. -/
def rsDecode (word : List Nat) : Option (List Nat × Bool) :=
  let s := (List.range 4).map fun i => rsEval word (rsPow i) 0
  let s0 := s.getD 0 0
  let s1 := s.getD 1 0
  let s2 := s.getD 2 0
  let s3 := s.getD 3 0
  if s0 = 0 && s1 = 0 && s2 = 0 && s3 = 0 then some (word.take 32, false)
  else if s0 = 0 then none
  else
    match (List.range 36).find? fun p => rsMul 8 (rsPow p) s0 0 = s1 with
    | none => none
    | some p =>
      let x := rsPow p
      if rsMul 8 x s1 0 = s2 && rsMul 8 x s2 0 = s3 then
        some ((word.set (35 - p) (word.getD (35 - p) 0 ^^^ s0)).take 32, true)
      else none

/-- The 16 check bytes of a line, granule by granule (R270). -/
def lineCheck (l : Line) : Bytes :=
  let b := lineBytes l
  (List.range 4).flatMap fun g => ((rsCheck ((slice b (32 * g) 32).map (·.toNat)) [0, 0, 0, 0]).map (BitVec.ofNat 8))

/-- A line from the stack with its check bytes: the line as corrected, symbols corrected, granules given up. -/
def lineDecode (line check : Bytes) : Line × Nat × List Nat :=
  let r := (List.range 4).map fun g =>
    (rsDecode (((slice line (32 * g) 32) ++ slice check (4 * g) 4).map (·.toNat)), g)
  let bytes := r.flatMap fun e => match e.1 with
    | some (b, _) => b.map (BitVec.ofNat 8)
    | none => slice line (32 * e.2) 32
  (bytesLine bytes,
   (r.filter fun e => match e.1 with
     | some (_, c) => c
     | none => false).length,
   (r.filter fun e => e.1.isNone).map (·.2))

end Sys2Proof.Machine
end

