-- ==== Sys2Proof/Machine/Keys.lean ====
section
/-! DEFINITION. The key tree and the Larder (chapter 03): life-cycle state from the fuses, pools of global slots, slot
words, checks and masks, reserved slots, the DRBG and the public-key engine's queue. -/

namespace Sys2Proof.Machine

/-! ## Life-cycle state (R110 to R112) -/

inductive LcState where
  | manufacture | provisioned | deployed | debug | retired
  deriving DecidableEq, Repr

/-- The encoding of SIDE.LC and of reports (R128, R141). -/
def LcState.code : LcState → Nat
  | .manufacture => 0
  | .provisioned => 1
  | .deployed => 2
  | .debug => 3
  | .retired => 4

/-- A word some legal sequence of transitions produces (R112): each bit below [8] only after the one before it. -/
def lcLegal (w : BitVec 9) : Bool :=
  (List.range 7).all fun i => !(w.getLsbD (i + 1)) || w.getLsbD i

/-- The state a fuse word decodes to (R111, R112). -/
def lcDecode (w : BitVec 9) : LcState :=
  if !lcLegal w then .retired
  else if w.getLsbD 8 then .retired
  else if (w.getLsbD 2 && !w.getLsbD 3) || (w.getLsbD 4 && !w.getLsbD 5) || (w.getLsbD 6 && !w.getLsbD 7) then .debug
  else if w.getLsbD 1 then .deployed
  else if w.getLsbD 0 then .provisioned
  else .manufacture

/-- The state the last boot or block warm reset read (R110). -/
def Dev.lc (d : Dev) : LcState := lcDecode d.mgmt.lcWord

/-- Exit bits blown (R111). -/
def debugExits (w : BitVec 9) : Nat := b2n (w.getLsbD 3) + b2n (w.getLsbD 5) + b2n (w.getLsbD 7)
/-- Entry bits blown (R113). -/
def debugEntries (w : BitVec 9) : Nat := b2n (w.getLsbD 2) + b2n (w.getLsbD 4) + b2n (w.getLsbD 6)

/-! ## Pools of global slots (R57) -/

/-- A pool of the slots lo to hi - 1, none used since reset. -/
def Pool.ofRange (lo hi : Nat) : Pool := { next := lo, limit := hi }

/-- The slot that has been free longest: never-used slots in rising order, then the slot freed earliest. -/
def Pool.take (p : Pool) : Option (Nat × Pool) :=
  if p.next < p.limit then some (p.next, { p with next := p.next + 1, live := p.live + 1 })
  else match p.freed with
    | [] => none
    | s :: r => some (s, { p with freed := r, live := p.live + 1 })

/-- The highest-numbered free slot (R89, R510). -/
def Pool.takeHighest (p : Pool) : Option (Nat × Pool) :=
  let top := p.freed.foldl max 0
  if p.next < p.limit && decide (top < p.limit) then some (p.limit - 1, { p with limit := p.limit - 1 })
  else if p.freed.isEmpty then none
  else some (top, { p with freed := p.freed.filter (· ≠ top) })

/-- Undo the taking of a slot (R508). -/
def Pool.undo (p : Pool) (s : Nat) : Pool :=
  if p.next = s + 1 then { p with next := s, live := p.live - 1 } else { p with freed := s :: p.freed, live := p.live - 1 }

/-- Return a slot. -/
def Pool.put (p : Pool) (s : Nat) : Pool := { p with freed := p.freed ++ [s], live := p.live - 1 }

/-- Free slots. -/
def Pool.free (p : Pool) : Nat := (p.limit - p.next) + p.freed.length

/-! ## Slot words (R83, R84, R93) -/

/-- Invoker masks of a slot: master, world, life cycle. -/
structure Masks where
  master : Nat
  world : Nat
  lc : Nat
  deriving DecidableEq, Repr

/-- The defaults of R93: SEQ; OWNER and FIRMWARE; DEPLOYED. -/
def defaultMasks : Masks := { master := 8, world := 5, lc := 4 }

/-- Masks from operand fields, a zero field taking its default (R93). -/
def masksFrom (m w l : Nat) : Masks :=
  { master := if m = 0 then 8 else m, world := if w = 0 then 5 else w, lc := if l = 0 then 4 else l }

namespace Origin
abbrev derived : Nat := 0
abbrev generated : Nat := 1
abbrev unwrapped : Nat := 2
abbrev imported : Nat := 3
end Origin

/-- An attribute word; the mask fields exist only in Kerre 32 (R83). -/
def attrWord (k : Kind) (usage : Nat) (wrappable : Bool) (origin level epoch : Nat) (m : Masks) : Word :=
  BitVec.ofNat 64 (usage % 16 + b2n wrappable * 16 + origin % 4 * 256 + level % 4 * 1024 + epoch % 65536 * 65536
    + (if Kind.invoker k then m.master % 32 * 2 ^ 32 + m.world % 8 * 2 ^ 40 + m.lc % 32 * 2 ^ 48 else 0))

/-- The bits of an attribute word that a configuration has: the mask fields exist only in Kerre 32 (R6, R83). -/
def attrBits (k : Kind) : Word := if Kind.invoker k then 0x001F071FFFFF0F3F else 0xFFFF0F3F

/-- An owner word (R84). -/
def ownerWord (thread index gen purpose : Nat) : Word :=
  BitVec.ofNat 64 (purpose % 2 ^ 32 + thread % 256 * 2 ^ 32 + index % 4096 * 2 ^ 40 + gen % 16 * 2 ^ 52)

def LSlot.usage (l : LSlot) : Nat := fld l.attr.toNat 0 4
def LSlot.wrappable (l : LSlot) : Bool := l.attr.getLsbD 4
def LSlot.spent (l : LSlot) : Bool := l.attr.getLsbD 5
def LSlot.origin (l : LSlot) : Nat := fld l.attr.toNat 8 2
def LSlot.epoch (l : LSlot) : Nat := fld l.attr.toNat 16 16
def LSlot.masks (l : LSlot) : Masks :=
  { master := fld l.attr.toNat 32 5, world := fld l.attr.toNat 40 3, lc := fld l.attr.toNat 48 5 }
def LSlot.thread (l : LSlot) : Nat := fld l.owner.toNat 32 8
def LSlot.purpose (l : LSlot) : Nat := fld l.owner.toNat 0 32

/-- The slot check (R85); zero where no slot-integrity key is derived (R509; notes/assumptions/25.md). -/
def Dev.slotCheck (d : Dev) (i : Nat) (l : LSlot) : BitVec 32 :=
  match d.larder.slotKey with
  | none => 0
  | some k => BitVec.ofNat 32
      (leAt (cmac k (keyBytes l.key ++ natLe 8 l.attr.toNat ++ natLe 8 l.owner.toNat ++ natLe 2 i)) 0 4)

/-- Write a slot's words with their check; bad marks stay (R85, R109). -/
def Dev.fillSlot (d : Dev) (i : Nat) (key : Key) (attr owner : Word) (st : BitVec 2) : Dev :=
  d.onSlot i fun l =>
    let l' := { l with key := key, attr := attr, owner := owner, st := st }
    { l' with check := d.slotCheck i l' }

/-- A slot that is not retired and passes its check (R86). -/
def Dev.slotPasses (d : Dev) (i : Nat) : Bool :=
  !(d.slot i).retired && (d.slot i).check = d.slotCheck i (d.slot i)

/-- Zeroise a slot, its bad marks kept (R97, R109). -/
def LSlot.zeroised (l : LSlot) : LSlot :=
  { primaryBad := l.primaryBad, shadowBad := l.shadowBad, retired := l.retired }

/-- Zeroise a pool slot and return it to the pool unless it is retired (R87, R97). -/
def Dev.freeSlot (d : Dev) (i : Nat) : Dev :=
  let d' := d.onSlot i LSlot.zeroised
  d'.onLarder fun l => { l with pool := if (d.slot i).retired then { l.pool with live := l.pool.live - 1 } else l.pool.put i }

/-- Give out a pool slot to a thread's handle entry or region: live, held, not yet filled (R508). -/
def Dev.takeSlot (d : Dev) (thread index gen purpose : Nat) : Option (Nat × Dev) :=
  match d.larder.pool.take with
  | none => none
  | some (i, p) =>
    some (i, (d.onLarder fun l => { l with pool := p }).onSlot i fun l => { l with owner := ownerWord thread index gen purpose, st := 1 })

/-- A slot a creating step has filled: a live slot has a usage bit (R83). -/
def Dev.slotFilled (d : Dev) (i : Nat) : Bool := (d.slot i).usage ≠ 0 || (d.slot i).retired

/-- The pool after a boot or block warm reset: every slot from 96 on that is neither retired nor stands for a reserved slot (R82, R87,
R109, R510). -/
def Dev.larderPool (d : Dev) : Pool :=
  let n := Kind.keySlots d.kind
  if !d.larder.subst.isEmpty || d.larder.slots.any fun e => e.2.retired && decide (96 ≤ e.1) then
    { next := n, limit := n,
      freed := ((List.range n).drop 96).filter fun i => !(d.slot i).retired && !(d.larder.subst.any fun e => e.2 = i) }
  else Pool.ofRange 96 n

/-- The thread a live or closing slot counts for: its owner, for a retired slot the one that still holds it (R87, R100). -/
def LSlot.holder (l : LSlot) : Nat := l.heldBy.getD l.thread

/-- Slots the keys of a partition hold: key-step slots and region keys (R100). -/
def Dev.keyUse (d : Dev) (n : Nat) : Nat :=
  (d.larder.slots.filter fun e => (e.2.st = 1 || e.2.st = 2) && e.2.holder = n).length

/-! ## Reserved slots (R72, R89, R510, R511) -/

/-- The slot that stands for reserved slot i. -/
def Dev.resSlot (d : Dev) (i : Nat) : Nat :=
  let s := tget d.larder.subst 0 i
  if s = 0 then i else s

/-- A reserved slot's key as an engine loads it: when the slot holds one and passes its check (R86). -/
def Dev.resKey (d : Dev) (i : Nat) : Option Key :=
  let l := d.slot (d.resSlot i)
  if l.st = 3 && d.slotPasses (d.resSlot i) then some l.key else none

/-- Masks of a reserved slot (R511). -/
def reservedMasks (i : Nat) : Masks :=
  { master := match i with
      | 1 => 12
      | 2 => 13
      | 3 => 9
      | 4 => 12
      | 5 => 12
      | 6 => 12
      | _ => 8,
    world := 5, lc := 31 }

/-- Usage of a reserved slot: derive, and encrypt and decrypt for link and paging keys (notes/assumptions/26.md). -/
def reservedUsage (i : Nat) : Nat := if i = 6 || decide (40 ≤ i) then 3 else 8

/-- The purpose a reserved slot's owner word shows (R84). -/
def reservedPurpose (i : Nat) : Nat :=
  if i = 0 then Purpose.idnt else if i = 1 then Purpose.sealing else if i = 2 then Purpose.atrt
  else if i = 4 then Purpose.mgmt else if i = 5 || i = 6 then Purpose.valt else if 40 ≤ i then Purpose.page else 0

/-- Make sure a slot that is not retired stands for reserved slot i: a retired one is replaced by the highest-numbered
free pool slot; none when the pool is empty (R510). -/
def Dev.placeReserved (d : Dev) (i : Nat) : Option (Nat × Dev) :=
  let s := d.resSlot i
  if !(d.slot s).retired then some (s, d)
  else match d.larder.pool.takeHighest with
    | none => none
    | some (t, p) => some (t, d.onLarder fun l => { l with pool := p, subst := tset l.subst 0 i t })

/-- Put a key into reserved slot i, or the slot that stands for it. -/
def Dev.setReserved (d : Dev) (i : Nat) (key : Key) (origin epoch : Nat) : Option Dev :=
  match d.placeReserved i with
  | none => none
  | some (s, d) =>
    some (d.fillSlot s key
      (attrWord d.kind (reservedUsage i) false origin (if i < 3 then 0 else 1) epoch (reservedMasks i))
      (ownerWord 0xFF 0 0 (reservedPurpose i)) 3)

/-- Zeroise reserved slot i. -/
def Dev.clearReserved (d : Dev) (i : Nat) : Dev := d.onSlot (d.resSlot i) LSlot.zeroised

/-! ## Attribute checks (R90) -/

inductive World where
  | owner | manager | firmware
  deriving DecidableEq, Repr

def World.bit : World → Nat
  | .owner => 0
  | .manager => 1
  | .firmware => 2

inductive Master where
  | host | core | mgmt | seq | dbg
  deriving DecidableEq, Repr

def Master.bit : Master → Nat
  | .host => 0
  | .core => 1
  | .mgmt => 2
  | .seq => 3
  | .dbg => 4

/-- The world of a step's use of a slot (R90). -/
def Dev.worldOf (d : Dev) (thread slot : Nat) : World :=
  let l := d.slot slot
  if l.thread = thread then .owner
  else if thread < d.nparts && (slot = d.resSlot (8 + thread) || slot = d.resSlot (40 + thread)) then .owner
  else if thread = d.mgr && slot = d.resSlot 4 then .owner
  else if thread = d.mgr then .manager else .firmware

/-- One use of a key is allowed: usage bit u, and in Kerre 32 the invoker's master, world and life-cycle bits (R90). -/
def Dev.keyMay (d : Dev) (slot u : Nat) (m : Master) (w : World) : Bool :=
  let l := d.slot slot
  bitOf l.usage u && (!Kind.invoker d.kind ||
    (bitOf l.masks.master (Master.bit m) && bitOf l.masks.world (World.bit w) && bitOf l.masks.lc (LcState.code d.lc)))

/-- Usage bits (R83). -/
abbrev useEncrypt : Nat := 0
abbrev useDecrypt : Nat := 1
abbrev useWrap : Nat := 2
abbrev useDerive : Nat := 3

/-! ## The DRBG (R79, R80) -/

/-- A reseed has fallen due: after 65,536 generate requests, or 100 ms after the last one. -/
def Dev.reseedDue (d : Dev) : Bool :=
  decide (65536 ≤ d.larder.drbg.sinceReseed) || decide (d.larder.drbg.lastReseed + 100000000 ≤ d.time)

/-- A generate request can be served now; one that meets a reseed waits for it. -/
def Dev.canDraw (d : Dev) : Bool := d.larder.drbg.st = .ready && !d.reseedDue

/-- n generate requests in a row can be served now. -/
def Dev.canDraws (d : Dev) (n : Nat) : Bool := d.canDraw && decide (d.larder.drbg.sinceReseed + n ≤ 65536)

/-- The additional input of a generate request, but a region key's: the requesting partition or none, and the target slot. -/
def drawLabel (part : Option Nat) (slot : Nat) : Bytes := label 0 0 (partForm part) 0 0 slot 0

/-- The additional input of a region key's request (R77): owner, region slot, region key epoch. -/
def regionLabel (part : Option Nat) (region epoch : Nat) : Bytes := label Purpose.regn 0 (partForm part) 0 0 region epoch

/-- A thread's partition; none for the manager's. -/
def Dev.partOf (d : Dev) (thread : Nat) : Option Nat := if thread < d.nparts then some thread else none

/-- The output of the next generate request, with its additional input. -/
def Dev.drawn (d : Dev) (l : Bytes) : Key := Config.drbg d.larder.drbg.draws l

/-- A generate request has been served. -/
def Dev.drew (d : Dev) : Dev :=
  (d.onLarder fun l => { l with drbg := { l.drbg with draws := l.drbg.draws + 1, sinceReseed := l.drbg.sinceReseed + 1 } }).addGlobal
    323 1

/-! ## The public-key engine's queue (R105) -/

/-- The queue of 16 behind the running operation is full. -/
def Dev.pkeFull (d : Dev) : Bool := decide (17 ≤ d.larder.pke.length)

/-- A request for the engine: running, in the queue of 16, or waiting outside it. -/
def Dev.pkeAdd (d : Dev) (thread : Nat) (row : Option Nat) : Dev :=
  d.onLarder fun l =>
    let r : PkeReq := { thread := thread, row := row, since := d.time }
    if l.pke.length < 17 then { l with pke := l.pke ++ [r] } else { l with pkeWait := l.pkeWait ++ [r] }

/-- An operation of another function than a step, made for a thread (R103, R105; notes/assumptions/46.md): what it gives is there with the
command that asks for it, and it takes its place in the engine's queue. -/
def Dev.pkeUse (d : Dev) (thread : Nat) : Dev := d.pkeAdd thread none

/-- A step's request is the running one. -/
def Dev.pkeRuns (d : Dev) (thread row : Nat) : Bool :=
  match d.larder.pke with
  | r :: _ => r.thread = thread && r.row = some row
  | [] => false

/-- A step's request is in the engine, its queue, or outside. -/
def Dev.pkeHas (d : Dev) (thread row : Nat) : Bool :=
  (d.larder.pke ++ d.larder.pkeWait).any fun r => r.thread = thread && r.row = some row

/-- Drop the requests made for a thread (R70, R448). -/
def Dev.pkeDrop (d : Dev) (thread : Nat) : Dev :=
  d.onLarder fun l => { l with pke := l.pke.filter fun r => r.thread ≠ thread, pkeWait := l.pkeWait.filter fun r => r.thread ≠ thread }

/-! ## Identity and import pairs (R72, R99) -/

/-- The P-384 scalar of a 448-bit or 256-bit draw (R72). -/
def scalarOf (k : Nat) : Nat := k % (Config.p384Order - 1) + 1

/-- A device key derived from the UDS (R72, R77). -/
def deviceKey (uds : Key) (purpose : Nat) : Key := kdfKey uds (label purpose 0 0x80 0 0x80 0 0)

/-- The identity seed of a UDS (R72). -/
def identitySeed (uds : Key) : Key := deviceKey uds Purpose.idnt

/-- The management key of a credential epoch (R77). -/
def managementKey (sealing : Key) (epoch : Nat) : Key := kdfKey sealing (label Purpose.mgmt 0 0x80 0 0x80 0 epoch)

/-- The identity pair: P-384 scalar and ML-DSA-87 seed, derived under `IDNT` index 1 and 2 from the identity seed, as R72's prose and
R114 say; R77's table names the UDS as their parent (DEDUCED, notes/assumptions/74.md). -/
def identityOf (seed : Key) : Nat × Key :=
  (scalarOf (beNat ((kdf seed (label Purpose.idnt 0 0x80 0 0x80 1 0) 512).take 56)),
   kdfKey seed (label Purpose.idnt 0 0x80 0 0x80 2 0))

/-- The P-384 scalar of a draw made for a party (R98, R99); the ML-KEM pair is named by the draw. -/
def importScalar (part : Option Nat) (draw : Nat) : Nat := scalarOf (Config.drbg draw (drawLabel part 0)).toNat
def importPoint (part : Option Nat) (draw : Nat) : Bytes := Config.p384Public (importScalar part draw)
def importKem (draw : Nat) : Bytes := Config.mlkemPublic draw

/-- The import pair of a thread (R99). -/
def Dev.importPair (d : Dev) (thread : Nat) : Nat :=
  if thread < d.nparts then (d.part thread).importPair else d.larder.managerPair

/-! ## Hybrid encapsulation (R98) -/

/-- The recipient's label (R98). -/
def wrapLabel (node part : Nat) : Bytes := label Purpose.wrap node part 0 0 0 0

/-- The key-encryption key of an encapsulation. -/
def kekOf (zk ze eph ct rlabel : Bytes) : Key := hmacKey (zk ++ ze) (sha384 (eph ++ ct) ++ rlabel)

/-- Recover the key a blob carries for the import pair `pair` of a recipient (R98, R99): none where the point is bad, the
format is wrong or the KW check fails. -/
def decapsulate (part : Option Nat) (pair : Nat) (rlabel blob : Bytes) : Option Key :=
  let eph := slice blob 4 97
  let ct := slice blob 101 1568
  if leAt blob 0 4 ≠ 1 || !zeroAt blob 1709 83 || !Config.p384OnCurve eph then none
  else
    let kek := kekOf (Config.mlkemDecaps pair ct) (Config.p384Ecdh (importScalar part pair) eph) eph ct rlabel
    (kwUnwrap kek (slice blob 1669 40)).map bytesKey

/-- The recipient's keys pass the engine's checks (R105): a point on the curve and not the identity, an encapsulation key that passes
the FIPS 203 input check. -/
def recipientOk (recipP recipK : Bytes) : Bool := Config.p384OnCurve recipP && Config.mlkemKeyOk recipK

/-- The blob that carries a key to a recipient, made with draw n for a party (R98). -/
def encapsulate (part : Option Nat) (n : Nat) (recipP recipK rlabel : Bytes) (key : Key) : Bytes :=
  let e := importScalar part n
  let eph := padTo 97 (Config.p384Public e)
  let (ct, zk) := Config.mlkemEncaps recipK n
  let ct := padTo 1568 ct
  let kek := kekOf zk (Config.p384Ecdh e recipP) eph ct rlabel
  [1, 0, 0, 0] ++ eph ++ ct ++ kwWrap kek (keyBytes key) ++ List.replicate 83 0

/-! ## Quotas (R366) -/

/-- Largest limit of a resource; none for a code not listed. -/
def quotaMax (k : Kind) (res : Nat) : Option Nat :=
  if res < 4 then some 4096
  else if res = 4 then some (Kind.capacity k * 512)
  else if res < 7 then some 100
  else none

/-- Limit of a resource of a partition. -/
def Dev.limit (d : Dev) (n res : Nat) : Nat := tget (d.part n).quotas 0 res

/-- A limit out of range, or a share that brings the sum over all partitions above 100. -/
def Dev.quotaBad (d : Dev) (n res v : Nat) : Bool :=
  match quotaMax d.kind res with
  | none => true
  | some m =>
    let others := ((List.range d.nparts).filter fun i => i ≠ n).foldl (fun a i => a + d.limit i res) 0
    decide (m < v) || (decide (5 ≤ res) && decide (100 < others + v))

/-- Channel slots of a partition in any state but FREE. -/
def Dev.chanUse (d : Dev) (n : Nat) : Nat := (d.chans.filter fun e => e.2.st ≠ .free && e.2.thread = n).length
/-- Region slots of a partition. -/
def Dev.regionUse (d : Dev) (n : Nat) : Nat := (d.regions.filter fun e => e.2.st ≠ .free && e.2.thread = n).length
/-- Square slots of a partition in any state but FREE. -/
def Dev.squareUse (d : Dev) (n : Nat) : Nat := (d.squares.filter fun e => e.2.st ≠ .free && e.2.thread = n).length
/-- Bytes of each live or closing PRIVATE region of a partition. -/
def Dev.memoryUse (d : Dev) (n : Nat) : Nat :=
  ((d.regions.filter fun e => e.2.st ≠ .free && e.2.thread = n && e.2.kind = 0).map fun e => 2 ^ e.2.log2).foldl (· + ·) 0

end Sys2Proof.Machine
end

