-- ==== Sys2Proof/Machine/Steps.lean ====
section
/-! DEFINITION. Rows in flight (R59, R60): finding and changing them, finishing a dispatched step with a status, running
an opcode's engine on a dispatched step, error sources and events. -/

namespace Sys2Proof.Machine

/-! ## Flights -/

/-- The flight of a row. -/
def Thread.flight (t : Thread) (row : Nat) : Option Flight := t.flights.find? fun x => x.row = row

/-- Change the flight of a row. -/
def Thread.onFlight (t : Thread) (row : Nat) (f : Flight → Flight) : Thread :=
  { t with flights := t.flights.map fun x => if x.row = row then f x else x }

def Dev.flight (d : Dev) (thread row : Nat) : Option Flight := (d.th thread).flight row

def Dev.onFlight (d : Dev) (thread row : Nat) (f : Flight → Flight) : Dev := d.onTh thread fun t => t.onFlight row f

/-- The engine has finished a dispatched step with a status; ENGINE_COMPLETION reports it (R60). -/
def Dev.finish (d : Dev) (thread row : Nat) (st : Byte) : Dev :=
  d.onFlight thread row fun x => match x.stage with
    | .dispatched | .running => { x with stage := .finished st }
    | _ => x

/-- The engine keeps working on a dispatched step. -/
def Dev.working (d : Dev) (thread row : Nat) : Dev :=
  d.onFlight thread row fun x => match x.stage with
    | .dispatched => { x with stage := .running }
    | _ => x

/-- The objects a flight's step names without making them: kind and global slot (R50, R56). -/
def Flight.names (x : Flight) : List (HKind × Nat) :=
  match (Step.of x.step).op with
  | none => []
  | some op =>
    (match op.useA with
      | .live k | .frees k => [(k, x.slot)]
      | _ => [])
    ++ (match op.useB, x.bSlot with
      | .live k, some b | .opt k, some b => [(k, b)]
      | _, _ => [])

/-- A flight is to fill a slot of a kind and has not filled it yet (R56). -/
def Flight.fills (x : Flight) (k : HKind) (slot : Nat) : Bool :=
  (Step.of x.step).op.map Opc.useA = some (.new k) && x.slot = slot && (match x.stage with
    | .checked | .dispatched | .running => true
    | .finished st => !statusOk st
    | _ => false)

/-- What a flight's step takes its turn on: `SEAL` and `UNSEAL` on their region (R326), the manager's steps that name one partition
on that partition (R364, R376). -/
def Flight.turn (x : Flight) : Option (HKind × Nat) :=
  match (Step.of x.step).op with
  | some .seal | some .unseal => some (.region, x.slot)
  | some .freeze | some .thaw | some .save | some .restore | some .quota | some .sweep => some (.part, x.slot)
  | _ => none

/-- A step dispatched before this one of the thread takes its turn first: it is not at its engine yet. -/
def Thread.turnBefore (t : Thread) (x : Flight) : Bool :=
  (t.flights.takeWhile fun y => y.row ≠ x.row).any fun y => y.stage = .dispatched && y.turn.isSome && y.turn = x.turn

/-- A step's engine waits: a step before it has still to fill an object that it names (R56), or takes its turn first. -/
def Dev.awaitsObject (d : Dev) (thread : Nat) (x : Flight) : Bool :=
  (x.names.any fun o => (d.th thread).flights.any fun y => y.fills o.1 o.2) || (d.th thread).turnBefore x

/-- Run an opcode's engine on a dispatched step of that opcode; where no such step is dispatched nothing happens. It waits for the
objects it names; where the step that was to make one has failed, it ends with STALE_HANDLE (R56). -/
def Dev.runStep (d : Dev) (thread row : Nat) (op : Opc) (f : Flight → Dev → Dev) : Dev :=
  if d.ready then
    match d.flight thread row with
    | some x =>
      if x.stage = .dispatched && (Step.of x.step).op = some op then
        if x.orphaned then d.finish thread row Status.staleHandle else if d.awaitsObject thread x then d else f x d
      else d
    | none => d
  else d

/-- The opcodes the public-key engine serves as one operation (R103; notes/assumptions/50.md). -/
def Opc.onPke : Opc → Bool
  | .derive | .wrap | .unwrap | .import | .attest | .measure => true
  | _ => false

/-- Run a step of the public-key engine (R105): its request joins the queue, and it runs once the request is the running
one. -/
def Dev.runPke (d : Dev) (thread row : Nat) (op : Opc) (f : Flight → Dev → Dev) : Dev :=
  d.runStep thread row op fun x d =>
    let d := if d.pkeHas thread row then d else d.pkeAdd thread (some row)
    if d.pkeRuns thread row then f x d else d

/-- A dispatched step's generate request waits for the DRBG; where that has failed for good it ends with HANG (R79, R80). -/
def Dev.awaitDrbg (d : Dev) (thread row : Nat) : Dev :=
  if d.larder.drbg.st = .failed then d.finish thread row Status.hang else d.onFlight thread row fun x => { x with drawing := true }

/-- A request of another function waits for the DRBG, none once that has failed for good (R79, R80). -/
def Dev.drawLater (d : Dev) (r : DrawReq) : Dev :=
  if d.larder.drbg.st = .failed then d else { d with drawWait := d.drawWait ++ [r] }

/-! ## Events -/

/-- An event entry (R65). -/
def eventBits (thread row : Nat) (opcode status : Byte) (cookie : BitVec 32) (time : Nat) : BitVec 128 :=
  BitVec.ofNat 128 (cookie.toNat + status.toNat * 2 ^ 32 + opcode.toNat * 2 ^ 40 + row % 256 * 2 ^ 48 + thread % 256 * 2 ^ 56
    + time % 2 ^ 64 * 2 ^ 64)

/-! ## Error and event sources (R427) -/

/-- Error source of a thread. -/
def Dev.errorSource (d : Dev) (thread : Nat) : Nat := if thread = d.mgr then 81 else 48 + thread

/-- Event source of a thread. -/
def Dev.eventSource (d : Dev) (thread : Nat) : Nat := if thread = d.mgr then 80 else 16 + thread

/-- Set a bit of PORCH.NOTICE; each setting asserts the partition's event source (R387). -/
def Dev.notice (d : Dev) (n bit : Nat) : Dev :=
  (d.onPart n fun p => { p with notice := p.notice ||| oneBit 6 bit }).raise (16 + n)

/-- Raise a thread's error source. -/
def Dev.errorOf (d : Dev) (thread : Nat) : Dev := if thread ≤ d.mgr then d.raise (d.errorSource thread) else d

/-- Kinds of failure whose error source is raised at most once per millisecond (R191, R193, R282, R311, R312, R321;
notes/assumptions/27.md: the limit is kept per thread and kind). -/
inductive ErrKind where
  | access | segTag | sealedWrite | drain | channel | send | budget
  deriving DecidableEq, Repr

def ErrKind.code : ErrKind → Nat
  | .access => 0
  | .segTag => 1
  | .sealedWrite => 2
  | .drain => 3
  | .channel => 4
  | .send => 5
  | .budget => 6

/-- Raise a thread's error source unless the same kind of failure raised it within the last millisecond. -/
def Dev.errorOnce (d : Dev) (thread : Nat) (k : ErrKind) : Dev :=
  if thread ≤ d.mgr then
    let last := tget (d.th thread).errorAt 0 (ErrKind.code k)
    if last ≠ 0 && decide (d.time + 1 < last + 1000000) then d
    else (d.onTh thread fun t => { t with errorAt := tset t.errorAt 0 (ErrKind.code k) (d.time + 1) }).errorOf thread
  else d

/-- Post an event to a thread's FIFO, which has space (R65 to R67, R69, R229): the entry, the cookie register, the job slot
it frees, counter 14 and the event source. -/
def Dev.postEvent (d : Dev) (thread : Nat) (p : Post) : Dev :=
  let t := d.th thread
  let c := p.cookie.getD t.cookie
  let d := d.setTh thread { t with
    fifo := t.fifo ++ [eventBits thread p.row p.opcode p.status c d.time],
    cookie := if p.moves && cookieAfter c t.cookie then c else t.cookie,
    jobs := if p.job then t.jobs - 1 else t.jobs }
  (d.addCount thread 14 1).raise (d.eventSource thread)

/-! ## Transfer buffers (R43) -/

/-- n bytes of the transfer buffers from byte `at_` on; buffer k starts at 256 k. -/
def Thread.xferBytes (t : Thread) (at_ n : Nat) : Bytes := (List.range n).map fun i => tget t.xfer 0 (at_ + i)

/-- Write bytes into the transfer buffers. -/
def Thread.putXfer (t : Thread) (at_ : Nat) (b : Bytes) : Thread :=
  match b with
  | [] => t
  | x :: r => Thread.putXfer { t with xfer := tset t.xfer 0 at_ x } (at_ + 1) r

/-! ## Host path requests (R348, R493) -/

/-- Host pages of 4 KiB that [addr, addr + n) touches. -/
def hostPages (addr n : Nat) : List Nat :=
  (List.range ((addr + n + 4095) / 4096 - addr / 4096)).map fun i => addr / 4096 + i

/-- A page has a translation that a new use may take (R348). -/
def HostPath.usable (h : HostPath) (page : Nat) : Bool := h.lookup.contains page && !h.invalidating.contains page

/-- Issue the requests whose pages are all translated; ask once for a translation of every other page (R348). -/
def Dev.hostIssue (d : Dev) : Dev :=
  d.host.reqs.foldl (fun d r =>
    if r.issued then d else
    let missing := (hostPages r.addr r.length).filter fun p => !d.host.usable p
    if missing.isEmpty then
      (d.onHost fun h => { h with reqs := h.reqs.map fun x => if x.tag = r.tag then { x with issued := true } else x }).emit
        (.host (if r.write then 4 else 5) r.inst r.tag r.addr (if r.write then r.data else natLe 4 r.length))
    else
      missing.foldl (fun d p =>
        if d.host.xlat.contains p || d.host.lookup.contains p then d
        else (d.onHost fun h => { h with xlat := h.xlat ++ [p] }).emit (.host 7 r.inst 0 (p * 4096) [])) d) d

/-- Start a host write or read for an interface instance (R493). -/
def Dev.hostStart (d : Dev) (write : Bool) (inst addr length : Nat) (data : Bytes) (use : HostUse) : Dev :=
  (d.onHost fun h =>
    { h with nextTag := h.nextTag + 1,
             reqs := h.reqs ++ [{ tag := h.nextTag, write := write, inst := inst, addr := addr, length := length, data := data,
                                  issued := false, use := use }] }).hostIssue

/-- The instance of a thread's host accesses: 1 + n for partition n, 0 for the manager (R130, R493). -/
def Dev.hostInst (d : Dev) (thread : Nat) : Nat := if thread < d.nparts then thread + 1 else 0

end Sys2Proof.Machine
end

