-- ==== Sys2Proof/Machine/Lines.lean ====
section
/-! DEFINITION. Addresses, the stack's layout, counter lines, and the ciphers and tags of lines, nodes and segments
(R268, R269, R272 to R277, R305, R306). Line numbers are stack offsets div 128. -/

namespace Sys2Proof.Machine

/-! ## Addresses (R268, R269). A line address is a protected address div 128. -/

/-- Chunk of a line. -/
def chunkOf (a : Nat) : Nat := a / 4096
/-- Engine of a line. -/
def Dev.engineOf (d : Dev) (a : Nat) : Nat := chunkOf a % Kind.engines d.kind
/-- Local line on its engine. -/
def Dev.localLine (d : Dev) (a : Nat) : Nat := chunkOf a / Kind.engines d.kind * 4096 + a % 4096
/-- Local page on its engine. -/
def Dev.localPage (d : Dev) (a : Nat) : Nat := d.localLine a / 64

/-- Line address of the first line of a local page. -/
def Dev.pageLine (d : Dev) (m q : Nat) : Nat := (q / 64 * Kind.engines d.kind + m) * 4096 + q % 64 * 64

/-- Stack lines of the areas (R269). -/
def tagLineOf (l : Nat) : Nat := 0x1640000000 / 128 + l / 16
def leafLine (q : Nat) : Nat := 0x17A4000000 / 128 + q
def l1Line (k : Nat) : Nat := 0x17FD000000 / 128 + k

/-- Local chunks with storage on one engine. -/
def localChunks : Nat := 182272

/-- A stack line of an engine as one number. -/
def gkey (m line : Nat) : Nat := m * 2 ^ 30 + line

/-! ## Counter lines (R274, R275) -/

def lf (l : Line) (lo w : Nat) : Nat := fld l.toNat lo w
def setL (l : Line) (lo w v : Nat) : Line := BitVec.ofNat 1024 (setFld l.toNat lo w v)

def cMajor (l : Line) : Nat := lf l 0 64
def cMinor (l : Line) (k : Nat) : Nat := lf l (64 + 8 * k) 8
def cTag (l : Line) : Nat := lf l 576 64
def cFlags (l : Line) : Nat := lf l 640 32
def cFresh (l : Line) (k : Nat) : Bool := bitOf l.toNat (672 + k)
def cFreshMap (l : Line) : Nat := lf l 672 64
def cSeg (l : Line) (s : Nat) : Nat := lf l (768 + 64 * s) 64
def cPoison (l : Line) (k : Nat) : Bool := bitOf l.toNat (768 + k)

def setMajor (l : Line) (v : Nat) : Line := setL l 0 64 v
def setMinor (l : Line) (k v : Nat) : Line := setL l (64 + 8 * k) 8 v
def setTag (l : Line) (v : Nat) : Line := setL l 576 64 v
def setFlags (l : Line) (v : Nat) : Line := setL l 640 32 v
def setFresh (l : Line) (k : Nat) (b : Bool) : Line := setL l (672 + k) 1 (b2n b)
def setFreshMap (l : Line) (v : Nat) : Line := setL l 672 64 v
def setSeg (l : Line) (s v : Nat) : Line := setL l (768 + 64 * s) 64 v
def setPoison (l : Line) (k : Nat) (b : Bool) : Line := setL l (768 + k) 1 (b2n b)

/-- Flags of a leaf (R275). -/
def fSealed (l : Line) (s : Nat) : Bool := bitOf (cFlags l) s
def fPoisoned (l : Line) : Bool := bitOf (cFlags l) 4
def fPagedOut (l : Line) : Bool := bitOf (cFlags l) 5
def fConverting (l : Line) : Bool := bitOf (cFlags l) 8
def fExport (l : Line) : Bool := bitOf (cFlags l) 9
def fEpoch (l : Line) : Nat := fld (cFlags l) 16 16
def setFlag (l : Line) (i : Nat) (b : Bool) : Line := setFlags l (setFld (cFlags l) i 1 (b2n b))
def setEpoch (l : Line) (e : Nat) : Line := setFlags l (setFld (cFlags l) 16 16 e)

/-- A fresh counter line (R277): the given major, all minors 0, every child fresh, no flags. -/
def freshNode (major : Nat) : Line := BitVec.ofNat 1024 (major % 2 ^ 64 + (2 ^ 64 - 1) * 2 ^ 672)

/-- Every line of the page is fresh. -/
def allFresh (l : Line) : Bool := cFreshMap l = 2 ^ 64 - 1

/-- Every line of segment s is fresh. -/
def segFresh (l : Line) (s : Nat) : Bool := fld (cFreshMap l) (16 * s) 16 = 0xFFFF

/-! ## Data lines (R272, R273) -/

/-- The AES input block B (R272). -/
def blockB (major minor b line : Nat) : Bytes :=
  natLe 16 (line % 2 ^ 34 + b % 16 * 2 ^ 52 + minor % 256 * 2 ^ 56 + major % 2 ^ 64 * 2 ^ 64)

/-- A key ready for lines: its round keys and its hash key (R273). -/
structure LineKey where
  rks : List (List Nat)
  h : Nat

def aesB (rks : List (List Nat)) (b : Bytes) : Bytes := toBytes (aesWith rks (toNats b))

def LineKey.of (k : Key) : LineKey :=
  let rks := expand k
  { rks := rks, h := beNat (aesB rks (blockB 0 0 15 0)) }

/-- The 128 keystream bytes of a line. -/
def lineStream (k : LineKey) (major minor line : Nat) : Bytes :=
  (List.range 8).flatMap fun b => aesB k.rks (blockB major minor b line)

/-- Encrypt or decrypt a line. -/
def lineCrypt (k : LineKey) (major minor line : Nat) (x : Line) : Line :=
  bytesLine (xorB (lineBytes x) (lineStream k major minor line))

/-- u of a stored line (R306): its GHASH before masking, first 8 bytes. -/
def lineU (k : LineKey) (major minor line : Nat) (c : Line) : Nat :=
  leAt (natBe 16 (ghash k.h (chunks 16 8 (lineBytes c) ++ [blockB major minor 0 line]) 0)) 0 8

/-- The tag pad, first 8 bytes. -/
def linePad (k : LineKey) (major minor line : Nat) : Nat := leAt (aesB k.rks (blockB major minor 8 line)) 0 8

/-- The line tag (R273). -/
def lineTag (k : LineKey) (major minor line : Nat) (c : Line) : Nat :=
  lineU k major minor line c ^^^ linePad k major minor line

/-! ## Tree tags (R276) and segment tags (R306) -/

/-- The input block T (R276). -/
def blockT (major minor b level index : Nat) : Bytes :=
  natLe 16 (index % 2 ^ 36 + level % 4 * 2 ^ 50 + b % 16 * 2 ^ 52 + minor % 256 * 2 ^ 56 + major % 2 ^ 64 * 2 ^ 64)

/-- The node tag of a counter line under its parent's counter. -/
def nodeTag (tree : Key) (l : Line) (pmaj pmin level index : Nat) : Nat :=
  let rks := expand tree
  let h := beNat (aesB rks (blockT 0 0 15 0 0))
  leAt (natBe 16 (ghash h (chunks 16 8 (lineBytes (setTag l 0)) ++ [blockT pmaj pmin 0 level index]) 0)) 0 8
    ^^^ leAt (aesB rks (blockT pmaj pmin 8 level index)) 0 8

/-- A counter line with its node tag. -/
def tagged (tree : Key) (l : Line) (pmaj pmin level index : Nat) : Line :=
  setTag l (nodeTag tree l pmaj pmin level index)

/-- The segment tag of segment s of a page under its leaf (R306), from u of its lines. -/
def segTag (tree : Key) (leaf : Line) (localPage s : Nat) (u : List Nat) : Nat :=
  let rks := expand tree
  let h := beNat (aesB rks (blockT 0 0 15 3 0))
  let s0 := natLe 8 (cMajor leaf) ++ natLe 4 localPage ++ natLe 1 s ++ [0] ++ natLe 2 (fEpoch leaf)
  let s1 := (List.range 16).flatMap fun k => natLe 1 (cMinor leaf (16 * s + k))
  let len := natBe 8 0 ++ natBe 8 1280
  leAt (aesB rks (natBe 16 (ghash h (chunks 16 11 (s0 ++ s1 ++ u.flatMap (natLe 8 ·)) ++ [len]) 0))) 0 8

end Sys2Proof.Machine
end

