-- ==== Sys2Proof/Machine/Tree.lean ====
section
/-! DEFINITION. The counter tree and the Pantry (R276 to R281, R288, R294 to R297, R514). A memory operation is a
transaction on the block: it either takes effect whole, or answers which stack lines or Landing slot it still needs and
leaves the block as it was. Lines fetched for an operation are held with it until a stack write of theirs. -/

namespace Sys2Proof.Machine

/-- What an operation lacks: stack lines (with the lines it locks meanwhile), a Landing slot of an engine for a segment on a
partition's account, the release of the slots of an engine's page (R326), a Pantry way that an access holds (R280), or a level-2 node (level 3) or
root register (level 4) both copies of which fail (R296). -/
inductive Need where
  | lines (l : List Nat) (lock : Option (Nat × Nat))
  | slot (engine seg part : Nat)
  | page (engine page : Nat)
  | room
  | lost (level index : Nat)
  deriving DecidableEq, Repr

/-- A transaction of a memory engine. -/
abbrev Mem (α : Type) := StateT Dev (Except Need) α

/-! ## Fetched lines -/

def MemOp.has (op : MemOp) (k : Nat) : Bool := op.got.any fun e => e.1 = k

/-- Forget a line fetched or awaited. -/
def MemOp.forget (op : MemOp) (k : Nat) : MemOp :=
  { op with got := tdel op.got k, wants := op.wants.filter (· ≠ k), bad := op.bad.filter fun b => b / 4 ≠ k }

/-- A stack line has been written: copies fetched before it and reads on their way no longer count. -/
def Dev.purge (d : Dev) (m line : Nat) : Dev :=
  let k := gkey m line
  let d := if (d.eng m).reads.any (fun r => r.line = line) || (d.eng m).readQueue.contains line then
      d.onEng m fun e => { e with reads := e.reads.filter fun r => r.line ≠ line, readQueue := e.readQueue.filter (· ≠ line) }
    else d
  d.engines.foldl (fun d e =>
    if e.2.ops.any fun op => op.has k || op.wants.contains k then
      d.onEng e.1 fun x => { x with ops := x.ops.map fun op => op.forget k }
    else d) d

/-- Issue a stack write (R491). -/
def Dev.stackWrite (d : Dev) (m line : Nat) (v : Line) : Dev :=
  (d.emit (.stackWrite m line v (BitVec.ofNat 128 (leAt (lineCheck v) 0 16)))).purge m line

def stackWrite (m line : Nat) (v : Line) : Mem Unit := modify fun d => d.stackWrite m line v

def onE (m : Nat) (f : Engine → Engine) : Mem Unit := modify fun d => d.onEng m f

/-- Demand stack lines of an engine: all that are missing at once. -/
def needLines (op : MemOp) (m : Nat) (lines : List Nat) (lock : Option (Nat × Nat)) : Mem Unit :=
  let missing := (lines.map (gkey m)).filter fun k => !op.has k
  if missing.isEmpty then pure () else throw (.lines missing lock)

/-- A raw stack line fetched for the operation, and the mask of granules the code gave up. -/
def rawLine (op : MemOp) (m line : Nat) : Mem (Line × BitVec 4) := do
  needLines op m [line] none
  let k := gkey m line
  let bad := (List.range 4).foldl (fun s g => if op.bad.contains (4 * k + g) then s + 2 ^ g else s) 0
  pure (tget op.got 0 k, BitVec.ofNat 4 bad)

/-! ## Counts -/

/-- Lane blocks used on an engine for a partition (R411, R415; notes/assumptions/28.md). -/
def Dev.laneBlocks (d : Dev) (m thread n : Nat) : Dev :=
  let d := (d.addCount thread 7 n).addGlobal (152 + m) n
  if thread < d.nparts then d.addGlobal (288 + thread) n else d

/-- Capture an error in MEM.ERR_ADDR and MEM.ERR_INFO while valid is clear (R301); source 84 + m. -/
def Dev.captureErr (d : Dev) (m line region thread : Nat) (status : Byte) (level kind : Nat) : Dev :=
  if bitOf (d.eng m).errInfo.toNat 63 then d
  else
    (d.onEng m fun e =>
      { e with errAddr := BitVec.ofNat 37 (line * 128),
               errInfo := BitVec.ofNat 64 (2 ^ 63 + region % 4096 * 2 ^ 40 + status.toNat * 2 ^ 32 + thread % 256 * 2 ^ 24
                 + level % 16 * 2 ^ 20 + kind % 16 * 2 ^ 16) }).raise (84 + m)

/-- The region with a key of its own whose chunk a line lies in, free ones apart. -/
def Dev.coverAt (d : Dev) (a : Nat) : Option Nat :=
  (d.regions.find? fun e => e.2.st ≠ .free && e.2.kind ≠ 2 && decide (e.2.base ≤ a * 128) && decide (a * 128 < e.2.base + 2 ^ e.2.log2)).map (·.1)

/-- The major of a fresh counter line that covers local page q of engine m: in a square-readable region the floor (R249, R277). -/
def Dev.freshMajor (d : Dev) (m q : Nat) : Nat :=
  if (d.coverAt (d.pageLine m q)).any fun r => (d.reg r).square.isSome then d.hall.sqFloor else 0

/-- Threads of the regions that cover a line, free ones apart. -/
def Dev.mappers (d : Dev) (a : Nat) : List Nat :=
  (d.regions.filter fun e => e.2.st ≠ .free && decide (e.2.base ≤ a * 128) && decide (a * 128 < e.2.base + 2 ^ e.2.log2)).map
    fun e => e.2.thread

/-- Record a poisoned page (level 1) or level-1 node (level 2) and raise the error source of every thread that maps it
(R295). -/
def Dev.poisonRecord (d : Dev) (m a region level index : Nat) : Dev :=
  let d := d.record 0x0D 0 Status.treePoison.toNat none (if (d.reg region).thread < d.nparts then some (d.reg region).thread else none)
    (islandEng m) (index % 2 ^ 24 + level * 2 ^ 24) (region % 4096)
  forEach (d.mappers a) (fun t d => d.errorOf t) d

/-! ## The Pantry (R279, R280) -/

def Engine.entry (e : Engine) (line : Nat) : Option PEntry := e.pantry.find? fun x => x.line = line

/-- Ways of a class (R281). -/
def Engine.ways (e : Engine) : PClass → Nat
  | .level1 => e.l1Ways.toNat
  | .leaf => e.leafWays.toNat
  | .tagLine => e.tagWays.toNat

/-- Replace or add an entry, most recently used. -/
def Engine.put (e : Engine) (x : PEntry) : Engine :=
  { e with clock := e.clock + 1,
           pantry := (e.pantry.filter fun y => y.line ≠ x.line) ++ [{ x with used := e.clock + 1 }] }

/-- An entry is written: it is clean. -/
def Engine.clean (e : Engine) (line : Nat) : Engine :=
  { e with pantry := e.pantry.map fun z => if z.line = line then { z with dirty := false } else z }

def Engine.dropEntry (e : Engine) (line : Nat) : Engine := { e with pantry := e.pantry.filter fun y => y.line ≠ line }

/-- The least recently used of some entries. -/
def lru (l : List PEntry) : Option PEntry :=
  l.foldl (fun b x => match b with
    | none => some x
    | some y => if x.used < y.used then some x else some y) none

/-- The area of R269 a stack line lies in: data, tag lines, counter lines, level-1 nodes. -/
def stackArea (line : Nat) : Nat :=
  if line < tagLineOf 0 then 0 else if line < leafLine 0 then 1 else if line < l1Line 0 then 2 else 3

/-- The set of a Pantry that a stack line maps to (R279): 1,024 consecutive lines of one area lie in distinct sets, so that a line's
place modulo 1,024 decides, by the hash where it is one to one. -/
def pantrySet (m line : Nat) : Nat :=
  let f := fun i => (Config.pantryHash m (stackArea line) i).toNat
  if ((List.range 1024).map f).Nodup then f (line % 1024) else line % 1024

/-- Entries of the set of a line. -/
def Engine.setOf (e : Engine) (m line : Nat) : List PEntry := e.pantry.filter fun x => pantrySet m x.line = pantrySet m line

/-- The n least recently used of some entries, the oldest first. -/
def lruOf (n : Nat) (l : List PEntry) : List PEntry :=
  match n with
  | 0 => []
  | k + 1 => match lru l with
    | none => []
    | some x => x :: lruOf k (l.filter fun y => y.line ≠ x.line)

/-- An operation has begun and has not ended: it holds the entries it used. One that itself waits for a way holds none. -/
def MemOp.underWay (op : MemOp) : Bool :=
  !op.forRoom && (!op.wants.isEmpty || !op.got.isEmpty || op.waiting || op.forPage.isSome || op.parkedOp)

/-- Stack lines of the Pantry that an access holds (R280): its leaf, its level-1 node, the tag lines of its page. -/
def Dev.holding (d : Dev) (op : MemOp) : List Nat :=
  let q := d.localPage op.addr
  leafLine q :: l1Line (q / 64) :: (List.range 4).map fun s => tagLineOf (64 * q + 16 * s)

/-- An access other than the one numbered `id` holds a Pantry entry. -/
def Dev.heldEntry (d : Dev) (m id line : Nat) : Bool :=
  (d.eng m).ops.any fun op => op.id ≠ id && op.underWay && (d.holding op).contains line

/-- The entries that must go before a new one of a class enters its set for operation `id`: none while the class has a way free
(R279). A class that has lost ways gives up its excess then (notes/assumptions/47.md). No answer while accesses hold too many (R280). -/
def Dev.victims (d : Dev) (m id line : Nat) (c : PClass) : Option (List PEntry) :=
  let e := d.eng m
  let s := (e.setOf m line).filter fun x => x.cls = c && x.line ≠ line
  let n := s.length + 1 - max 1 (e.ways c)
  let free := s.filter fun x => !d.heldEntry m id x.line
  if free.length < n then none else some (lruOf n free)

/-- The victims of a new entry, or the wait for a way. -/
def victims (op : MemOp) (m line : Nat) (c : PClass) : Mem (List PEntry) := do
  match (← get).victims m op.id line c with
  | none => throw .room
  | some l => pure l

/-- One cache way less (R279): leaves give it up first, then tag lines, then level-1 nodes, each down to its least
(notes/assumptions/63.md). -/
def Engine.loseWay (e : Engine) : Engine :=
  let e := { e with workingWays := e.workingWays - 1 }
  if decide (4 < e.leafWays) then { e with leafWays := e.leafWays - 1 }
  else if decide (4 < e.tagWays) then { e with tagWays := e.tagWays - 1 }
  else if decide (2 < e.l1Ways) then { e with l1Ways := e.l1Ways - 1 }
  else if decide (0 < e.leafWays) then { e with leafWays := e.leafWays - 1 }
  else if decide (0 < e.tagWays) then { e with tagWays := e.tagWays - 1 }
  else { e with l1Ways := e.l1Ways - 1 }

/-- One more for a class. -/
def PClass.bump (c : PClass) (x : Nat × Nat × Nat) : Nat × Nat × Nat :=
  match c with
  | .level1 => (x.1 + 1, x.2)
  | .leaf => (x.1, x.2.1 + 1, x.2.2)
  | .tagLine => (x.1, x.2.1, x.2.2 + 1)

/-- Ways whose leaving waits for their entries to be written back (R298). -/
def Engine.leavingWays (e : Engine) : Nat := (e.ops.filter fun op => match op.act with
  | .wayOut _ => true
  | _ => false).length

/-- A hit: the entry becomes the most recently used, and its class saved a miss (R279, R281). -/
def hit (m : Nat) (x : PEntry) : Mem PEntry := do
  onE m fun e => { e.put x with hits := sat 64 (e.hits + 1), stats := { e.stats with saved := x.cls.bump e.stats.saved } }
  pure x

/-- A miss of a class that a read or a write took (R281). -/
def missed (m : Nat) (c : PClass) (op : MemOp) : Mem Unit := onE m fun e =>
  let read := c = .leaf && (match op.act with
    | .read _ => true
    | _ => false)
  { e with stats := { e.stats with missed := c.bump e.stats.missed, leafMisses := e.stats.leafMisses + b2n read } }

/-- A write has waited for a dirty eviction (R281, R299). -/
def waited (m : Nat) : Mem Unit := onE m fun e =>
  { e with writeWaits := sat 16 (e.writeWaits + 1), stats := { e.stats with writeWaits := e.stats.writeWaits + 1 } }

/-! ## Level-2 nodes and root registers (R276, R280, R288, R296) -/

def Engine.l2Node (e : Engine) (j : Nat) : Line := tget e.l2 (freshNode 0) j
def Engine.root (e : Engine) (r : Nat) : Line := tget e.roots (freshNode 0) r

/-- A level-2 node or root register is used (R296): one copy that fails is served from the other and rewritten, and counted; none
where both fail. -/
def Engine.useCopy (e : Engine) (level2 : Bool) (i : Nat) : Option Engine :=
  match e.faults.filter fun f => f.level2 = level2 && f.index = i with
  | [] => some e
  | f :: rest =>
    if rest.any fun g => g.shadow ≠ f.shadow then none
    else some { e with faults := e.faults.filter (fun g => g.level2 ≠ level2 || g.index ≠ i), shadowUses := sat 32 (e.shadowUses + 1) }

/-- Both copies of a node (level 3) or root register (level 4) have failed: block-critical error 0x08 (R296, R444). -/
def Dev.bothLost (d : Dev) (m region level index : Nat) : Dev :=
  (d.captureErr m 0 region (d.reg region).thread Status.treePoison level 3).critical 0x08 (islandEng m) (index % 2 ^ 24 + level * 2 ^ 24)

/-- Change a level-2 node: its root register's minor for it advances, or the root's major when the minor is spent, and it
is retagged at once (R280, R288). A root major that cannot advance is block-critical error 0x09. -/
def Dev.setL2 (d : Dev) (m j region : Nat) (v : Line) : Dev :=
  let r := j / 64
  let c := j % 64
  match (d.eng m).useCopy true j with
  | none => d.bothLost m region 3 j
  | some e =>
    match e.useCopy false r with
    | none => d.bothLost m region 4 r
    | some e =>
      let d := (d.setEng m e).laneBlocks m (d.reg region).thread 1
      let root := e.root r
      if cMinor root c < 255 then
        let root' := setFresh (setMinor root c (cMinor root c + 1)) c false
        d.onEng m fun e =>
          { e with roots := tset e.roots (freshNode 0) r root',
                   l2 := tset e.l2 (freshNode 0) j (tagged e.treeKey v (cMajor root) (cMinor root c + 1) 2 j) }
      else if cMajor root = 2 ^ 64 - 1 then d.critical 0x09 (islandEng m) (r + 4 * 2 ^ 24)
      else
        let maj := cMajor root + 1
        let root' := setMinor (setMajor (setFreshMap (freshNode 0) (cFreshMap root)) maj) c 1
        let others := (e.l2.filter fun x => x.1 / 64 = r && x.1 ≠ j).length
        (d.laneBlocks m (d.reg region).thread (2 * others)).onEng m fun e =>
          let l2 := (tset e.l2 (freshNode 0) j v).map fun x =>
            if x.1 / 64 = r then (x.1, tagged e.treeKey x.2 maj (if x.1 = j then 1 else 0) 2 x.1) else x
          { e with majorAdvances := sat 16 (e.majorAdvances + 1), roots := tset e.roots (freshNode 0) r root', l2 := l2 }

/-- A level-2 node as it is used: from whichever copy passes (R296). -/
def nodeL2 (m j : Nat) : Mem Line := do
  match ((← get).eng m).useCopy true j with
  | none => throw (.lost 3 j)
  | some e => do
    modify fun d => d.setEng m e
    pure (e.l2Node j)

/-! ## Level-1 nodes -/

/-- An uncorrectable granule or a node tag that failed, as counted (R294, R299). -/
def Engine.nodeFail (e : Engine) (code : Bool) : Engine :=
  if code then { e with uncorrectable := sat 16 (e.uncorrectable + 1) } else { e with nodeFails := sat 16 (e.nodeFails + 1) }

/-- A level-1 node has failed: its bit in the level-2 node's poison map is set and nothing of its chunk stays cached
(R295). -/
def Dev.poisonL1 (d : Dev) (m k region : Nat) (code : Bool) : Dev :=
  let d := d.setL2 m (k / 64) region (setPoison ((d.eng m).l2Node (k / 64)) (k % 64) true)
  let d := d.onEng m fun e =>
    { e.nodeFail code with
      nodesPoisoned := sat 16 (e.nodesPoisoned + 1),
      pantry := e.pantry.filter fun x => !(x.cls = .leaf && decide (64 * k ≤ x.line - leafLine 0) && decide (x.line - leafLine 0 < 64 * k + 64)) && x.line ≠ l1Line k }
  let d := d.captureErr m (l1Line k) region (d.reg region).thread Status.treePoison 2 (if code then 1 else 2)
  d.poisonRecord m (d.pageLine m (64 * k)) region 2 k

/-- Protected lines of the chunks of local chunks [k, k + n) of any engine, and those between: what an engine locks (R288). -/
def Dev.chunkLock (d : Dev) (m k n : Nat) : Nat × Nat :=
  if n = 1 then (d.pageLine m (64 * k), 4096) else (k * Kind.engines d.kind * 4096, n * Kind.engines d.kind * 4096)

/-- Retag a stored level-1 node i under its parent's new major (R288), from the Pantry or, verified, from the stack. -/
def retagL1 (op : MemOp) (m i maj : Nat) (l2 : Line) : Mem Unit := do
  let e := (← get).eng m
  match e.entry (l1Line i) with
  | some y =>
    if y.bad ≠ 0 then modify fun d => d.poisonL1 m i op.region true
    else do
      stackWrite m (l1Line i) (tagged e.treeKey y.value maj 0 1 i)
      onE m fun e => e.clean y.line
      modify fun d => d.laneBlocks m op.part 1
  | none =>
    let (v, bad) ← rawLine op m (l1Line i)
    modify fun d => d.laneBlocks m op.part 2
    if bad ≠ 0 || cTag v ≠ nodeTag e.treeKey v (cMajor l2) (cMinor l2 (i % 64)) 1 i then
      modify fun d => d.poisonL1 m i op.region (bad ≠ 0)
    else stackWrite m (l1Line i) (tagged e.treeKey v maj 0 1 i)

/-- Write a level-1 node back: its level-2 parent's minor for it advances and it is retagged (R280). Where the minor is
spent the parent's major advances and every other stored child is retagged, all of them locked meanwhile (R288). -/
def writeBackL1 (op : MemOp) (m : Nat) (x : PEntry) : Mem Unit := do
  let k := x.line - l1Line 0
  if x.bad ≠ 0 then modify fun d => d.poisonL1 m k op.region true
  else
    let l2 ← nodeL2 m (k / 64)
    let d ← get
    let e := d.eng m
    let c := k % 64
    modify fun d => d.laneBlocks m op.part 1
    if cMinor l2 c < 255 then
      let l2' := setFresh (setMinor l2 c (cMinor l2 c + 1)) c false
      modify fun d => d.setL2 m (k / 64) op.region l2'
      stackWrite m x.line (tagged e.treeKey x.value (cMajor l2) (cMinor l2 c + 1) 1 k)
    else
      let kids := ((List.range 64).filter fun i => i ≠ c && !cFresh l2 i && !cPoison l2 i).map fun i => 64 * (k / 64) + i
      needLines op m ((kids.filter fun i => (e.entry (l1Line i)).isNone).map l1Line) (some (d.chunkLock m (64 * (k / 64)) 64))
      let maj := cMajor l2 + 1
      let base := setFresh (setMinor (setMajor (setFreshMap (freshNode 0) (cFreshMap l2)) maj) c 1) c false
      modify fun d => d.setL2 m (k / 64) op.region ((List.range 64).foldl (fun l i => setPoison l i (cPoison l2 i)) base)
      onE m fun e => { e with majorAdvances := sat 16 (e.majorAdvances + 1) }
      kids.forM fun i => retagL1 op m i maj l2
      stackWrite m x.line (tagged e.treeKey x.value maj 1 1 k)

/-- Keep a level-1 node in the Pantry; pinned ways give way only to level-1 nodes (R281). A dirty one over the ceiling of
its set is written at once. -/
def putL1 (op : MemOp) (m : Nat) (x : PEntry) : Mem Unit := do
  (← victims op m x.line .level1).forM fun v => do
    if v.dirty then writeBackL1 op m v
    onE m fun e => e.dropEntry v.line
  let e := (← get).eng m
  if x.dirty && decide (e.dirtyMax.toNat ≤ ((e.setOf m x.line).filter fun y => y.dirty && y.line ≠ x.line).length) then
    writeBackL1 op m x
    onE m fun e => e.put { x with dirty := false }
    waited m
  else onE m fun e => e.put x

/-- A level-1 node as verified: none where it is poisoned (R276, R277, R295), with whether this use of it poisoned it. -/
def loadL1 (op : MemOp) (m k : Nat) : Mem (Option Line × Bool) := do
  let e := (← get).eng m
  match e.entry (l1Line k) with
  | some x =>
    if x.bad ≠ 0 then do
      modify fun d => d.poisonL1 m k op.region true
      pure (none, true)
    else do
      let x ← hit m x
      pure (some x.value, false)
  | none =>
    let l2 ← nodeL2 m (k / 64)
    if cPoison l2 (k % 64) then pure (none, false)
    else if cFresh l2 (k % 64) then pure (some (freshNode ((← get).freshMajor m (64 * k))), false)
    else do
      let (v, bad) ← rawLine op m (l1Line k)
      onE m fun e => { e with l1Misses := sat 16 (e.l1Misses + 1) }
      missed m .level1 op
      modify fun d => d.laneBlocks m op.part 1
      if bad ≠ 0 || cTag v ≠ nodeTag e.treeKey v (cMajor l2) (cMinor l2 (k % 64)) 1 k then
        modify fun d => d.poisonL1 m k op.region (bad ≠ 0)
        pure (none, true)
      else do
        putL1 op m { line := l1Line k, cls := .level1, value := v }
        pure (some v, false)

def fetchL1 (op : MemOp) (m k : Nat) : Mem (Option Line) := do pure (← loadL1 op m k).1

/-! ## Leaves -/

/-- A leaf in the form a poisoned page has (R295): poisoned set, its other fields as fresh. -/
def poisonedLeaf (major : Nat) : Line := setFlag (freshNode major) 4 true

/-- A leaf has failed (R295): counted, captured, and recorded with its page. -/
def Dev.leafFail (d : Dev) (m q region : Nat) (code : Bool) : Dev :=
  (d.onEng m fun e => e.nodeFail code).captureErr m (leafLine q) region (d.reg region).thread Status.treePoison 1 (if code then 1 else 2)

/-- A page has become poisoned (R295): counted and recorded. -/
def Dev.pagePoisoned (d : Dev) (m q region : Nat) : Dev :=
  (d.onEng m fun e => { e with pagesPoisoned := sat 32 (e.pagesPoisoned + 1) }).poisonRecord m (d.pageLine m q) region 1 q

/-- Retag a stored leaf i under its parent's new major (R288), from the Pantry or, verified, from the stack; one that fails is
poisoned (R295). -/
def retagLeaf (op : MemOp) (m i maj : Nat) (l1 : Line) : Mem Unit := do
  let d ← get
  let e := d.eng m
  let lost (code : Bool) : Mem Unit := do
    stackWrite m (leafLine i) (tagged e.treeKey (poisonedLeaf (d.freshMajor m i)) maj 0 0 i)
    onE m fun e => e.dropEntry (leafLine i)
    modify fun d => (d.leafFail m i op.region code).pagePoisoned m i op.region
  match e.entry (leafLine i) with
  | some y =>
    modify fun d => d.laneBlocks m op.part 1
    if y.bad ≠ 0 then lost true
    else do
      stackWrite m y.line (tagged e.treeKey y.value maj 0 0 i)
      onE m fun e => e.clean y.line
  | none =>
    let (v, bad) ← rawLine op m (leafLine i)
    modify fun d => d.laneBlocks m op.part 2
    if bad ≠ 0 || cTag v ≠ nodeTag e.treeKey v (cMajor l1) (cMinor l1 (i % 64)) 0 i then lost (bad ≠ 0)
    else stackWrite m (leafLine i) (tagged e.treeKey v maj 0 0 i)

/-- Advance the level-1 parent's counter for leaf q: the major and minor the leaf takes next (R277, R280, R288); none where
the parent is poisoned. Where the minor is spent every other stored leaf under it is retagged, the chunk locked meanwhile. -/
def nextLeafCounter (op : MemOp) (m q : Nat) : Mem (Option (Nat × Nat)) := do
  let k := q / 64
  let c := q % 64
  match ← fetchL1 op m k with
  | none => pure none
  | some l1 =>
    let d ← get
    let e := d.eng m
    if cMinor l1 c < 255 then
      let l1' := setFresh (setMinor l1 c (cMinor l1 c + 1)) c false
      putL1 op m { line := l1Line k, cls := .level1, value := l1', dirty := true }
      pure (some (cMajor l1, cMinor l1 c + 1))
    else
      let kids := ((List.range 64).filter fun i => i ≠ c && !cFresh l1 i).map fun i => 64 * k + i
      needLines op m ((kids.filter fun i => (e.entry (leafLine i)).isNone).map leafLine) (some (d.chunkLock m k 1))
      let maj := cMajor l1 + 1
      let l1' := setFresh (setMinor (setMajor (setFreshMap (freshNode 0) (cFreshMap l1)) maj) c 1) c false
      putL1 op m { line := l1Line k, cls := .level1, value := l1', dirty := true }
      onE m fun e => { e with majorAdvances := sat 16 (e.majorAdvances + 1) }
      kids.forM fun i => retagLeaf op m i maj l1
      pure (some (maj, 1))

/-- The leaf of a page is rewritten with poisoned set under the parent's next minor (R294, R295). -/
def rewritePoisoned (op : MemOp) (m q : Nat) : Mem Bool := do
  match ← nextLeafCounter op m q with
  | none => pure false
  | some (maj, mi) =>
    let d ← get
    stackWrite m (leafLine q) (tagged (d.eng m).treeKey (poisonedLeaf (d.freshMajor m q)) maj mi 0 q)
    modify fun d => (d.laneBlocks m op.part 1).pagePoisoned m q op.region
    pure true

/-- Write a leaf back (R280). A leaf under a poisoned node is dropped; one beyond the code is poisoned (R295). -/
def writeBackLeaf (op : MemOp) (m : Nat) (x : PEntry) : Mem Unit := do
  let q := x.line - leafLine 0
  if x.bad ≠ 0 then do
    modify fun d => d.leafFail m q op.region true
    let _ ← rewritePoisoned op m q
  else
    match ← nextLeafCounter op m q with
    | none => pure ()
    | some (maj, mi) =>
      let e := (← get).eng m
      stackWrite m x.line (tagged e.treeKey x.value maj mi 0 q)
      modify fun d => d.laneBlocks m op.part 1

/-- Write any dirty entry back and mark it clean (R280). -/
def writeBack (op : MemOp) (m : Nat) (x : PEntry) : Mem Unit := do
  match x.cls with
  | .level1 => writeBackL1 op m x
  | .leaf => writeBackLeaf op m x
  | .tagLine => stackWrite m x.line x.value
  onE m fun e => e.clean x.line

/-- An entry leaves the Pantry, written back first when dirty (R279, R280). -/
def evictEntry (op : MemOp) (m : Nat) (v : PEntry) : Mem Unit := do
  if v.dirty then writeBack op m v
  onE m fun e => e.dropEntry v.line

/-- Keep a leaf or tag line in the Pantry (R279 to R281): the least recently used of its class in the set gives way,
written back first when dirty; a dirty entry over the ceiling writes the set's oldest dirty entry back first. -/
def putEntry (op : MemOp) (m : Nat) (x : PEntry) : Mem Unit := do
  (← victims op m x.line x.cls).forM fun v => evictEntry op m v
  let e := (← get).eng m
  let dirties := (e.setOf m x.line).filter fun y => y.dirty && y.line ≠ x.line
  if x.dirty && decide (e.dirtyMax.toNat ≤ dirties.length) then
    match lru dirties with
    | none => pure ()
    | some v => do
      writeBack op m v
      waited m
  onE m fun e => e.put x

/-- A page becomes poisoned (R294, R295). -/
def poisonPage (op : MemOp) (m q : Nat) : Mem Unit := do
  if ← rewritePoisoned op m q then
    putEntry op m { line := leafLine q, cls := .leaf, value := poisonedLeaf ((← get).freshMajor m q) }

/-- The leaf of a fresh page (R277): every page of a region restored in carried form starts as exported and paged out (R381). -/
def Dev.freshLeaf (d : Dev) (m q : Nat) : Line :=
  if (d.coverAt (d.pageLine m q)).any fun r => (d.reg r).importing then setFlag (setFlag (freshNode 0) 5 true) 9 true
  else freshNode (d.freshMajor m q)

/-- A leaf has failed as it was used (R295): its page is poisoned. -/
def failLeaf (op : MemOp) (m q : Nat) (code : Bool) : Mem (Option Line × Bool) := do
  modify fun d => d.leafFail m q op.region code
  poisonPage op m q
  pure (some (poisonedLeaf ((← get).freshMajor m q)), true)

/-- A page's leaf as verified (R276, R277), with whether this use of it poisoned the page: none where its level-1 node is poisoned. A
leaf that fails is poisoned (R295). -/
def loadLeaf (op : MemOp) (m q : Nat) : Mem (Option Line × Bool) := do
  let e := (← get).eng m
  match e.entry (leafLine q) with
  | some x =>
    if x.bad ≠ 0 then failLeaf op m q true
    else do
      let x ← hit m x
      pure (some x.value, false)
  | none =>
    match ← loadL1 op m (q / 64) with
    | (none, now) => pure (none, now)
    | (some l1, _) =>
      if cFresh l1 (q % 64) then pure (some ((← get).freshLeaf m q), false)
      else do
        let (v, bad) ← rawLine op m (leafLine q)
        onE m fun e => { e with leafMisses := sat 32 (e.leafMisses + 1) }
        missed m .leaf op
        modify fun d => (d.laneBlocks m op.part 1).addGlobal (164 + m) 1
        if bad ≠ 0 || cTag v ≠ nodeTag e.treeKey v (cMajor l1) (cMinor l1 (q % 64)) 0 q then failLeaf op m q (bad ≠ 0)
        else do
          putEntry op m { line := leafLine q, cls := .leaf, value := v }
          pure (some v, false)

def fetchLeaf (op : MemOp) (m q : Nat) : Mem (Option Line) := do pure (← loadLeaf op m q).1

/-- Change a leaf: dirty in the Pantry (R285). -/
def setLeaf (op : MemOp) (m q : Nat) (v : Line) : Mem Unit :=
  putEntry op m { line := leafLine q, cls := .leaf, value := v, dirty := true }

/-- Make a leaf fresh in its level-1 node (R333): nothing of it stays cached. -/
def freshenLeaf (op : MemOp) (m q : Nat) : Mem Unit := do
  onE m fun e => e.dropEntry (leafLine q)
  match ← fetchL1 op m (q / 64) with
  | none => pure ()
  | some l1 =>
    if cFresh l1 (q % 64) then pure ()
    else putL1 op m { line := l1Line (q / 64), cls := .level1, value := setFresh l1 (q % 64) true, dirty := true }

/-! ## Tag lines (R285, R308, R514) -/

/-- The tag line of a local line, with the granules the code gave up: from the Pantry, all zero where the whole segment is
fresh, else from the stack. -/
def fetchTags (op : MemOp) (m l : Nat) (leaf : Line) : Mem PEntry := do
  let e := (← get).eng m
  let tl := tagLineOf l
  match e.entry tl with
  | some x => hit m x
  | none =>
    if segFresh leaf (l % 64 / 16) then pure { line := tl, cls := .tagLine, value := 0 }
    else do
      let (v, bad) ← rawLine op m tl
      missed m .tagLine op
      let x : PEntry := { line := tl, cls := .tagLine, value := v, bad := bad }
      putEntry op m x
      pure x

/-- Put a line's new tag into its tag line, vouched (R308). A lost granule is rewritten with zero tags beside it (R514). -/
def PEntry.withTag (x : PEntry) (i tag : Nat) : PEntry :=
  let v := if x.bad.getLsbD (i / 4) then setL x.value (256 * (i / 4)) 256 0 else x.value
  { x with value := setL v (64 * i) 64 tag, bad := x.bad &&& ~~~((1 : BitVec 4) <<< (i / 4)),
           vouched := x.vouched ||| ((1 : BitVec 16) <<< i), dirty := true }

end Sys2Proof.Machine
end

