-- ==== Sys2Proof/Machine/Memory.lean ====
section
/-! DEFINITION. Reading, writing, merging, sealing and unsealing lines (R282 to R289, R305 to R313, R320, R321): the
transactions of a memory engine on single lines and segments, and whole pages under one key. -/

namespace Sys2Proof.Machine

/-- How an operation ended: its status, the plaintext line of a read, and a number (the version of a line, R249; the
segment a run stopped at; 1 for a write a sealed segment refused). -/
structure MemRes where
  status : Byte
  line : Line := 0
  version : Nat := 0
  deriving DecidableEq, Repr

/-- One attempt of an operation: ended, or to be taken up again in its new form. -/
inductive OpEnd where
  | done (r : MemRes)
  | again (op : MemOp)
  deriving DecidableEq, Repr

/-! ## Keys and budgets of regions -/

/-- The region whose key a region uses: a BASE_MAP's BASE (R291). -/
def Dev.keyReg (d : Dev) (r : Nat) : Nat :=
  let x := d.reg r
  if x.kind = 2 then
    match d.regions.find? fun e => e.2.kind = 1 && e.2.st ≠ .free && e.2.base = x.base && e.2.log2 = x.log2 with
    | some e => e.1
    | none => r
  else r

/-- The epoch under which a region encrypts now, low 16 bits (R331, R345). -/
def Region.nowEpoch (r : Region) : Nat := (if r.newSlot.isSome then r.epoch + 1 else r.epoch) % 65536

/-- The key of a page by its leaf's epoch, and whether it is the new one of a re-key (R332). -/
def Region.pageKey (r : Region) (leaf : Line) : Key × Bool :=
  if r.newSlot.isSome && fEpoch leaf = (r.epoch + 1) % 65536 then (r.loadedNew, true) else (r.loaded, false)

/-- Count n lines encrypted under a region's key, the old one of a re-key apart (R289). -/
def Dev.addWrites (d : Dev) (r : Nat) (new : Bool) (n : Nat) : Dev :=
  d.onReg r fun x => if x.newSlot.isSome && !new then { x with oldWrites := x.oldWrites + n } else { x with writes := x.writes + n }

/-- The write budget of a region key (R289). -/
def writeBudget : Nat := 2 ^ 44

/-- The key epochs of a region whose budget is spent (R289, R337): of the current key, of the old one of a re-key. -/
def Region.spentEpochs (r : Region) : List Nat :=
  if r.newSlot.isSome then
    (if writeBudget ≤ r.oldWrites then [r.epoch] else []) ++ (if writeBudget ≤ r.writes then [r.epoch + 1] else [])
  else if writeBudget ≤ r.writes then [r.epoch] else []

/-- The key a write needs was spent at the write's admission (R289). -/
def MemOp.exhausted (op : MemOp) (r : Region) (new : Bool) : Bool := op.spent.contains (if new then r.epoch + 1 else r.epoch)

/-! ## Failures of lines and segments (R294, R311) -/

/-- A data line that fails is counted and captured, and its owner's error source raised (R294). -/
def Dev.lineFail (d : Dev) (op : MemOp) (m line : Nat) (code : Bool) (n : Nat) : Dev :=
  let t := (d.reg op.region).thread
  let d := d.onEng m fun e =>
    if code then { e with uncorrectable := sat 16 (e.uncorrectable + n) } else { e with tagFails := sat 32 (e.tagFails + 1) }
  let d := if code then d else d.addCount t 9 1
  (d.captureErr m line op.region t Status.memTagFail 0 (if code then 1 else 2)).errorOf t

/-- Capture a segment failure in MEM.SEG_ERR while valid is clear (R328). -/
def Dev.captureSeg (d : Dev) (m region q s : Nat) (code : Bool) : Dev :=
  if bitOf (d.eng m).segErr.toNat 63 then d
  else
    (d.onEng m fun e =>
      { e with segErr := BitVec.ofNat 64 (2 ^ 63 + region % 4096 * 2 ^ 40 + (d.reg region).thread % 256 * 2 ^ 32
                 + b2n code * 2 ^ 26 + s % 4 * 2 ^ 24 + q % 2 ^ 24) }).raise (84 + m)

/-- A sealed read fails its segment (R311). -/
def Dev.segFail (d : Dev) (op : MemOp) (m q s : Nat) (code : Bool) : Dev :=
  let t := (d.reg op.region).thread
  let d := (d.onEng m fun e => { e with segFails := sat 32 (e.segFails + 1) }).addCount t 9 1
  (d.captureSeg m op.region q s code).errorOnce t .segTag

/-- Granules set in a mask. -/
def popcount (w n : Nat) : Nat := ((List.range w).filter fun i => bitOf n i).length

/-! ## Verified reads -/

/-- Line index in region of line j of local page q (R268). -/
def Dev.lineIdx (d : Dev) (region m q j : Nat) : Nat := d.pageLine m q + j - (d.reg region).base / 128

/-- Read and verify one unsealed stored line j of page q; the plaintext, or the status of the failure (R284, R294, R514). -/
def verifyLine (op : MemOp) (m q j : Nat) (leaf : Line) (key : LineKey) : Mem (Except Byte Line) := do
  let l := 64 * q + j
  let e := (← get).eng m
  let tl := tagLineOf l
  let wantTag := (e.entry tl).isNone && !segFresh leaf (j / 16)
  needLines op m (if wantTag then [l, tl] else [l]) none
  let (c, bad) ← rawLine op m l
  let x ← fetchTags op m l leaf
  let d ← get
  let idx := d.lineIdx op.region m q j
  if bad ≠ 0 || x.bad.getLsbD (l % 16 / 4) then
    modify fun d => d.lineFail op m l true (if bad ≠ 0 then popcount 4 bad.toNat else 1)
    pure (.error Status.memTagFail)
  else if lf x.value (64 * (l % 16)) 64 ≠ lineTag key (cMajor leaf) (cMinor leaf j) idx c then
    modify fun d => d.lineFail op m l false 0
    pure (.error Status.memTagFail)
  else do
    onE m fun e => { e with pantry := e.pantry.map fun y =>
      if y.line = tl then { y with vouched := y.vouched ||| ((1 : BitVec 16) <<< (l % 16)) } else y }
    pure (.ok (lineCrypt key (cMajor leaf) (cMinor leaf j) idx c))

/-- Stored lines of a segment: those not fresh. -/
def segStored (leaf : Line) (s : Nat) : List Nat := ((List.range 16).map (16 * s + ·)).filter fun j => !cFresh leaf j

/-- Read and verify a sealed segment s of page q (R306, R311): its stored lines as ciphertext by line of the page; an error
tells how many granules the code gave up, zero where the segment tag differs. -/
def verifySeg (op : MemOp) (m q s : Nat) (leaf : Line) (key : LineKey) : Mem (Except Nat (List (Nat × Line))) := do
  let js := segStored leaf s
  needLines op m (js.map fun j => 64 * q + j) none
  let raws ← js.mapM fun j => do
    let (c, bad) ← rawLine op m (64 * q + j)
    pure (j, c, bad)
  let d ← get
  let bads := raws.foldl (fun n x => n + popcount 4 x.2.2.toNat) 0
  if bads ≠ 0 then pure (.error bads)
  else
    let u := (List.range 16).map fun k =>
      match raws.find? fun x => x.1 = 16 * s + k with
      | some x => lineU key (cMajor leaf) (cMinor leaf x.1) (d.lineIdx op.region m q x.1) x.2.1
      | none => 0
    if segTag (d.eng m).treeKey leaf q s u ≠ cSeg leaf s then pure (.error 0)
    else pure (.ok (raws.map fun x => (x.1, x.2.1)))

/-- Granules the code gave up are counted (R294, R311). -/
def granulesLost (m n : Nat) : Mem Unit := onE m fun e => { e with uncorrectable := sat 16 (e.uncorrectable + n) }

/-- The slot of an engine's Landing that an operation uses for a segment. -/
def Engine.slotFor (e : Engine) (id seg : Nat) : Option SegSlot := e.slots.find? fun s => s.seg = seg && s.users.contains id

/-- A sealed segment is read through its Landing slot (R311, R313, R314); one all of whose lines are fresh takes no stack read and no
slot (R316). -/
def needSlot (op : MemOp) (m q s : Nat) (leaf : Line) : Mem Unit := do
  let seg := (← get).pageLine m q / 16 + s
  if !segFresh leaf s && (((← get).eng m).slotFor op.id seg).isNone then throw (.slot m seg op.part)

/-- The segment hash of a slot is folded once for all the reads that joined it (R317): the lane blocks it takes and the granules the
code gave up count once (R311). -/
def foldSlot (op : MemOp) (m q s blocks : Nat) (r : Except Nat (List (Nat × Line))) : Mem Unit := do
  let seg := (← get).pageLine m q / 16 + s
  let lost := match r with
    | .error n => n
    | .ok _ => 0
  let count : Mem Unit := do
    modify fun d => d.laneBlocks m op.part blocks
    granulesLost m lost
  match ((← get).eng m).slotFor op.id seg with
  | none => count
  | some x =>
    if x.folded then pure ()
    else do
      count
      onE m fun e => { e with slots := e.slots.map fun y => if y.seg = seg && y.users.contains op.id then { y with folded := true } else y }

/-- Read and verify every stored line of a page but `skip`, segment by segment; plaintext lines by line of the page. All
that is missing is fetched at once, and the page is locked meanwhile (R287); the operations of whole pages lock theirs anyway. -/
def readPage (op : MemOp) (m q : Nat) (leaf : Line) (key : LineKey) (skip : Option Nat) :
    Mem (Except Byte (List (Nat × Line))) := do
  let e := (← get).eng m
  let stored := ((List.range 64).filter fun j => !cFresh leaf j).filter fun j => fSealed leaf (j / 16) || some j ≠ skip
  let tags := ((List.range 4).filter fun s => !fSealed leaf s && stored.any (fun j => j / 16 = s) &&
      (e.entry (tagLineOf (64 * q + 16 * s))).isNone).map fun s => tagLineOf (64 * q + 16 * s)
  needLines op m (stored.map (64 * q + ·) ++ tags) (if skip.isSome then some (op.addr / 64 * 64, 64) else none)
  (List.range 4).foldlM (fun acc s => do
    match acc with
    | .error st => pure (.error st)
    | .ok done =>
      if fSealed leaf s then
        match ← verifySeg op m q s leaf key with
        | .error n => do
          granulesLost m n
          modify fun d => d.segFail op m q s (n ≠ 0)
          pure (.error Status.segTagFail)
        | .ok cs => do
          let d ← get
          pure (.ok (done ++ cs.map fun x =>
            (x.1, lineCrypt key (cMajor leaf) (cMinor leaf x.1) (d.lineIdx op.region m q x.1) x.2)))
      else
        (stored.filter fun j => j / 16 = s).foldlM (fun acc j => do
          match acc with
          | .error st => pure (.error st)
          | .ok done =>
            match ← verifyLine op m q j leaf key with
            | .error st => pure (.error st)
            | .ok p => pure (.ok (done ++ [(j, p)]))) (.ok done)) (.ok [])

/-! ## Writing a whole page -/

/-- Encrypt and write the given lines of a page under a leaf whose major, minors, fresh bits, sealed bits and epoch are
already those to come; tag lines and segment tags are computed anew, and the leaf as finished is kept (R287, R313, R333). -/
def writePage (op : MemOp) (m q : Nat) (leaf : Line) (key : LineKey) (lines : List (Nat × Line)) : Mem Unit := do
  let d ← get
  let cs := lines.map fun x => (x.1, lineCrypt key (cMajor leaf) (cMinor leaf x.1) (d.lineIdx op.region m q x.1) x.2)
  let us := cs.map fun x => (x.1, lineU key (cMajor leaf) (cMinor leaf x.1) (d.lineIdx op.region m q x.1) x.2)
  cs.forM fun x => stackWrite m (64 * q + x.1) x.2
  let leaf ← (List.range 4).foldlM (fun (leaf : Line) s => do
    let u := (List.range 16).map fun k => match us.find? fun x => x.1 = 16 * s + k with
      | some x => x.2
      | none => 0
    if fSealed leaf s then pure (setSeg leaf s (segTag (d.eng m).treeKey leaf q s u))
    else if segFresh leaf s then pure (setSeg leaf s 0)
    else do
      let v := (List.range 16).foldl (fun v k =>
        match us.find? fun x => x.1 = 16 * s + k with
        | some x => setL v (64 * k) 64 (x.2 ^^^ linePad key (cMajor leaf) (cMinor leaf x.1) (d.lineIdx op.region m q x.1))
        | none => v) (0 : Line)
      putEntry op m { line := tagLineOf (64 * q + 16 * s), cls := .tagLine, value := v, dirty := true, vouched := 0xFFFF }
      pure (setSeg leaf s 0)) leaf
  setLeaf op m q leaf

/-- Raise the major floor above a square-readable page's new major (R249). -/
def Dev.raiseFloor (d : Dev) (region major : Nat) : Dev :=
  if (d.reg region).square.isSome then d.onHall fun h => { h with sqFloor := max h.sqFloor (major + 1) } else d

/-! ## Reads (R284, R293, R311) -/

/-- Where an operation's line lies: engine, local page, line of the page. -/
def Dev.place (d : Dev) (a : Nat) : Nat × Nat × Nat := (d.engineOf a, d.localPage a, a % 64)

/-- Read one line: a CIPHER read takes the line as stored, where the code can give it (R293, R294); a sealed one needs its whole segment
in a Landing slot, any other its tag; a fresh line is zero. Lane blocks: 8 a sealed line, 9 another (R317). -/
def tryRead (op : MemOp) (cipher : Bool) : Mem MemRes := do
  let (m, q, j) := (← get).place op.addr
  match ← fetchLeaf op m q with
  | none => pure { status := Status.treePoison }
  | some leaf =>
    let d ← get
    let v := cMajor leaf * 256 + cMinor leaf j
    let square := match op.origin with
      | .square _ => true
      | _ => false
    if fPoisoned leaf then pure { status := Status.treePoison }
    else if fPagedOut leaf then pure { status := Status.pagedOut }
    else if square && decide (2 ^ 56 - 1 ≤ cMajor leaf) then pure { status := Status.budgetExhausted }
    else if cipher then
      if cFresh leaf j then pure { status := Status.done, version := v }
      else do
        let (c, bad) ← rawLine op m (64 * q + j)
        if bad ≠ 0 then do
          modify fun d => d.lineFail op m (64 * q + j) true (popcount 4 bad.toNat)
          pure { status := Status.memTagFail }
        else pure { status := Status.done, line := c, version := v }
    else
      let key := LineKey.of ((d.reg (d.keyReg op.region)).pageKey leaf).1
      if fSealed leaf (j / 16) then
        needSlot op m q (j / 16) leaf
        let seg ← verifySeg op m q (j / 16) leaf key
        foldSlot op m q (j / 16) 1 seg
        match seg with
        | .error n => do
          modify fun d => d.segFail op m q (j / 16) (n ≠ 0)
          pure { status := Status.segTagFail }
        | .ok cs =>
          match cs.find? fun x => x.1 = j with
          | some x => do
            modify fun d => d.laneBlocks m op.part 8
            pure { status := Status.done, version := v,
                   line := lineCrypt key (cMajor leaf) (cMinor leaf j) (d.lineIdx op.region m q j) x.2 }
          | none => pure { status := Status.done, version := v }
      else if cFresh leaf j then pure { status := Status.done, version := v }
      else
        let got ← verifyLine op m q j leaf key
        modify fun d => d.laneBlocks m op.part 9
        match got with
        | .error st => pure { status := st }
        | .ok p => pure { status := Status.done, line := p, version := v }

/-! ## Writes (R285, R287, R289, R312, R320) -/

/-- Each bit of a byte mask over its whole byte. -/
def byteMask (mask : BitVec 128) : Line :=
  BitVec.ofNat 1024 ((List.range 128).foldl (fun n i => if mask.getLsbD i then n + 0xFF * 2 ^ (8 * i) else n) 0)

/-- Bytes of `new` where the mask selects, else of `old`. -/
def maskMerge (old new : Line) (mask : BitVec 128) : Line :=
  let k := byteMask mask
  (old &&& ~~~k) ||| (new &&& k)

/-- The words of a merge entry applied to a line (R320). -/
def applyWords (old : Line) (ws : List (WordMode × BitVec 32)) : Line :=
  BitVec.ofNat 1024 (((List.range 32).map fun i =>
    let o := lf old (32 * i) 32
    (match ws.getD i (.none, 0) with
      | (.none, _) => o
      | (.store, v) => v.toNat
      | (.add, v) => (o + v.toNat) % 2 ^ 32) * 2 ^ (32 * i)).foldl (· + ·) 0)

/-- Magnitude of a two's-complement word. -/
def magnitude (w : Nat) : Nat := if w < 2 ^ 31 then w else 2 ^ 32 - w

/-- Compare each add result with the receiving partition's guard band (R231). -/
def Dev.guardAdds (d : Dev) (part : Nat) (ws : List (WordMode × BitVec 32)) (guarded : BitVec 32) (new : Line) : Dev :=
  let past := ((List.range 32).filter fun i => guarded.getLsbD i && (ws.getD i (.none, 0)).1 = .add &&
    decide ((d.part part).sumGuard < magnitude (lf new (32 * i) 32))).length
  if past = 0 then d
  else d.onPart part fun p => { p with sumRange := sat 32 (p.sumRange + past), addRange := true }

/-- Bytes a write selects. -/
def MemAct.bytes : MemAct → Nat
  | .write _ mask => popcount 128 mask.toNat
  | .merge ws _ => 4 * (ws.filter fun w => w.1 ≠ .none).length
  | _ => 128

/-- A write needs no read of the line (R285, R320). -/
def MemAct.whole : MemAct → Bool
  | .write _ mask => mask = BitVec.allOnes 128
  | .merge ws _ => decide (32 ≤ ws.length) && ws.all fun w => w.1 = .store
  | _ => true

/-- The line a write leaves, from the one before. -/
def MemAct.newLine (a : MemAct) (old : Line) : Line :=
  match a with
  | .write b mask => maskMerge old b mask
  | .merge ws _ => applyWords old ws
  | _ => old

/-- Write one line: a sealed segment refuses it; the first write of a page takes the current key; the key's budget is judged
as at admission; a partial write reads and verifies first, and its failure poisons the page; the line's minor advances, or
the whole page is encrypted again under the next major. -/
def tryWrite (op : MemOp) (act : MemAct) : Mem MemRes := do
  let (m, q, j) := (← get).place op.addr
  match ← fetchLeaf op m q with
  | none => pure { status := Status.treePoison }
  | some leaf =>
    let d ← get
    let kr := d.keyReg op.region
    let r := d.reg kr
    let owner := (d.reg op.region).thread
    if fPoisoned leaf then pure { status := Status.treePoison }
    else if fPagedOut leaf then pure { status := Status.pagedOut }
    else if fSealed leaf (j / 16) then do
      modify fun d => (d.onEng m fun e => { e with sealRefused := sat 16 (e.sealRefused + 1) }).errorOnce owner .sealedWrite
      pure { status := Status.memTagFail, version := 1 }
    else
      let leaf0 := if allFresh leaf then setEpoch leaf r.nowEpoch else leaf
      let (k, new) := r.pageKey leaf0
      if op.exhausted r new then do
        modify fun d => d.captureErr m (64 * q + j) op.region owner Status.budgetExhausted 0 4
        pure { status := Status.budgetExhausted }
      else
        let key := LineKey.of k
        let old ← if act.whole || cFresh leaf j then pure (.ok 0) else do
          let got ← verifyLine op m q j leaf key
          modify fun d => d.laneBlocks m op.part 9
          pure got
        match old with
        | .error st => do
          poisonPage op m q
          pure { status := st }
        | .ok o =>
          let p := act.newLine o
          let account : Mem Unit := modify fun d =>
            let d := match act with
              | .merge ws g => d.guardAdds op.part ws g p
              | _ => d
            (d.addCount op.part 3 act.bytes).addGlobal (140 + m) act.bytes
          if cMinor leaf0 j < 255 then do
            let mi := cMinor leaf0 j + 1
            let idx := d.lineIdx op.region m q j
            let c := lineCrypt key (cMajor leaf0) mi idx p
            let x ← fetchTags op m (64 * q + j) leaf
            stackWrite m (64 * q + j) c
            putEntry op m (x.withTag (j % 16) (lineTag key (cMajor leaf0) mi idx c))
            setLeaf op m q (setFresh (setMinor leaf0 j mi) j false)
            modify fun d => (d.addWrites kr new 1).laneBlocks m op.part 9
            account
            pure { status := Status.done }
          else
            if (d.eng m).slots.any fun x => x.seg / 4 = op.addr / 64 then throw (.page m (op.addr / 64))
            match ← readPage op m q leaf key (some j) with
            | .error _ => do
              poisonPage op m q
              pure { status := Status.memTagFail }
            | .ok ls => do
              let stored := (List.range 64).filter fun i => !cFresh leaf i || i = j
              let leaf1 := setFlag (setFresh ((List.range 64).foldl (fun l i => setMinor l i (if stored.contains i then 1 else 0))
                (setMajor leaf0 (cMajor leaf0 + 1))) j false) 8 false
              writePage op m q leaf1 key (ls.filter (fun x => x.1 ≠ j) ++ [(j, p)])
              onE m fun e => { e with reencryptions := sat 32 (e.reencryptions + 1) }
              modify fun d => ((d.addWrites kr new stored.length).laneBlocks m op.part 1152).raiseFloor op.region (cMajor leaf0 + 1)
              account
              pure { status := Status.done }

/-! ## Sealing runs (R307 to R310) -/

/-- The next segment from `n` on (protected address div 2048) that lies on engine m. -/
def Dev.segOn (d : Dev) (m n : Nat) : Nat :=
  let e := Kind.engines d.kind
  let c := n / 256
  if c % e = m then n else (c + (m + e - c % e) % e) * 256

/-- Seal the segment an engine has come to; a run ends past its last segment or at a failure, whose segment it names. A segment takes
17 lane blocks, its tags vouched or not (R308). -/
def trySeal (op : MemOp) (m n stop : Nat) : Mem OpEnd := do
  if stop ≤ n then pure (.done { status := Status.done })
  else
    let next := (← get).segOn m (n + 1)
    let again : OpEnd := .again { op with act := .segs next stop false, addr := 16 * next, got := [], bad := [], wants := [], locks := [] }
    let d ← get
    let q := d.localPage (16 * n)
    let s := n % 4
    match ← fetchLeaf op m q with
    | none => pure (.done { status := Status.memTagFail, version := n })
    | some leaf =>
      if fPoisoned leaf then pure (.done { status := Status.memTagFail, version := n })
      else if fPagedOut leaf then pure (.done { status := Status.badField, version := n })
      else if fSealed leaf s then pure again
      else
        let d ← get
        let key := LineKey.of ((d.reg (d.keyReg op.region)).pageKey leaf).1
        let e := d.eng m
        let tl := tagLineOf (64 * q + 16 * s)
        let vouched (j : Nat) : Bool := match e.entry tl with
          | some x => x.vouched.getLsbD (j % 16)
          | none => false
        let js := segStored leaf s
        let todo := js.filter fun j => !vouched j
        needLines op m (todo.map (64 * q + ·) ++ (if (e.entry tl).isNone && !todo.isEmpty then [tl] else [])) none
        let checked ← todo.foldlM (fun acc j => do
          match acc with
          | .error st => pure (.error st)
          | .ok () =>
            match ← verifyLine op m q j leaf key with
            | .error st => pure (.error st)
            | .ok _ => pure (.ok ())) (.ok () : Except Byte Unit)
        modify fun d => d.laneBlocks m op.part 17
        match checked with
        | .error _ => pure (.done { status := Status.memTagFail, version := n })
        | .ok () => do
          let d ← get
          let x ← fetchTags op m (64 * q + 16 * s) leaf
          let u := (List.range 16).map fun k =>
            let j := 16 * s + k
            if cFresh leaf j then 0
            else lf x.value (64 * k) 64 ^^^ linePad key (cMajor leaf) (cMinor leaf j) (d.lineIdx op.region m q j)
          let leaf1 := setFlag (setSeg leaf s (segTag (d.eng m).treeKey leaf q s u)) s true
          onE m fun e => { e.dropEntry tl with sealed := sat 24 (e.sealed + 1) }
          setLeaf op m q leaf1
          pure again

/-- Unseal the segment an engine has come to (R310): 17 lane blocks, as sealing it takes (notes/assumptions/28.md). -/
def tryUnseal (op : MemOp) (m n stop : Nat) : Mem OpEnd := do
  if stop ≤ n then pure (.done { status := Status.done })
  else
    let next := (← get).segOn m (n + 1)
    let again : OpEnd :=
      .again { op with act := .segs next stop true, addr := 16 * next, got := [], bad := [], wants := [], locks := [] }
    let d ← get
    let q := d.localPage (16 * n)
    let s := n % 4
    let failed : Mem OpEnd := do
      onE m fun e => { e with unsealFails := sat 16 (e.unsealFails + 1) }
      pure (.done { status := Status.segTagFail, version := n })
    match ← fetchLeaf op m q with
    | none => failed
    | some leaf =>
      if fPoisoned leaf then failed
      else if fPagedOut leaf then pure (.done { status := Status.badField, version := n })
      else if !fSealed leaf s then pure again
      else
        let d ← get
        let key := LineKey.of ((d.reg (d.keyReg op.region)).pageKey leaf).1
        needSlot op m q s leaf
        let seg ← verifySeg op m q s leaf key
        foldSlot op m q s 17 seg
        match seg with
        | .error n => do
          modify fun d => d.captureSeg m op.region q s (n ≠ 0)
          failed
        | .ok cs => do
          let v := cs.foldl (fun v x => setL v (64 * (x.1 % 16)) 64
            (lineTag key (cMajor leaf) (cMinor leaf x.1) (d.lineIdx op.region m q x.1) x.2)) (0 : Line)
          putEntry op m { line := tagLineOf (64 * q + 16 * s), cls := .tagLine, value := v, dirty := true, vouched := 0xFFFF }
          setLeaf op m q (setFlag (setSeg leaf s 0) s false)
          onE m fun e => { e with unsealed := sat 24 (e.unsealed + 1) }
          pure again

end Sys2Proof.Machine
end

