-- ==== Sys2Proof/Machine/Paging.lean ====
section
/-! DEFINITION. Whole pages: conversion under a new key, export records and export form, paging out and in (R333, R338 to
R346, R381, R382). -/

namespace Sys2Proof.Machine

/-! ## Page records (R341, R342) -/

/-- Bytes 0 to 47 of a record. -/
def recordHead (kind sealed part flags : Nat) (version place freshMap : Nat) : Bytes :=
  [0x4B, 0x50, 0x47, 0x52] ++ natLe 1 kind ++ natLe 1 sealed ++ natLe 1 part ++ natLe 1 flags ++ natLe 8 version
    ++ natLe 8 place ++ natLe 8 freshMap ++ List.replicate 16 0

/-- IV of a paging record (R342). -/
def pagingIv (version : Nat) : Bytes := natBe 8 version ++ [0x50, 0x41, 0x47, 0x45]
/-- IV of an export record (R342). -/
def exportIv (q : Nat) : Bytes := natBe 4 q ++ [0, 0, 0, 0, 0x45, 0x58, 0x50, 0x54]

/-- The 8,192 plaintext bytes of a page from its stored lines, fresh ones zero. -/
def pageBytes (lines : List (Nat × Line)) : Bytes :=
  (List.range 64).flatMap fun j => match lines.find? fun x => x.1 = j with
    | some x => lineBytes x.2
    | none => List.replicate 128 0

/-- A whole record: header, tag, ciphertext. -/
def sealRecord (key : Key) (iv head plain : Bytes) : Bytes :=
  let (c, t) := gcmSeal key iv head plain
  head ++ t ++ c

/-- Length of a record, and the spacing of slots (R341). -/
def recordBytes : Nat := 8256

/-- Lines of a plaintext page not marked fresh. -/
def pageLines (plain : Bytes) (freshMap : Nat) : List (Nat × Line) :=
  ((List.range 64).filter fun j => !bitOf freshMap j).map fun j => (j, bytesLine (slice plain (128 * j) 128))

/-- The sealed bits of a leaf. -/
def sealedBits (leaf : Line) : Nat := fld (cFlags leaf) 0 4

/-- Bytes 96 to 127 of a leaf in export form: the GCM tag, then zero (R339). -/
def setExportTag (leaf : Line) (t : Bytes) : Line := setL leaf 768 256 (leAt t 0 16)
def exportTag (leaf : Line) : Bytes := natLe 16 (lf leaf 768 128)

/-- The index of a local page within its region. -/
def Dev.pageIndex (d : Dev) (region m q : Nat) : Nat := (d.pageLine m q - (d.reg region).base / 128) / 64

/-- Head of the export record of a page: the partition of its region, its index, log2 of the size (R341). -/
def Dev.exportHead (d : Dev) (region m q : Nat) (leaf : Line) (poisoned : Bool) : Bytes :=
  let r := d.reg region
  let part := partForm (if r.thread < d.nparts then some r.thread else none)
  recordHead 2 (if poisoned then 0 else sealedBits leaf) part (b2n poisoned) 0 (d.pageIndex region m q % 2 ^ 32 + r.log2 * 2 ^ 32)
    (if poisoned then 0 else cFreshMap leaf)

/-- Read a page kept in export form (R340): its stored lines hold the record's ciphertext, fresh lines' ciphertext is the
keystream itself. -/
def readExportForm (op : MemOp) (m q : Nat) (leaf : Line) (key : Key) : Mem (Option (List (Nat × Line))) := do
  let js := (List.range 64).filter fun j => !cFresh leaf j
  needLines op m (js.map (64 * q + ·)) none
  let raws ← js.mapM fun j => do
    let (c, bad) ← rawLine op m (64 * q + j)
    pure (j, c, bad)
  let d ← get
  let bads := raws.foldl (fun n x => n + popcount 4 x.2.2.toNat) 0
  if bads ≠ 0 then
    modify fun d => d.lineFail op m (64 * q) true bads
    pure none
  else
    let iv := exportIv (d.pageIndex op.region m q)
    let stream := ctrBlocks (expand key) iv 512 2
    let cipher := (List.range 64).flatMap fun j => match raws.find? fun x => x.1 = j with
      | some x => lineBytes x.2.1
      | none => slice stream (128 * j) 128
    match gcmOpen key iv (d.exportHead op.region m q leaf false) cipher (exportTag leaf) with
    | none => do
      modify fun d => d.lineFail op m (64 * q) false 0
      pure none
    | some p => pure (some (pageLines p (cFreshMap leaf)))

/-- Stack bytes a Threshold job reads for a page: its stored lines, its unsealed segments' tag lines and its leaf. -/
def convertBytes (leaf : Line) : Nat :=
  128 * (((List.range 64).filter fun j => !cFresh leaf j).length
    + ((List.range 4).filter fun s => !fSealed leaf s && !segFresh leaf s).length + 1)

/-- A page has been passed by a job (R411 counter 4, R415). -/
def Dev.passed (d : Dev) (m thread bytes : Nat) : Dev := (d.addCount thread 4 bytes).addGlobal (188 + m) 1

/-! ## Conversion (R333, R340, R382) -/

/-- The result of passing a page: TREE_POISON where the job poisoned it. -/
abbrev passedOver : OpEnd := .done { status := Status.done }
abbrev jobPoisoned : OpEnd := .done { status := Status.treePoison }
/-- A poisoned page is passed over; the job has poisoned it where its own fetch did (R335). -/
def poisonPassed (now : Bool) : OpEnd := if now then jobPoisoned else passedOver

/-- The flags of a leaf but converting are clear, as the fresh form has them (R275, R333). -/
def clearFlags (leaf : Line) : Bool := fld (cFlags leaf) 0 8 = 0 && !fExport leaf

/-- Write an import record's page under the region's new key, as a page is encrypted again: the major advances, stored lines
take minor 1 (R382; notes/assumptions/29.md). -/
def importPage (op : MemOp) (m q : Nat) (leaf : Line) (rec_ : Bytes) (job : Nat) : Mem OpEnd := do
  let d ← get
  let r := d.reg op.region
  let head := slice rec_ 0 48
  let idx := d.pageIndex op.region m q
  let freshMap := leAt rec_ 24 8
  let okHead := slice rec_ 0 4 = [0x4B, 0x50, 0x47, 0x52] && leAt rec_ 4 1 = 2 && decide (leAt rec_ 5 1 < 16)
    && decide (leAt rec_ 7 1 < 2) && zeroAt rec_ 8 8 && leAt rec_ 16 8 = idx % 2 ^ 32 + r.log2 * 2 ^ 32 && zeroAt rec_ 32 16
  match if okHead then gcmOpen r.loaded (exportIv idx) head (slice rec_ 64 8192) (slice rec_ 48 16) else none with
  | none => do
    modify fun d => d.onHost fun h => { h with tagFails := sat 16 (h.tagFails + b2n okHead), malformed := sat 16 (h.malformed + b2n (!okHead)) }
    poisonPage op m q
    pure jobPoisoned
  | some p =>
    if bitOf (leAt rec_ 7 1) 0 then do
      poisonPage op m q
      pure jobPoisoned
    else do
      let stored := (List.range 64).filter fun j => !bitOf freshMap j
      let leaf1 := (List.range 64).foldl (fun l j => setMinor l j (if stored.contains j then 1 else 0))
        (setFlags (setFreshMap (setMajor (setL leaf 768 256 0) (cMajor leaf + 1)) freshMap) (leAt rec_ 5 1 + r.nowEpoch * 2 ^ 16))
      writePage op m q leaf1 (LineKey.of r.loadedNew) (pageLines p freshMap)
      modify fun d => (((d.addWrites op.region true stored.length).laneBlocks m r.thread 1152).passed m r.thread 0).onJob job id
      pure passedOver

/-- Convert the page at a re-key's boundary (R333): poisoned and paged-out pages are left; a page all fresh with clear flags
is made fresh in its level-1 node; a page in export form is read under the export key, from the stack or from its record in
host memory; any other is read under the old key and written under the new one with its counters kept. -/
def tryConvert (op : MemOp) (job : Nat) (record : Option Bytes) : Mem OpEnd := do
  let (m, q, _) := (← get).place op.addr
  let (found, now) ← loadLeaf op m q
  match found with
  | none => pure (poisonPassed now)
  | some leaf =>
    let d ← get
    let r := d.reg op.region
    if fPoisoned leaf then pure (poisonPassed now)
    else if fPagedOut leaf then
      if !fExport leaf then pure passedOver
      else match record with
        | none => do
          modify fun d => d.hostStart false (d.hostInst r.thread) ((d.th r.thread).exportBase.toNat + recordBytes * d.pageIndex op.region m q)
            recordBytes [] (.importRecord job m)
          pure (.again { op with parkedOp := true })
        | some rec_ => importPage op m q leaf rec_ job
    else if fExport leaf then
      match ← readExportForm op m q leaf r.exLoaded with
      | none => do
        poisonPage op m q
        pure jobPoisoned
      | some ls => do
        let leaf1 := setEpoch (setFlag (setFlag (setL leaf 768 256 0) 9 false) 8 false) r.nowEpoch
        writePage op m q leaf1 (LineKey.of r.loadedNew) ls
        modify fun d => ((d.addWrites op.region true ls.length).laneBlocks m r.thread 1152).passed m r.thread (convertBytes leaf)
        pure passedOver
    else if allFresh leaf && clearFlags leaf then do
      if r.importing then setLeaf op m q leaf else freshenLeaf op m q
      modify fun d => d.passed m r.thread 0
      pure passedOver
    else if fEpoch leaf = r.nowEpoch then do
      modify fun d => d.passed m r.thread 0
      pure passedOver
    else
      match ← readPage op m q leaf (LineKey.of r.loaded) none with
      | .error _ => do
        poisonPage op m q
        pure jobPoisoned
      | .ok ls => do
        writePage op m q (setEpoch (setFlag leaf 8 false) r.nowEpoch) (LineKey.of r.loadedNew) ls
        modify fun d => ((d.addWrites op.region true ls.length).laneBlocks m r.thread
          (1152 + popcount 4 (sealedBits leaf))).passed m r.thread (convertBytes leaf)
        pure passedOver

/-! ## Export (R338, R339) -/

/-- Export one page: its record goes to the host and its ciphertext takes the page's place. -/
def tryExport (op : MemOp) (job : Nat) : Mem OpEnd := do
  let (m, q, _) := (← get).place op.addr
  let (leaf?, now) ← loadLeaf op m q
  let d ← get
  let r := d.reg op.region
  let idx := d.pageIndex op.region m q
  let out (head plain : Bytes) : Mem Bytes := do
    let rec_ := sealRecord r.loadedNew (exportIv idx) head plain
    modify fun d => d.hostStart true (d.hostInst r.thread) ((d.th r.thread).exportBase.toNat + recordBytes * idx) recordBytes rec_
      (.exportRecord job)
    pure rec_
  let poisonedRecord : Mem Unit := do
    let _ ← out (d.exportHead op.region m q 0 true) (List.replicate 8192 0)
  match leaf? with
  | none => do
    poisonedRecord
    pure (poisonPassed now)
  | some leaf =>
    if fPoisoned leaf then do
      poisonedRecord
      pure (poisonPassed now)
    else if fPagedOut leaf then pure (.done { status := Status.pagedOut })
    else do
      let plain ← if fExport leaf then do
          match ← readExportForm op m q leaf r.exLoaded with
          | none => pure (none : Option (List (Nat × Line)))
          | some ls => pure (some ls)
        else do
          match ← readPage op m q leaf (LineKey.of (r.pageKey leaf).1) none with
          | .error _ => pure none
          | .ok ls => pure (some ls)
      match plain with
      | none => do
        poisonPage op m q
        poisonedRecord
        pure jobPoisoned
      | some ls => do
        let rec_ ← out ((← get).exportHead op.region m q leaf false) (pageBytes ls)
        let leaf1 := setEpoch (setFlag (setFlag (setExportTag leaf (slice rec_ 48 16)) 9 true) 8 false) r.nowEpoch
        ls.forM fun x => stackWrite m (64 * q + x.1) (bytesLine (slice rec_ (64 + 128 * x.1) 128))
        onE m fun e => { e with pantry := e.pantry.filter fun y =>
          !(y.cls = .tagLine && (List.range 4).any fun s => y.line = tagLineOf (64 * q + 16 * s)) }
        setLeaf op m q leaf1
        modify fun d => (((d.onReg op.region fun x => { x with exportedPages := x.exportedPages + 1 }).laneBlocks m r.thread
          1152).passed m r.thread (convertBytes leaf))
        pure passedOver

/-! ## The paging table (R343) -/

/-- The region a thread's PAGE_TABLE names, when it is live (R343). -/
def Dev.tableRegion (d : Dev) (thread : Nat) : Option Nat :=
  if (d.th thread).pageTable = 0 then none
  else match d.liveSlot thread .region (d.th thread).pageTable.toNat with
    | some r => if (d.reg r).st = .live && (d.reg r).kind = 0 then some r else none
    | none => none

/-- An operation at a byte of the table, its fetched lines those of the page operation. -/
def MemOp.onTable (op : MemOp) (d : Dev) (table slot : Nat) : MemOp :=
  { op with region := table, addr := ((d.reg table).base + 8 * slot) / 128, part := (d.reg table).thread }

/-- Read entry `slot` of the table (R343); the status of a failed read. -/
def readEntry (op : MemOp) (table slot : Nat) : Mem (Except Byte Nat) := do
  let r ← tryRead (op.onTable (← get) table slot) false
  pure (if r.status = Status.done then .ok (lf r.line (64 * (slot % 16)) 64) else .error r.status)

/-- Set entry `slot` of the table; PAGE_OUT_COUNT counts its nonzero entries (R343, R358). -/
def writeEntry (op : MemOp) (thread table slot version : Nat) : Mem Byte := do
  match ← readEntry op table slot with
  | .error st => pure st
  | .ok old => do
    let mask : BitVec 128 := (0xFF : BitVec 128) <<< (8 * (slot % 16))
    let r ← tryWrite (op.onTable (← get) table slot) (.write (BitVec.ofNat 1024 (version * 2 ^ (64 * (slot % 16)))) mask)
    if r.status = Status.done then
      modify fun d => d.onTh thread fun t => { t with pageOut := t.pageOut + b2n (version ≠ 0) - b2n (old ≠ 0) }
    pure r.status

/-- The paging key of a thread: reserved slot 40 + n, or the manager's (R342, R343); none where it is gone (R89). -/
def Dev.pagingKey (d : Dev) (thread : Nat) : Option Key :=
  if thread < d.nparts then d.resKey (40 + thread) else some d.larder.managerPaging

/-! ## PAGEOUT (R344) -/

/-- Phase 0 reads the page and sends its record; phase 1 begins when the host path reports it written. -/
def tryPageOut (op : MemOp) (thread slot version phase : Nat) : Mem OpEnd := do
  let (m, q, _) := (← get).place op.addr
  match ← fetchLeaf op m q with
  | none => pure (.done { status := Status.regionFault })
  | some leaf =>
    let d ← get
    let r := d.reg op.region
    if phase = 0 then
      if fPagedOut leaf then pure (.done { status := Status.pagedOut })
      else if fPoisoned leaf then pure (.done { status := Status.regionFault })
      else
        match d.pagingKey thread with
        | none => pure (.done { status := Status.regionFault })
        | some pk =>
          match ← readPage op m q leaf (LineKey.of (r.pageKey leaf).1) none with
          | .error _ => pure (.done { status := Status.regionFault })
          | .ok ls => do
            let v := ((← get).th thread).pageVersion
            let part := partForm (if thread < d.nparts then some thread else none)
            let head := recordHead 1 (sealedBits leaf) part 0 v slot (cFreshMap leaf)
            modify fun d => (d.onTh thread fun t => { t with pageVersion := (t.pageVersion + 1) % 2 ^ 64 }).hostStart true
              (d.hostInst thread) ((d.th thread).pageBase.toNat + recordBytes * slot) recordBytes
              (sealRecord pk (pagingIv v) head (pageBytes ls))
              (match op.origin with
                | .row t w => .pageOut t w slot v
                | _ => .attic)
            pure (.again { op with act := .pageOut slot v 1, parkedOp := true, got := [], bad := [], wants := [] })
    else
      match d.tableRegion thread with
      | none => pure (.done { status := Status.badField })
      | some table =>
        let st ← writeEntry op thread table slot version
        if st ≠ Status.done then pure (.done { status := Status.regionFault })
        else do
          let leaf1 := setFlag (setFlags (setL leaf 768 256 0) (cFlags leaf - sealedBits leaf)) 5 true
          setLeaf op m q leaf1
          modify fun d => d.onHost fun h => { h with pagesOut := sat 32 (h.pagesOut + 1) }
          pure (.done { status := Status.done })

/-! ## PAGEIN (R345, R346) -/

/-- Phase 0 checks the target page and reads the record; phase 1 verifies it and writes the page. -/
def tryPageIn (op : MemOp) (thread slot : Nat) (record : Bytes) (phase : Nat) : Mem OpEnd := do
  let (m, q, _) := (← get).place op.addr
  match ← fetchLeaf op m q with
  | none => pure (.done { status := Status.badField })
  | some leaf =>
    let d ← get
    let r := d.reg op.region
    if fPoisoned leaf || !(fPagedOut leaf || allFresh leaf) then pure (.done { status := Status.badField })
    else if slot = 0xFFFFFFFF then do
      if allFresh leaf && clearFlags leaf then pure ()
      else setLeaf op m q (setFlags (setFreshMap (setL leaf 768 256 0) (2 ^ 64 - 1)) 0)
      pure (.done { status := Status.done })
    else if phase = 0 then do
      modify fun d => d.hostStart false (d.hostInst thread) ((d.th thread).pageBase.toNat + recordBytes * slot) recordBytes []
        (match op.origin with
          | .row t w => .pageIn t w slot
          | _ => .attic)
      pure (.again { op with act := .pageIn slot [] 1, parkedOp := true, got := [], bad := [], wants := [] })
    else
      let part := partForm (if thread < d.nparts then some thread else none)
      let okHead := slice record 0 4 = [0x4B, 0x50, 0x47, 0x52] && leAt record 4 1 = 1 && decide (leAt record 5 1 < 16)
        && leAt record 6 1 = part && leAt record 7 1 = 0 && leAt record 16 8 = slot && zeroAt record 32 16
      if !okHead then do
        modify fun d => d.onHost fun h => { h with malformed := sat 16 (h.malformed + 1) }
        pure (.done { status := Status.tagFail })
      else
        match d.tableRegion thread with
        | none => pure (.done { status := Status.badField })
        | some table =>
          let v := leAt record 8 8
          match ← readEntry op table slot with
          | .error _ => pure (.done { status := Status.regionFault })
          | .ok entry =>
            if entry = 0 || entry ≠ v then do
              modify fun d => d.onHost fun h => { h with replays := sat 16 (h.replays + 1) }
              pure (.done { status := Status.replay })
            else
              match (d.pagingKey thread).bind fun k => gcmOpen k (pagingIv v) (slice record 0 48) (slice record 64 8192) (slice record 48 16) with
              | none => do
                modify fun d => d.onHost fun h => { h with tagFails := sat 16 (h.tagFails + 1) }
                pure (.done { status := Status.tagFail })
              | some p =>
                let new := r.newSlot.isSome
                if op.exhausted r new then do
                  modify fun d => d.captureErr m (64 * q) op.region r.thread Status.budgetExhausted 0 4
                  pure (.done { status := Status.budgetExhausted })
                else do
                  let freshMap := leAt record 24 8
                  let stored := (List.range 64).filter fun j => !bitOf freshMap j
                  let leaf1 := (List.range 64).foldl (fun l j => setMinor l j (if stored.contains j then 1 else 0))
                    (setFlags (setFreshMap (setMajor (setL leaf 768 256 0) (cMajor leaf + 1)) freshMap)
                      (leAt record 5 1 + r.nowEpoch * 2 ^ 16))
                  writePage op m q leaf1 (LineKey.of (if new then r.loadedNew else r.loaded)) (pageLines p freshMap)
                  let st ← writeEntry op thread table slot 0
                  modify fun d => ((d.addWrites op.region new stored.length).laneBlocks m r.thread 1152).onHost fun h =>
                    { h with pagesIn := sat 32 (h.pagesIn + 1) }
                  pure (.done { status := if st = Status.done then Status.done else Status.regionFault })

/-! ## A way leaves the Pantry (R279, R298) -/

/-- Entries of a class beyond its ways in their sets, the least recently used of each set. -/
def Engine.excess (e : Engine) (m : Nat) (c : PClass) : List PEntry :=
  e.pantry.filter fun x => x.cls = c &&
    decide (max 1 (e.ways c) ≤ ((e.setOf m x.line).filter fun y => y.cls = c && decide (x.used < y.used)).length)

/-- A way leaves service once the entries that lose their place have been written back and every access that holds one has ended. -/
def tryWayOut (op : MemOp) (m : Nat) : Mem OpEnd := do
  let d ← get
  let e := (d.eng m).loseWay
  let out := e.excess m .leaf ++ e.excess m .tagLine ++ e.excess m .level1
  if out.any fun x => d.heldEntry m op.id x.line then throw .room
  out.forM fun x => evictEntry op m x
  onE m Engine.loseWay
  pure (.done { status := Status.done })

/-! ## One attempt of any operation -/

/-- Attempt an operation of engine m. -/
def tryOp (m : Nat) (op : MemOp) : Mem OpEnd :=
  match op.act with
  | .read cipher => do pure (.done (← tryRead op cipher))
  | .write b mask => do pure (.done (← tryWrite op (.write b mask)))
  | .merge ws g => do pure (.done (← tryWrite op (.merge ws g)))
  | .segs n stop false => trySeal op m n stop
  | .segs n stop true => tryUnseal op m n stop
  | .convert rec_ => match op.origin with
    | .job i => tryConvert op i rec_
    | _ => pure passedOver
  | .exportPage => match op.origin with
    | .job i => tryExport op i
    | _ => pure passedOver
  | .pageOut slot v phase => match op.origin with
    | .row t _ => tryPageOut op t slot v phase
    | _ => pure passedOver
  | .pageIn slot rec_ phase => match op.origin with
    | .row t _ => tryPageIn op t slot rec_ phase
    | _ => pure passedOver
  | .wayOut _ => tryWayOut op m

/-! ## Order (R283, R287, R288, R308, R326, R334) -/

/-- Two ranges of lines, first and count, meet. -/
def rangesMeet (a b : Nat × Nat) : Bool := decide (a.1 < b.1 + b.2) && decide (b.1 < a.1 + a.2)

/-- The operation of a whole page. -/
def MemAct.onPage : MemAct → Bool
  | .convert _ | .exportPage | .pageOut _ _ _ | .pageIn _ _ _ => true
  | _ => false

/-- Lines an operation covers, first and count (R283, R308, R334). -/
def MemOp.scope (op : MemOp) : Nat × Nat :=
  match op.act with
  | .read _ | .write _ _ | .merge _ _ => (op.addr, 1)
  | .segs _ _ _ => (op.addr / 16 * 16, 16)
  | .wayOut _ => (op.addr, 0)
  | _ => (op.addr / 64 * 64, 64)

/-- The lines an operation locks: its page, or what it locks while it encrypts a page again or retags (R287, R288, R333, R344). -/
def MemOp.locked (op : MemOp) : List (Nat × Nat) := if op.act.onPage then op.scope :: op.locks else op.locks

/-- An earlier operation holds a later one back: their lines meet, but for reads of a page under conversion (R334) and two reads of
one line alike, which one slot may serve (R314). What it locks holds all but those that are already in a Landing slot (R326). -/
def MemOp.holds (x y : MemOp) (inSlot : Bool) : Bool :=
  (rangesMeet x.scope y.scope && (match x.act, y.act with
    | .convert _, .read _ => false
    | .read a, .read b => a != b
    | _, _ => true)) || (!inSlot && x.locks.any fun l => rangesMeet l y.scope)

/-- A sealing run of a region that came later and has come to a segment that an earlier one has still to pass (R326). -/
def MemOp.behind (x y : MemOp) : Bool := decide (x.id < y.id) && x.region = y.region && (match x.act, y.act with
  | .segs n stop _, .segs k _ _ => decide (n ≤ k) && decide (k < stop)
  | _, _ => false)

/-- The operation is in a slot of the engine's Landing. -/
def Engine.inSlot (e : Engine) (op : MemOp) : Bool := e.slots.any fun s => s.users.contains op.id

/-- The operation may be attempted: nothing earlier holds it, it awaits no line, no slot, no way and not the host. -/
def Dev.opReady (d : Dev) (e : Engine) (before : List MemOp) (op : MemOp) : Bool :=
  op.wants.isEmpty && !op.waiting && !op.forRoom && !op.parkedOp
    && !(op.forPage.any fun p => (d.eng p.1).slots.any fun s => s.seg / 4 = p.2)
    && !(before.any fun x => x.holds op (e.inSlot op)) && !(e.ops.any fun x => x.behind op)

/-! ## Landing slots (R314, R315, R326) -/

/-- Landing slots of one partition in an engine (R315). -/
def Engine.slotsOf (e : Engine) (part : Nat) : Nat := (e.slots.filter fun s => s.part = part).length

/-- A partition's cap while some read waits: its memory lane share of 512 slots, rounded up (R315). -/
def Dev.slotCap (d : Dev) (part : Nat) : Nat := (512 * d.limit part 6 + 99) / 100

/-- Whether a partition's read may take a slot: one is free and, while a read waits, the partition is below its cap. -/
def Dev.slotFree (d : Dev) (m part : Nat) : Bool :=
  let e := d.eng m
  decide (e.slots.length < 512) && (e.slotWaits.isEmpty || decide (e.slotsOf part < d.slotCap part))

/-- A slot of the segment that fewer than 64 reads use (R314). -/
def Engine.joinable (e : Engine) (seg : Nat) : Bool := e.slots.any fun s => s.seg = seg && decide (s.users.length < 64)

/-- The operation of a number. -/
def Dev.opById (d : Dev) (id : Nat) : Option MemOp := d.engines.findSome? fun e => e.2.ops.find? fun op => op.id = id

/-- Change the operation of a number. -/
def Dev.onOp (d : Dev) (id : Nat) (f : MemOp → MemOp) : Dev :=
  d.engines.foldl (fun d e => if e.2.ops.any fun op => op.id = id then
      d.onEng e.1 fun x => { x with ops := x.ops.map fun op => if op.id = id then f op else op }
    else d) d

/-- One more user of the first slot of a segment that has room. -/
def joinSlot (id seg : Nat) : List SegSlot → List SegSlot
  | [] => []
  | s :: rest => if s.seg = seg && decide (s.users.length < 64) then { s with users := s.users ++ [id] } :: rest else s :: joinSlot id seg rest

/-- An operation joins a slot of its segment: the lines the slot's reads have fetched or await are its own too (R314). -/
def Dev.join (d : Dev) (m id seg : Nat) : Dev :=
  let other := ((d.eng m).slots.find? fun s => s.seg = seg && decide (s.users.length < 64)).bind fun s => s.users.head?.bind d.opById
  let d := d.onEng m fun e => { e with slots := joinSlot id seg e.slots, slotWaits := e.slotWaits.filter fun w => w.op ≠ id }
  d.onOp id fun op => match other with
    | none => { op with waiting := false }
    | some x =>
      { op with waiting := false, got := x.got.foldl (fun t e => tset t 0 e.1 e.2) op.got, bad := (op.bad ++ x.bad).eraseDups,
                wants := x.wants.filter fun k => !op.has k }

/-- An operation takes a free slot, counted (R314, R415); reads that wait for the same segment join it. -/
def Dev.takeLanding (d : Dev) (m : Nat) (w : SlotWait) : Dev :=
  let d := d.onEng m fun e =>
    let s := e.slots ++ [{ seg := w.seg, part := w.part, users := [w.op] }]
    { e with slots := s, landingHigh := max e.landingHigh s.length, slotWaits := e.slotWaits.filter fun x => x.op ≠ w.op }
  let d := (d.addGlobal (176 + m) 1).onOp w.op fun op => { op with waiting := false }
  ((d.eng m).slotWaits.filter fun x => x.seg = w.seg).foldl (fun d x => if (d.eng m).joinable x.seg then d.join m x.op x.seg else d) d

/-- A wait in its place by arrival (R315). -/
def insertWait (w : SlotWait) : List SlotWait → List SlotWait
  | [] => [w]
  | x :: rest => if w.op < x.op then w :: x :: rest else x :: insertWait w rest

/-- A sealed read asks for a slot: it joins its segment's, takes a free one where no read waits that may have it, or waits (R314, R315,
R326). -/
def Dev.demandSlot (d : Dev) (m : Nat) (w : SlotWait) : Dev :=
  let e := d.eng m
  if e.joinable w.seg then d.join m w.op w.seg
  else if d.slotFree m w.part && !(e.slotWaits.any fun x => d.slotFree m x.part) then d.takeLanding m w
  else (d.onEng m fun e => { e with slotWaits := insertWait w e.slotWaits }).onOp w.op fun op => { op with waiting := true }

/-- An operation ends or takes another segment: it leaves its slots, which are freed with their last user, and its waits (R314). -/
def Engine.leave (e : Engine) (id : Nat) : Engine :=
  { e with
    slots := (e.slots.map fun s => { s with users := s.users.filter (· ≠ id) }).filter fun s => !s.users.isEmpty,
    slotWaits := e.slotWaits.filter fun w => w.op ≠ id }

def Dev.leaveSlots (d : Dev) (id : Nat) : Dev :=
  d.engines.foldl (fun d e =>
    if (e.2.slots.any fun s => s.users.contains id) || e.2.slotWaits.any fun w => w.op = id then d.onEng e.1 fun x => x.leave id else d) d

/-- A page whose lines are awaited for conversion or re-encryption: the flag of its leaf in the Pantry (R275, R287, R333). -/
def Engine.flagPage (e : Engine) (q : Nat) (b : Bool) : Engine :=
  { e with pantry := e.pantry.map fun x => if x.line = leafLine q then { x with value := setFlag x.value 8 b, dirty := true } else x }

/-- The operation encrypts its page anew, and so locks it (R287, R333, R339). -/
def MemOp.recrypts (op : MemOp) : Bool := match op.act with
  | .convert _ | .exportPage => true
  | _ => op.locks.contains (op.addr / 64 * 64, 64)

/-- Converting is set in the leaf of a page that an operation has locked and awaits lines for (R275). -/
def markPage (op : MemOp) (m : Nat) : Mem Unit := do
  let q := (← get).localPage op.addr
  match ← fetchLeaf op m q with
  | none => pure ()
  | some leaf => if allFresh leaf || fConverting leaf || fPoisoned leaf then pure () else setLeaf op m q (setFlag leaf 8 true)

/-- What an operation that awaits lines leaves meanwhile. -/
def Dev.marked (d : Dev) (m : Nat) (op : MemOp) : Dev :=
  let flagged := (d.eng m).entry (leafLine (d.localPage op.addr))
  if !op.recrypts || flagged.any fun x => fConverting x.value then d
  else match (markPage op m).run d with
    | .ok (_, d') => d'
    | .error _ => d

/-- An operation leaves its engine: its slots, the flag of its page, and the wait of others for the ways it held. -/
def Dev.dropOp (d : Dev) (m : Nat) (op : MemOp) : Dev :=
  let q := d.localPage op.addr
  (d.onEng m fun e =>
    let e := if op.recrypts && e.pantry.any fun x => x.line = leafLine q && fConverting x.value then e.flagPage q false else e
    { e with ops := (e.ops.filter fun x => x.id ≠ op.id).map fun x => { x with forRoom := false } }).leaveSlots op.id

end Sys2Proof.Machine
end

