-- ==== Sys2Proof/Machine/Pump.lean ====
section
/-! DEFINITION. Running the waiting operations of the memory engines until none can go further (R283), the stack reads they
need (R491), and the admission of accesses (R282, R292, R293, R492). What follows an operation's end is handed in as a
function of its origin. -/

namespace Sys2Proof.Machine

/-! ## Stack reads (R491) -/

/-- A tag no read of the engine holds, from its next one on. -/
def Engine.freeTag (e : Engine) : Option (BitVec 12) :=
  ((List.range 4096).map fun i => e.nextTag + BitVec.ofNat 12 i).find? fun tag => !e.reads.any fun r => r.tag = tag

/-- The engine's first waiting read leaves under a free tag; none while no read waits or no tag is free. -/
def Dev.issueRead (d : Dev) (m : Nat) : Option Dev :=
  match (d.eng m).readQueue with
  | [] => none
  | line :: rest => match (d.eng m).freeTag with
    | none => none
    | some tag =>
      some ((d.onEng m fun e => { e with readQueue := rest, nextTag := tag + 1, reads := e.reads ++ [{ tag := tag, line := line }] }).emit
        (.stackRead m tag line))

/-- Issue waiting stack reads while a tag of the 4,096 is free. -/
def Dev.issueReads (n : Nat) (d : Dev) (m : Nat) : Dev :=
  match n with
  | 0 => d
  | k + 1 => match d.issueRead m with
    | none => d
    | some d' => Dev.issueReads k d' m

/-- Ask for the lines an operation lacks; a line already asked for is not asked for again. -/
def Dev.fetch (d : Dev) (keys : List Nat) : Dev :=
  keys.foldl (fun d k =>
    let m := k / 2 ^ 30
    let line := k % 2 ^ 30
    let e := d.eng m
    if e.reads.any (fun r => r.line = line) || e.readQueue.contains line then d
    else ((d.onEng m fun e => { e with readQueue := e.readQueue ++ [line] }).issueReads 1 m)) d

/-! ## The pump -/

/-- The first operation of an engine that may be attempted. -/
def Dev.firstReady (d : Dev) (e : Engine) (before : List MemOp) (ops : List MemOp) : Option MemOp :=
  match ops with
  | [] => none
  | op :: rest => if d.opReady e before op then some op else d.firstReady e (before ++ [op]) rest

/-- The first engine with such an operation; none once a block-critical error has frozen the block (R444). -/
def Dev.nextOp (d : Dev) : Option (Nat × MemOp) :=
  if d.reset.frozen then none else d.engines.findSome? fun e => (d.firstReady e.2 [] e.2.ops).map fun x => (e.1, x)

/-- What follows the end of an operation. -/
abbrev OnEnd := Nat → MemOp → MemRes → Dev → Dev

/-- The host chip's writes that wait behind the locks of an operation of their engine (R334). -/
def Engine.heldBehind (e : Engine) (x : MemOp) : List MemOp :=
  e.ops.filter fun y => (match y.origin, y.act with
    | .stream _ _, .write _ _ => true
    | _, _ => false) && decide (x.id < y.id) && x.locked.any fun l => rangesMeet l y.scope

/-- An operation waits, and locks what its need names: writes that wait behind a new lock are held (R334). -/
def Dev.lockFor (d : Dev) (m : Nat) (op : MemOp) (lock : Option (Nat × Nat)) (f : MemOp → MemOp) : Dev :=
  let new := lock.any fun k => !op.locks.contains k
  let op' := { f op with locks := if new then op.locks ++ lock.toList else op.locks }
  let d := (d.onEng m fun e => { e with ops := e.ops.map fun x => if x.id = op.id then op' else x }).marked m op'
  if new then { d with thresh := { d.thresh with heldWrites := sat 32 (d.thresh.heldWrites + ((d.eng m).heldBehind op').length) } } else d

/-- An access of the host chip, a port or a step to a line, as against the runs of segments and the work on pages. -/
def MemAct.onLine : MemAct → Bool
  | .read _ | .write _ _ | .merge _ _ => true
  | _ => false

/-- One attempt of the first ready operation; none when nothing is ready. A parity or code failure on the engine's path discards the
data of an access (R324). -/
def Dev.pumpOne (h : OnEnd) (d : Dev) : Option Dev :=
  match d.nextOp with
  | none => none
  | some (m, op) =>
    some (match (tryOp m op).run d with
      | .error (.lines l lock) => (d.lockFor m op lock fun x => { x with wants := l }).fetch l
      | .error (.slot e seg part) => d.demandSlot e { op := op.id, seg := seg, part := part }
      | .error (.page e q) => d.lockFor m op (some (64 * q, 64)) fun x => { x with forPage := some (e, q) }
      | .error .room => d.onOp op.id fun x => { x with forRoom := true }
      | .error (.lost level i) => d.bothLost m op.region level i
      | .ok (.done r, d') =>
        if (d.eng m).spoiled && op.act.onLine then
          h m op { status := Status.memTagFail } ((d.onEng m fun e => { e with spoiled := false }).dropOp m op)
        else h m op r (d'.dropOp m op)
      | .ok (.again op', d') =>
        if op'.parkedOp then d'.onOp op.id fun _ => op'
        else (d'.dropOp m op).onEng m fun e => { e with ops := e.ops ++ [op'] })

/-- Attempts until nothing is ready. -/
def Dev.pumpGo (h : OnEnd) (n : Nat) (d : Dev) : Dev :=
  match n with
  | 0 => d
  | k + 1 => match d.pumpOne h with
    | none => d
    | some d' => Dev.pumpGo h k d'

/-- Attempts of the pump: more than the waiting operations of the twelve engines can use up. -/
def pumpLimit : Nat := 1000000

def Dev.pumpWith (d : Dev) (h : OnEnd) : Dev := d.pumpGo h pumpLimit

/-- Queue an operation at an engine: it takes the next number, and its writes are judged by the budgets as they stand (R289). -/
def Dev.enqueue (d : Dev) (m : Nat) (op : MemOp) : Dev :=
  let op := { op with id := d.opSeq, spent := (d.reg (d.keyReg op.region)).spentEpochs }
  { (d.onEng m fun e => { e with ops := e.ops ++ [op] }) with opSeq := d.opSeq + 1 }

/-- Queue a line operation at the engine of its line. -/
def Dev.lineOp (d : Dev) (origin : Origin) (act : MemAct) (addr part region : Nat) : Dev :=
  d.enqueue (d.engineOf addr) { origin := origin, act := act, addr := addr, part := part, region := region }

/-! ## Admission (R282, R292, R293, R492) -/

/-- Master class of an access on a network stream (R492). -/
inductive AccMaster where
  | core | dma | dbg
  deriving DecidableEq, Repr

/-- The live region of a thread that covers a line. -/
def Dev.regionAt (d : Dev) (thread a : Nat) : Option Nat :=
  (d.regions.find? fun e => e.2.st = .live && e.2.thread = thread && decide (e.2.base ≤ a * 128) &&
    decide (a * 128 < e.2.base + 2 ^ e.2.log2)).map (·.1)

/-- The live region with a key of its own that covers a line. -/
def Dev.anyRegionAt (d : Dev) (a : Nat) : Option Nat :=
  (d.regions.find? fun e => e.2.st = .live && e.2.kind ≠ 2 && decide (e.2.base ≤ a * 128) &&
    decide (a * 128 < e.2.base + 2 ^ e.2.log2)).map (·.1)

/-- A region is read-only: its BASE's share mask is not zero (R292). -/
def Dev.readOnly (d : Dev) (r : Nat) : Bool :=
  let k := d.reg (d.keyReg r)
  k.kind = 1 && k.share ≠ 0

/-- A line's page has left the export lock: a re-key without export has passed it (R338, R340). -/
def Dev.unlocked (d : Dev) (r a : Nat) : Bool :=
  d.thresh.jobs.any fun j => j.2.st ≠ .free && j.2.kind = .rekey && !j.2.export_ && j.2.target = r
    && decide (d.localPage a < tget j.2.boundary 0 (d.engineOf a))

/-- No access to a line but SEQ's: a paging table, an export-locked page, a load-locked region (R338, R343, R401). -/
def Dev.seqOnly (d : Dev) (r a : Nat) : Bool :=
  let x := d.reg r
  let k := d.reg (d.keyReg r)
  (x.exportLocked && !d.unlocked r a) || k.loadLocked || k.withheld || d.tableRegion x.thread = some r

/-- Life-cycle states in which a region key may be used (R291). -/
def Dev.regionLc (d : Dev) : Bool := !Kind.invoker d.kind || bitOf 0b01110 (LcState.code d.lc)

/-- Admission of an access: the region and whether it reads ciphertext; a refusal names the thread of the key's owner where its
attribute check made it (R90, R282). -/
def Dev.admission (d : Dev) (master : AccMaster) (tagged : Bool) (part a : Nat) (write : Bool) : Except (Option Nat) (Nat × Bool) :=
  let found := match master with
    | .core => if tagged && decide (part < d.nparts) then d.regionAt part a else none
    | .dma => if tagged then (if part < d.nparts then d.regionAt part a else none) else d.regionAt d.mgr a
    | .dbg => d.anyRegionAt a
  match found with
  | none => .error none
  | some r =>
    let x := d.reg r
    let right : BitVec 2 := match master with
      | .core => 2
      | .dma => x.dma
      | .dbg => if x.dbg = 2 && d.lc ≠ .debug then 1 else x.dbg
    if right = 0 || right = 3 || (right = 1 && write) || d.seqOnly r a || (write && d.readOnly r) then .error none
    else if right = 2 && !d.regionLc then .error (some (d.reg (d.keyReg r)).thread)
    else .ok (r, right = 1)

/-- The header of a request on a network stream (R492). -/
structure AccHead where
  mask : BitVec 32
  granules : BitVec 4
  addr : Nat
  part : Nat
  tagged : Bool
  master : Nat
  op : Nat
  tag : BitVec 10
  rsv : Bool

def AccHead.of (h : BitVec 256) : AccHead :=
  let n := h.toNat
  { mask := BitVec.ofNat 32 (fld n 83 32), granules := BitVec.ofNat 4 (fld n 79 4), addr := fld n 31 48, part := fld n 26 5,
    tagged := bitOf n 25, master := fld n 23 2, op := fld n 19 2, tag := BitVec.ofNat 10 (fld n 0 10),
    rsv := fld n 115 141 ≠ 0 || fld n 21 2 ≠ 0 || fld n 10 9 ≠ 0 }

/-- Byte mask of a line from a granule mask and the mask within each (R492). -/
def accMask (h : AccHead) : BitVec 128 :=
  BitVec.ofNat 128 ((List.range 4).foldl (fun n g => if h.granules.getLsbD g then n + h.mask.toNat * 2 ^ (32 * g) else n) 0)

/-- Granules of a line that the request enabled, the others zero (R492). -/
def enabledGranules (granules : BitVec 4) (l : Line) : Line :=
  BitVec.ofNat 1024 ((List.range 4).foldl (fun n g => if granules.getLsbD g then n + lf l (256 * g) 256 * 2 ^ (256 * g) else n) 0)

/-- A response on a network stream. -/
def Dev.memAnswer (d : Dev) (m : Nat) (tag : BitVec 10) (st : Byte) (l : Line) : Dev := d.emit (.memory m tag st l)

/-- A refused access: its response, the count of its partition, and for REGION_FAULT that partition's error source (R282). -/
def Dev.refuseAcc (d : Dev) (m : Nat) (tag : BitVec 10) (thread : Option Nat) (st : Byte) : Dev :=
  let d := d.memAnswer m tag st 0
  match thread with
  | none => d
  | some t =>
    let d := d.addCount t 15 1
    if st = Status.regionFault then d.errorOnce t .access else d

/-- A write of a stream to a page under a lock: the locks of operations that came before (R334). -/
def Engine.lockedAt (e : Engine) (a : Nat) : Bool := e.ops.any fun x => x.locked.any fun l => rangesMeet l (a, 1)

/-- Writes an engine holds at locked pages (R334). -/
def Engine.heldCount (e : Engine) : Nat :=
  (e.ops.filter fun y => e.ops.any fun x => (e.heldBehind x).any fun z => z.id = y.id).length

/-- Entries of the hold queue of an engine (R334, R356). -/
def holdQueue : Nat := 64

/-- Queue a stream's access at its engine. A write to a locked page is held, and counted; where the hold queue is full the stream is
not ready: the access has no effect yet, and the back-pressure is counted (R334). -/
def Dev.queueAccess (d : Dev) (m : Nat) (op : MemOp) : Dev :=
  let e := d.eng m
  match op.act with
  | .write _ _ =>
    if !e.lockedAt op.addr then d.enqueue m op
    else if holdQueue ≤ e.heldCount then { d with thresh := { d.thresh with pressure := sat 16 (d.thresh.pressure + 1) } }
    else { (d.enqueue m op) with thresh := { d.thresh with heldWrites := sat 32 (d.thresh.heldWrites + 1) } }
  | _ => d.enqueue m op

/-- An access arrives on a network stream (R282, R492): refused, or queued at its engine. -/
def Dev.access (d : Dev) (m : Nat) (h : AccHead) (write : Bool) (payload : Bytes) : Dev :=
  let master : Option AccMaster := match h.master with
    | 0 => some .core
    | 1 => some .dma
    | 2 => some .dbg
    | _ => none
  let acct : Option Nat := match master with
    | some .dbg => none
    | some .dma => some (if h.tagged then h.part else d.mgr)
    | _ => if h.tagged then some h.part else none
  match master with
  | none => d.refuseAcc m h.tag acct Status.badField
  | some ms =>
    if h.op ≠ (if write then 2 else 1) || h.rsv || h.granules = 0 then d.refuseAcc m h.tag acct Status.badField
    else if h.addr % 128 ≠ 0 then d.refuseAcc m h.tag acct Status.align
    else
      let a := h.addr / 128
      let acct := match acct with
        | some t => some t
        | none => (d.anyRegionAt a).map fun r => (d.reg r).thread
      match d.admission ms h.tagged h.part a write with
      | .error owner =>
        let d := d.refuseAcc m h.tag acct Status.regionFault
        match owner with
        | some t => d.errorOf t
        | none => d
      | .ok (r, cipher) =>
        if d.engineOf a ≠ m then d.refuseAcc m h.tag acct Status.regionFault
        else d.queueAccess m
          { origin := .stream h.tag h.granules,
            act := if write then .write (bytesLine payload) (accMask h) else .read cipher,
            addr := a, part := acct.getD d.mgr, region := r }

/-- A network stream's access has ended (R282, R411): its response, and what it counts. -/
def Dev.streamEnd (d : Dev) (m : Nat) (op : MemOp) (tag : BitVec 10) (granules : BitVec 4) (r : MemRes) : Dev :=
  if r.status = Status.treePoison || r.status = Status.pagedOut then d.refuseAcc m tag (some op.part) r.status
  else
    let d := match op.act with
      | .read _ => if r.status = Status.done then
          (d.addCount op.part 2 (32 * popcount 4 granules.toNat)).addGlobal (128 + m) (32 * popcount 4 granules.toNat) else d
      | _ => d
    d.memAnswer m tag r.status (if r.status = Status.done then enabledGranules granules r.line else 0)

end Sys2Proof.Machine
end

