-- ==== Sys2Proof/Machine/Packets.lean ====
section
/-! DEFINITION. Packets (R172 to R180): headers, steering (R185), sending, channel keys and their positions (R177, R188,
R513), CREDIT and CTRL packets, and a channel going DOWN (R200, R201). -/

namespace Sys2Proof.Machine

/-! ## Fields of a packet (R173, R175) -/

/-- Bytes 0 to 7 of a header: kind, domain epoch bit, payload cells, the six upper bits of the word, destination partition
and target. -/
def headFirst (kind : Nat) (dom : Bool) (cells up dstPart target : Nat) : Bytes :=
  natLe 1 kind ++ natLe 1 (1 + b2n dom * 16) ++ [0, 0]
    ++ natLe 4 (target % 2 ^ 14 + dstPart % 32 * 2 ^ 14 + (cells - 1) % 128 * 2 ^ 19 + up % 64 * 2 ^ 26)

/-- A header of kinds 0x01 to 0x04 (R175). -/
def chanHead (kind : Nat) (dom : Bool) (cells up dstPart target srcPart srcNode id seq epoch offset : Nat) : Bytes :=
  headFirst kind dom cells up dstPart target ++ natLe 4 (srcNode % 2 ^ 14 + srcPart % 32 * 2 ^ 14) ++ natLe 4 id ++ natLe 8 seq
    ++ natLe 2 epoch ++ natLe 6 offset

/-- A received packet taken apart (R173): header fields every kind has, its payload and tag. -/
structure Pkt where
  kind : Nat
  dom : Bool
  version : Nat
  rsv1 : Nat
  cells : Nat
  up : Nat
  dstPart : Nat
  target : Nat
  head : Bytes
  payload : Bytes
  tag : Bytes
  wire : Nat

def Pkt.of (b : Bytes) : Pkt :=
  let w := leAt b 4 4
  let b1 := leAt b 1 1
  let cells := fld w 19 7 + 1
  { kind := leAt b 0 1, dom := bitOf b1 4, version := fld b1 0 4, rsv1 := fld b1 5 3, cells := cells, up := fld w 26 6,
    dstPart := fld w 14 5, target := fld w 0 14, head := slice b 0 32, payload := slice b 32 (32 * cells),
    tag := slice b (32 + 32 * cells) 16, wire := b.length / 32 }

/-- The header with its mutable bytes 2 and 3 taken as zero (R177). -/
def authHead (h : Bytes) : Bytes := slice h 0 2 ++ [0, 0] ++ slice h 4 28

/-- The number of cells agrees with length: header, payload, trailer (R178). -/
def Pkt.whole (p : Pkt) : Bool := p.wire = p.cells + 2

/-- IV of kinds 0x01 to 0x04 (R177). -/
def chanIv (id seq : Nat) : Bytes := natBe 4 id ++ natBe 8 seq

/-- A protected packet on the wire: header, ciphertext, trailer (R172, R177). -/
def sealPacket (key : Key) (iv head plain : Bytes) : Bytes :=
  let (c, t) := gcmSeal key iv (authHead head) plain
  head ++ c ++ t ++ List.replicate 16 0

/-- A clear packet: its tag bytes are zero (R172). -/
def clearPacket (head payload : Bytes) : Bytes := head ++ payload ++ List.replicate 32 0

/-! ## Steering (R185) -/

/-- Ports of a node's steering mask whose link is up. -/
def Dev.routes (d : Dev) (node : Nat) : List Nat :=
  let mask := tget d.hall.steer 0 node
  (List.range (Kind.ports d.kind)).filter fun p => (mask = 0 || mask.getLsbD p) && (d.port p).up && d.powered (d.portDomain p)

/-- The least-loaded of some ports: a free choice (notes/assumptions/15.md). -/
def Dev.leastLoaded (d : Dev) (l : List Nat) : Option (Nat × Dev) :=
  match l with
  | [] => none
  | p :: _ =>
    let q := Config.leastLoaded d.free l
    some (if l.contains q then q else p, { d with free := d.free + 1 })

/-- The port a packet to a node takes: the one that carried the request when it may, else the least-loaded. -/
def Dev.route (d : Dev) (node : Nat) (carried : Option Nat) : Option (Nat × Dev) :=
  let l := d.routes node
  match carried with
  | some p => if l.contains p then some (p, d) else d.leastLoaded l
  | none => d.leastLoaded l

/-! ## Sending -/

/-- AES lane blocks a partition uses on a port (R411, R415; notes/assumptions/28.md). -/
def Dev.portBlocks (d : Dev) (p part n : Nat) : Dev := ((d.addCount part 7 n).addGlobal (96 + p) n).addGlobal (256 + part) n

/-- A packet leaves on a port on a partition's account (R411 counter 0, R415). -/
def Dev.sendOn (d : Dev) (p part : Nat) (bytes : Bytes) (blocks : Nat) : Dev :=
  let payload := bytes.length - 64
  let d := (d.onPort p fun x => { x with txPackets := sat 64 (x.txPackets + 1) }).emit (.packet p bytes)
  let d := (d.addCount part 0 payload).addGlobal p payload
  if blocks = 0 then d else d.portBlocks p part blocks

/-- Lane blocks of a GCM packet: one per 16 bytes and one for its tag. -/
def gcmBlocks (payload : Nat) : Nat := payload / 16 + 1

/-! ## Domain keys (R163, R188) -/

/-- Domain keys a partition holds now, with their epochs: current, pending, those of overlaps. -/
def Dev.domKeys (d : Dev) (n : Nat) : List (Key × Nat) :=
  let m := d.dom n
  (match d.resKey (8 + n) with
    | some k => if m.st = .member then [(k, m.epoch)] else []
    | none => [])
  ++ (match m.pending with
    | some (s, e) => [((d.slot s).key, e)]
    | none => [])
  ++ m.old.map fun o => ((d.slot o.1).key, o.2.1)

/-- The current domain key of a partition. -/
def Dev.domKey (d : Dev) (n : Nat) : Option Key := if (d.dom n).st = .member then d.resKey (8 + n) else none

/-- The domain key whose epoch has the given low bit. -/
def Dev.domKeyFor (d : Dev) (n : Nat) (bit : Bool) : Option Key :=
  ((d.domKeys n).find? fun k => decide (k.2 % 2 = 1) = bit).map (·.1)

/-- The domain epoch bit a partition transmits under. -/
def Dev.domBit (d : Dev) (n : Nat) : Bool := (d.dom n).epoch % 2 = 1

/-! ## Channel keys (R74, R77, R188, R513) -/

/-- The label of a channel key: transmitter, receiver, id, epoch. -/
def Dev.chanLabel (d : Dev) (c : Chan) (epoch : Nat) : Bytes :=
  if c.rx then label Purpose.chan c.peerNode c.peerPart d.hall.node.toNat c.thread c.id epoch
  else label Purpose.chan d.hall.node.toNat c.thread c.peerNode c.peerPart c.id epoch

/-- Put a key into one of the slot's four positions, the least recently used giving way, but never the current epoch's under
the current domain epoch. -/
def Chan.keepKey (c : Chan) (cur : Bool) (k : ChKey) : Chan :=
  let rest := c.keys.filter fun x => !(x.epoch = k.epoch && x.dom = k.dom)
  if rest.length < 4 then { c with keys := rest ++ [k] }
  else
    let old := (rest.filter fun x => !(x.epoch = c.epoch && x.dom = cur)).foldl (fun b x => match b with
      | none => some x
      | some y => if x.used < y.used then some x else some y) (none : Option ChKey)
    match old with
    | none => { c with keys := rest ++ [k] }
    | some o => { c with keys := rest.filter (· ≠ o) ++ [k] }

/-- The key of a channel for an epoch and domain epoch bit: from its position, or derived into one; none where no domain key
of that bit is held, or for the epoch 0xFFFF that nothing uses (R77). -/
def Dev.chanKey (d : Dev) (slot epoch : Nat) (dom : Bool) : Option (Key × Dev) :=
  let c := d.ch slot
  let key := if 0xFFFF ≤ epoch then none else match c.keys.find? fun x => x.epoch = epoch && x.dom = dom with
    | some x => some x.key
    | none => (d.domKeyFor c.thread dom).map fun k => kdfKey k (d.chanLabel c epoch)
  key.map fun k => (k, d.onCh slot fun c => c.keepKey (d.domBit c.thread) { epoch := epoch, dom := dom, key := k, used := d.time })

/-- Open a received packet of a channel (R163, R177, R188): under the key of its epoch and domain epoch bit, or else under the key that
another domain key of the same bit gives (a pending one beside one kept for its overlap). -/
def Dev.chanOpen (d : Dev) (slot epoch : Nat) (dom : Bool) (key : Key) (iv head payload tag : Bytes) : Option (Key × Bytes) :=
  let c := d.ch slot
  let try_ (k : Key) : Option (Key × Bytes) := (gcmOpen k iv (authHead head) payload tag).map fun p => (k, p)
  match try_ key with
  | some r => some r
  | none => (((d.domKeys c.thread).filter fun k => decide (k.2 % 2 = 1) = dom).map fun k => kdfKey k.1 (d.chanLabel c epoch)).findSome?
      fun k => if k = key then none else try_ k

/-! ## A channel goes DOWN (R200, R201) -/

/-- Answer a request on a port's response channel (R490). -/
def Dev.answer (d : Dev) (port : Nat) (tag : BitVec 8) (st : Byte) : Dev := d.emit (.response port tag st)

/-- The RFENCE under way of a transmit channel's partition learns of a cause that ends the channel (R199): a timeout of its marker
(cause 1), or a loss, whether or not the marker was acknowledged before. -/
def Dev.fenceLearns (d : Dev) (c : Chan) (cause : Nat) : Dev :=
  if c.rx then d
  else if cause = 1 then match c.marker with
    | some k => d.onFlight c.thread k.row fun x => { x with timedOut := x.timedOut + 1 }
    | none => d
  else d.onTh c.thread fun t => { t with flights := t.flights.map fun x =>
    if x.stage = .running && (Step.of x.step).op = some .rfence then { x with lost := true } else x }

/-- A cause of R200 befalls a CLOSING channel (R182, R205; notes/assumptions/91.md): it does not go DOWN. A marker that has timed out is
given up; any other cause ends its marker and refuses what it holds, so that it drains. -/
def Dev.closingEnds (d : Dev) (slot cause : Nat) : Dev :=
  let c := d.ch slot
  let d := d.fenceLearns c cause
  if cause = 1 then d.onCh slot fun c => { c with marker := none }
  else
    let d := forEach c.held (fun r d => (d.answer r.port r.tag Status.channelDown).addCount c.thread 15 1) d
    d.onCh slot fun c => { c with held := [], marker := none, markerDue := none }

/-- A channel goes DOWN with a cause; for causes 1 to 4 the Attic records the wait from `start`. Requests held are refused. A CLOSING
channel only drains. -/
def Dev.chanDown (d : Dev) (slot cause start : Nat) : Dev :=
  let c := d.ch slot
  if c.st = .closing then d.closingEnds slot cause else
  let d := d.fenceLearns c cause
  let d := forEach c.held (fun r d => (d.answer r.port r.tag Status.channelDown).addCount c.thread 15 1) d
  let d := d.setCh slot { c with
    st := .down, cause := cause, held := [], marker := none, waiting := [], keys := [], markerDue := none, ackAgain := false,
    former := [] }
  let d := d.errorOf c.thread
  if 1 ≤ cause ∧ cause ≤ 4 then
    d.atticPut 7 c.thread 0 (if cause = 1 then Status.peerTimeout else Status.channelDown) c.id (d.time - start)
      (whoPeer c.peerNode c.peerPart) cause
  else d

/-- The channel timeout in ns (R200, R208). -/
def Dev.chTimeout (d : Dev) : Nat := d.hall.chTimeout * 1000

/-- Advance a transmit channel to its next epoch (R187): the former epoch stays accepted for one channel timeout (R513). At
0xFFFE the forced advance takes it DOWN. -/
def Dev.advanceEpoch (d : Dev) (slot : Nat) : Dev :=
  let c := d.ch slot
  if 0xFFFE ≤ c.epoch then d.chanDown slot 7 d.time
  else
    let d := d.setCh slot { c with epoch := c.epoch + 1, epochPkts := 0, epochBytes := 0, former := c.former ++ [(c.epoch, d.time)] }
    match d.chanKey slot (c.epoch + 1) (d.domBit c.thread) with
    | some (_, d) => d
    | none => d

/-! ## CREDIT (R179, R192, R260) -/

/-- Merge credits the receiver can grant now: never less than granted before. -/
def Dev.grantNow (d : Dev) (c : Chan) : Nat := max c.creditGrant (c.drained + d.hall.mergeCredit)

/-- Send a CREDIT, when a link is up. -/
def Dev.sendCredit (d : Dev) (slot : Nat) : Dev :=
  let c := d.ch slot
  match d.route c.peerNode none with
  | none => d
  | some (p, d) =>
    let dom := d.domBit c.thread
    match d.chanKey slot c.epoch dom with
    | none => d
    | some (k, d) =>
      let g := d.grantNow c
      let seq := 2 ^ 63 + 2 ^ 62 + c.creditNum
      let head := chanHead 4 dom 1 0 c.peerPart c.peerNode c.thread d.hall.node.toNat c.id seq c.epoch 0
      let plain := natLe 8 c.floor ++ natLe 2 g ++ List.replicate 22 0
      let d := d.sendOn p c.thread (sealPacket k (chanIv c.id seq) head plain) (gcmBlocks 32)
      d.onCh slot fun c => { c with creditNum := c.creditNum + 1, creditFloor := c.floor, creditGrant := g, drainedAt := c.drained }

/-- Send a CREDIT when the floor has advanced by 256 or 256 merge credits have returned since the last (R192, R260). -/
def Dev.maybeCredit (d : Dev) (slot : Nat) : Dev :=
  let c := d.ch slot
  if c.rx && c.st = .open_ &&
      (decide (c.creditFloor + 256 ≤ c.floor) || decide (c.drainedAt + 256 ≤ c.drained)) then d.sendCredit slot
  else d

/-! ## CTRL packets (R180) -/

/-- Send a packet that Kerre has made to a node on a partition's account, or hold it until a link to the node is up (R185). -/
def Dev.sendWhenUp (d : Dev) (node part : Nat) (carried : Option Nat) (bytes : Bytes) : Dev :=
  match d.route node carried with
  | some (p, d) => d.sendOn p part bytes 0
  | none =>
    { d with parked := d.parked ++
        [{ port := carried.getD (Kind.ports d.kind), hdr := 0, payload := [], since := d.time, built := some (node, part, bytes) }] }

/-- The CTRL packet of a type from a partition. -/
def Dev.ctrlPacket (d : Dev) (part node dstPart ty : Nat) (payload : Bytes) : Bytes :=
  let cells := max 1 ((payload.length + 31) / 32)
  let head := headFirst 0x30 false cells 0 dstPart node ++ natLe 4 (d.hall.node.toNat + part % 32 * 2 ^ 14) ++ natLe 1 ty
    ++ List.replicate 19 0
  clearPacket head (padTo (32 * cells) payload)

/-- Send a CTRL packet of a type from a partition; until Kerre has a node number it sends nothing (R171). -/
def Dev.sendCtrl (d : Dev) (part node dstPart ty : Nat) (payload : Bytes) : Dev :=
  if d.hall.nodeValid then d.sendWhenUp node part none (d.ctrlPacket part node dstPart ty payload) else d

/-- The header of a CTRL packet as a SYNC_ACK's HMAC takes it. -/
def ctrlHead (srcNode srcPart dstNode dstPart ty cells : Nat) : Bytes :=
  headFirst 0x30 false cells 0 dstPart dstNode ++ natLe 4 (srcNode + srcPart % 32 * 2 ^ 14) ++ natLe 1 ty ++ List.replicate 19 0

end Sys2Proof.Machine
end

