-- ==== Sys2Proof/Machine/Merge.lean ====
section
/-! DEFINITION. The line-merge buffers and the Crossing path into memory (R193, R257 to R261, R320, R321, R334). -/

namespace Sys2Proof.Machine

/-- The port whose buffer is home to a line (R257). -/
def Dev.homePort (d : Dev) (line : Nat) : Nat := line % Kind.ports d.kind

/-- An operation of the line's engine has locked its page: a drain waits in its entry (R334). -/
def Dev.pageHeld (d : Dev) (line : Nat) : Bool := (d.eng (d.engineOf line)).lockedAt line

/-- Return the merge credits of an entry's touches to their channels (R260). -/
def Dev.returnTouches (d : Dev) (touches : List (Nat × Nat)) : Dev :=
  let d := touches.foldl (fun d t => d.onCh t.1 fun c => { c with drained := c.drained + 1 }) d
  (touches.map (·.1)).eraseDups.foldl (fun d s => d.maybeCredit s) d

/-- Drain an entry into the write pipeline of its line's engine (R259, R320); a read-only or unusable region refuses it
(R321). While its page is held it stays, and drains once the page is free (R334). -/
def Dev.drain (d : Dev) (e : MEntry) : Dev :=
  if d.pageHeld e.line then { d with merge := d.merge.map fun x => if x.line = e.line then { x with due := true } else x }
  else
    let d := { d with merge := d.merge.filter fun x => x.line ≠ e.line }
    let d := d.returnTouches e.touches
    let owner := (d.reg e.region).thread
    if d.readOnly e.region then
      (d.onPort e.port fun p => { p with crossReadOnly := sat 16 (p.crossReadOnly + 1) }).errorOnce e.part .drain
    else if d.seqOnly e.region e.line then
      (d.onPort e.port fun p => { p with crossPoison := sat 16 (p.crossPoison + 1) }).errorOnce e.part .drain
    else if !d.regionLc then
      ((d.onPort e.port fun p => { p with crossAttr := sat 16 (p.crossAttr + 1) }).errorOnce e.part .drain).errorOf owner
    else d.lineOp (.drain e.port) (.merge e.words e.guarded) e.line e.part e.region

/-- The end of a drain's write (R321): what refused it is counted at the home port. -/
def Dev.drainEnd (d : Dev) (op : MemOp) (port : Nat) (r : MemRes) : Dev :=
  if r.status = Status.done then d
  else
    let d := d.onPort port fun p =>
      if r.status = Status.treePoison || r.status = Status.pagedOut then { p with crossPoison := sat 16 (p.crossPoison + 1) }
      else if r.status = Status.budgetExhausted then { p with crossBudget := sat 16 (p.crossBudget + 1) }
      else if r.version = 1 then { p with crossSealed := sat 16 (p.crossSealed + 1) }
      else { p with crossRead := sat 16 (p.crossRead + 1) }
    d.errorOnce op.part .drain

/-- An entry's drain for its window or a marker, which is counted once (R262, R265). -/
def Dev.drainFor (d : Dev) (e : MEntry) (count : Port → Port) : Dev := if e.due then d.drain e else (d.onPort e.port count).drain e

/-- Entries whose drain waited for their page drain once it is free. -/
def Dev.drainDue (d : Dev) : Dev := d.merge.foldl (fun d e => if e.due then d.drain e else d) d

/-- An entry has been open for the merge window (R259). -/
def Dev.windowEnd (d : Dev) (line : Nat) : Dev :=
  match d.merge.find? fun e => e.line = line with
  | some e => if e.opened + d.hall.mergeWindow ≤ d.time then d.drainFor e fun p => { p with windowDrains := sat 16 (p.windowDrains + 1) } else d
  | none => d

/-- The flush boundary of a port's buffer: its entries that list a channel whose marker was released since the last one drain; an
overflowed entry ignores markers (R259, R261). -/
def Dev.markerFlush (d : Dev) (port : Nat) : Dev :=
  let due := (d.port port).markerReleased
  let go := d.merge.filter fun e => e.port = port && !e.overflow && e.chans.any due.contains
  let d := d.onPort port fun p => { p with markerReleased := [] }
  forEach go (fun e d => d.drainFor e fun p => { p with markerDrains := sat 16 (p.markerDrains + 1) }) d

/-- One word of a granule merged into a word of an entry (R257). -/
def mergeWord (add : Bool) (old : WordMode × BitVec 32) (v : BitVec 32) : WordMode × BitVec 32 :=
  if add then
    match old.1 with
    | .none => (.add, v)
    | .store => (.store, old.2 + v)
    | .add => (.add, old.2 + v)
  else (.store, v)

/-- Merge what a packet brings to a line: one word or none for each of the 32. -/
def mergeWords (add : Bool) (old : List (WordMode × BitVec 32)) (new : List (Option (BitVec 32))) : List (WordMode × BitVec 32) :=
  List.zipWith (fun o n => match n with
    | some v => mergeWord add o v
    | none => o) old new

/-- Entries of a home buffer. -/
def Dev.entriesAt (d : Dev) (port : Nat) : List MEntry := d.merge.filter fun e => e.port = port

/-- The entry of a buffer that opened earliest (R259). -/
def earliest (l : List MEntry) : Option MEntry :=
  l.foldl (fun b x => match b with
    | none => some x
    | some y => if x.opened < y.opened then some x else some y) none

/-- A channel writes into an entry: one of four slots recorded, or the overflow bit (R257). -/
def MEntry.note (e : MEntry) (chan : Option Nat) : MEntry :=
  match chan with
  | none => e
  | some c => if e.chans.contains c then e else if e.chans.length < 4 then { e with chans := e.chans ++ [c] } else { e with overflow := true }

/-- A touch of a line (R257): merged into its open entry, or into a new one, the earliest-opened entry of a full buffer
drained first. An entry whose window closes in the cc of the touch drains before it (R262). `chan` is the channel slot and sequence that wrote, `guard` marks the words as ADDs the guard band watches
(R231). -/
def Dev.touch (d : Dev) (line part region : Nat) (add guard : Bool) (chan : Option (Nat × Nat)) (words : List (Option (BitVec 32))) : Dev :=
  let home := d.homePort line
  let d := d.onPort home fun p => { p with mergeTouches := sat 64 (p.mergeTouches + 1) }
  let tch := match chan with
    | some t => [t]
    | none => []
  let some_ := BitVec.ofNat 32 ((List.range 32).foldl (fun n i => if (words.getD i none).isSome then n + 2 ^ i else n) 0)
  let marks := fun (g : BitVec 32) => if add then (if guard then g ||| some_ else g) else g &&& ~~~some_
  let d := d.windowEnd line
  match d.merge.find? fun e => e.line = line with
  | some e =>
    let e' := { e.note (chan.map (·.1)) with guarded := marks e.guarded, words := mergeWords add e.words words, touches := e.touches ++ tch }
    let d := { d with merge := d.merge.map fun x => if x.line = line then e' else x }
    if e'.overflow && !e.overflow then d.onPort home fun p => { p with overflowed := sat 16 (p.overflowed + 1) } else d
  | none =>
    let d := if 256 ≤ (d.entriesAt home).length then
        match earliest ((d.entriesAt home).filter fun e => !d.pageHeld e.line) with
        | some v => (d.drain v).onPort home fun p => { p with evictions := sat 16 (p.evictions + 1) }
        | none => d
      else d
    let e : MEntry :=
      ({ line := line, part := part, region := region, words := mergeWords add (List.replicate 32 (.none, 0)) words, touches := tch, guarded := marks 0,
         opened := d.time, port := home } : MEntry).note (chan.map (·.1))
    let d := { d with merge := d.merge ++ [e] }
    d.onPort home fun p => { p with mergeHigh := max p.mergeHigh (d.entriesAt home).length }

/-- The words of line `line` that a payload at byte offset `offset` brings. -/
def lineWords (offset : Nat) (payload : Bytes) (line : Nat) : List (Option (BitVec 32)) :=
  (List.range 32).map fun i =>
    let a := line * 128 + 4 * i
    if offset ≤ a ∧ a < offset + payload.length then some (BitVec.ofNat 32 (leAt payload (a - offset) 4)) else none

/-- Lines a payload touches. -/
def touched (offset length : Nat) : List Nat :=
  (List.range ((offset + length + 127) / 128 - offset / 128)).map fun i => offset / 128 + i

/-- Bring a verified payload into the merge buffers of a partition (R193, R257): discarded with REGION_FAULT on its error
source where no live region covers it whole; the credits of a discarded packet return at once. -/
def Dev.commit (d : Dev) (part : Nat) (add guard : Bool) (chan : Option (Nat × Nat)) (offset : Nat) (payload : Bytes) : Dev :=
  let lines := touched offset payload.length
  match d.regionAt part (offset / 128) with
  | some r =>
    if offset + payload.length ≤ (d.reg r).base + 2 ^ (d.reg r).log2 then
      forEach lines (fun l d => d.touch l part r add guard chan (lineWords offset payload l)) d
    else (d.errorOf part).returnTouches (match chan with
      | some t => lines.map fun _ => t
      | none => [])
  | none => (d.errorOf part).returnTouches (match chan with
      | some t => lines.map fun _ => t
      | none => [])

/-- Every entry that holds data of a channel below a sequence has drained (R197). -/
def Dev.markerDrained (d : Dev) (slot m : Nat) : Bool :=
  !d.merge.any fun e => e.touches.any fun t => t.1 = slot && decide (t.2 < m)

/-- Entries that hold a region (R320, R349). -/
def Dev.mergeHolds (d : Dev) (region : Nat) : Bool := d.merge.any fun e => e.region = region

end Sys2Proof.Machine
end

