-- ==== Sys2Proof/Machine/Channels.lean ====
section
/-! DEFINITION. Channels (R181 to R201, R512, R513): sending with credit, receiving through the window, synchronisation,
remote fences, timeouts, close and eviction. -/

namespace Sys2Proof.Machine

/-! ## Sending (R185 to R187, R192, R260) -/

/-- The lowest sequence a transmit channel has not sent. -/
def Chan.sendNext (c : Chan) : Nat :=
  let s := c.held.foldl (fun m r => min m r.seq) c.next
  match c.marker with
  | some k => if k.sent then s else min s k.m
  | none => s

/-- A forced epoch advance is due (R187). -/
def Chan.epochFull (c : Chan) : Bool := decide (2 ^ 36 ≤ c.epochPkts) || decide (2 ^ 52 ≤ c.epochBytes)

/-- Count a packet under the current epoch. -/
def Chan.sentOne (c : Chan) (bytes : Nat) : Chan := { c with epochPkts := c.epochPkts + 1, epochBytes := c.epochBytes + bytes }

/-- Credit holds the next request of a transmit channel back (R192, R209, R260): window credit, or merge credit for its touches. -/
def Chan.noCredit (c : Chan) : Bool :=
  let seq := c.sendNext
  !c.held.isEmpty && (decide (c.credited + 1024 ≤ seq) || match c.held.find? fun r => r.seq = seq with
    | some r => decide ((c.grant + 65536 - c.touches % 65536) % 65536 < (touched r.offset r.payload.length).length)
    | none => false)

/-- Send the next packet of a transmit channel that credit and a link allow: none when nothing may go. -/
def Dev.sendNext (d : Dev) (slot : Nat) : Option Dev :=
  let c0 := d.ch slot
  if c0.rx || !(c0.st = .open_ || c0.st = .closing) then none
  else if c0.held.isEmpty && (match c0.marker with
      | some k => k.sent
      | none => true) then none
  else if c0.epochFull then
    let d' := d.advanceEpoch slot
    some d'
  else
    let seq := c0.sendNext
    if c0.noCredit || decide (c0.credited + 1024 ≤ seq) then none
    else
      let dom := d.domBit c0.thread
      match c0.held.find? fun r => r.seq = seq with
      | some r =>
        let k := (touched r.offset r.payload.length).length
        match d.route c0.peerNode (some r.port) with
          | none => none
          | some (p, d) =>
            match d.chanKey slot c0.epoch dom with
            | none => none
            | some (key, d) =>
              let cells := r.payload.length / 32
              let head := chanHead 1 dom cells (b2n r.add) c0.peerPart c0.peerNode c0.thread d.hall.node.toNat c0.id seq c0.epoch r.offset
              let d := d.sendOn p c0.thread (sealPacket key (chanIv c0.id seq) head r.payload) (gcmBlocks r.payload.length)
              let d := d.onCh slot fun c =>
                { c.sentOne r.payload.length with held := c.held.filter fun x => x.seq ≠ seq, touches := (c.touches + k) % 65536 }
              some (d.answer r.port r.tag Status.done)
      | none =>
        match c0.marker with
        | none => none
        | some k =>
          match d.route c0.peerNode none with
          | none => none
          | some (p, d) =>
            match d.chanKey slot c0.epoch dom with
            | none => none
            | some (key, d) =>
              let head := chanHead 2 dom 1 0 c0.peerPart c0.peerNode c0.thread d.hall.node.toNat c0.id k.m c0.epoch 0
              let pkt := sealPacket key (chanIv c0.id k.m) head (natLe 8 k.m ++ List.replicate 24 0)
              let d := d.sendOn p c0.thread pkt (gcmBlocks 32)
              some (d.onCh slot fun c =>
                { c.sentOne 32 with marker := some { k with bytes := pkt, sent := true, firstSent := d.time, lastSent := d.time } })

/-- Send all that may go, n packets at most. -/
def Dev.sendAll (n : Nat) (d : Dev) (slot : Nat) : Dev :=
  match n with
  | 0 => d
  | k + 1 => match d.sendNext slot with
    | none => d
    | some d' => Dev.sendAll k d' slot

/-- A channel sends what it may: its held requests, its marker, and an epoch advance between. -/
def Dev.sendChan (d : Dev) (slot : Nat) : Dev := d.sendAll (2 * (d.ch slot).held.length + 4) slot

/-- Requests held in a port's stall buffer (R192). -/
def Dev.stalled (d : Dev) (port : Nat) : Nat :=
  d.chans.foldl (fun n e => n + (e.2.held.filter fun r => r.port = port).length) 0 + (d.parked.filter fun r => r.port = port).length

/-- Refuse a request of a partition on a transmit stream (R185). -/
def Dev.refuseReq (d : Dev) (port : Nat) (tag : BitVec 8) (part : Nat) (st : Byte) : Dev := (d.answer port tag st).addCount part 15 1

/-- An accepted channel send takes the channel's next sequence and goes, or is held (R185, R192). A full stall buffer takes
nothing in. -/
def Dev.channelRequest (d : Dev) (port : Nat) (tag : BitVec 8) (part handle op offset : Nat) (payload : Bytes) : Dev :=
  if 1 < op then d.refuseReq port tag part Status.badField
  else if offset % 32 ≠ 0 then d.refuseReq port tag part Status.align
  else match d.liveSlot part .channel handle with
    | none => d.refuseReq port tag part Status.staleHandle
    | some slot =>
      let c := d.ch slot
      if c.st = .free then d
      else if c.rx then d.refuseReq port tag part Status.denied
      else if c.st = .down then d.refuseReq port tag part Status.channelDown
      else if (d.part part).st = .frozen then d.refuseReq port tag part Status.frozen
      else if 2 ^ 62 ≤ c.next + 1 then (d.chanDown slot 8 d.time).refuseReq port tag part Status.channelDown
      else
        let r : HeldReq := { seq := c.next, tag := tag, port := port, add := op = 1, offset := offset, payload := payload, since := d.time }
        let d' := (d.onCh slot fun c => { c with next := c.next + 1, held := c.held ++ [r] }).sendChan slot
        if ((d'.ch slot).held.any fun x => x.seq = r.seq) && decide (64 < d'.stalled port) then d else d'

/-! ## Receiving (R178, R188, R189, R191, R193) -/

/-- Malformed kinds 0x01 to 0x04: cell count, reserved fields, op, offset, length rule, absent partitions (R174, R178). -/
def Dev.chanMalformed (d : Dev) (p : Pkt) : Bool :=
  let src := leAt p.head 8 4
  !p.whole || p.rsv1 ≠ 0 || decide (d.nparts ≤ p.dstPart) || fld src 19 13 ≠ 0 || decide (d.nparts ≤ fld src 14 5)
    || (if p.kind = 1 then decide (1 < p.up) || leAt p.head 26 6 % 32 ≠ 0 else p.up ≠ 0 || leAt p.head 26 6 ≠ 0 || p.cells ≠ 1)

def Dev.dropMalformed (d : Dev) (port : Nat) : Dev := d.onPort port fun p => { p with malformed := sat 16 (p.malformed + 1) }
def Dev.dropNoChannel (d : Dev) (port : Nat) : Dev := d.onPort port fun p => { p with noChannel := sat 16 (p.noChannel + 1) }
def Dev.dropStale (d : Dev) (port : Nat) : Dev := d.onPort port fun p => { p with staleEpoch := sat 16 (p.staleEpoch + 1) }
def Dev.dropReplay (d : Dev) (port : Nat) : Dev := d.onPort port fun p => { p with replays := sat 32 (p.replays + 1) }

/-- A tag has failed (R191): counted on the port and for the partition, whose error source is raised at most once per ms. -/
def Dev.tagFailed (d : Dev) (port part : Nat) : Dev :=
  (((d.onPort port fun p => { p with tagFails := sat 32 (p.tagFails + 1) }).addCount part 8 1).addGlobal (64 + port) 1).errorOnce part
    .channel

/-- A packet has been accepted for a partition (R411 counter 1, R415). -/
def Dev.acceptedPkt (d : Dev) (port part payload blocks : Nat) : Dev :=
  let d := ((d.onPort port fun p => { p with rxPackets := sat 64 (p.rxPackets + 1) }).addCount part 1 payload).addGlobal (32 + port) payload
  if blocks = 0 then d else d.portBlocks port part blocks

/-- The channel slot a packet names (R174, R183): direction, partition, peer and id. -/
def Dev.findChan (d : Dev) (rx : Bool) (part node peerPart id : Nat) : Option (Nat × Chan) :=
  d.chans.find? fun e => e.2.st ≠ .free && e.2.rx = rx && e.2.thread = part && e.2.peerNode = node && e.2.peerPart = peerPart && e.2.id = id

/-- A receive channel takes the header's epoch: the current one, up to 15 beyond it, or the kept one (R188). -/
def Dev.rxEpochOk (d : Dev) (c : Chan) (e : Nat) : Bool :=
  (decide (c.epoch ≤ e) && decide (e ≤ c.epoch + 15)) || c.former.any fun f => f.1 = e && decide (d.time < f.2 + d.chTimeout)

/-- A transmit channel takes acknowledgements of its current epoch and of those it left within the timeout (R513). -/
def Dev.txEpochOk (d : Dev) (c : Chan) (e : Nat) : Bool :=
  e = c.epoch || c.former.any fun f => f.1 = e && decide (d.time < f.2 + d.chTimeout)

/-- Move a receive channel to a later epoch on the first packet that verifies under it (R188). -/
def Dev.rxEpoch (d : Dev) (slot e : Nat) : Dev :=
  let c := d.ch slot
  if e ≤ c.epoch then d
  else
    let d := d.setCh slot { c with epoch := e, former := [(c.epoch, d.time)],
                                   keys := c.keys.filter fun k => k.epoch = c.epoch || decide (e ≤ k.epoch) }
    match d.chanKey slot (e + 1) (d.domBit c.thread) with
    | some (_, d) => d
    | none => d

/-- The floor past every set bit at the bottom of the map (R189). -/
def advanceFloor (n f : Nat) (seen : List Nat) : Nat :=
  match n with
  | 0 => f
  | k + 1 => if seen.contains f then advanceFloor k (f + 1) seen else f

/-! ## A port's Landing and staging registers (R153, R190, R206, R226, R254, R318; notes/assumptions/92.md) -/

/-- Bytes a port's Landing holds: payloads above gaps, domain fragments and messages, requests for square reads that wait, the words of
masked-sum accumulators. -/
def Dev.landingBytes (d : Dev) (port : Nat) : Nat :=
  d.chans.foldl (fun n e => e.2.waiting.foldl (fun n w => if w.port = port && !w.staged then n + w.payload.length else n) n) 0
  + d.assembling.foldl (fun n r => if r.port = port then r.got.foldl (fun n g => n + g.2.length) n else n) 0
  + d.inbox.foldl (fun n m => if m.1 = port then n + m.2.length else n) 0
  + 32 * (d.sqResps.filter fun r => r.port = port && r.waiting).length
  + d.squares.foldl (fun n e => e.2.ctxs.foldl (fun n c => c.accs.foldl (fun n a =>
      if a.port = port then n + 4 * (a.lanes.length + (a.own.map fun o => o.1.length).getD 0) else n) n) n) 0

def Dev.landingKib (d : Dev) (port : Nat) : Nat := (d.landingBytes port + 1023) / 1024

/-- A payload finds room in the port's Landing of 512 KiB. -/
def Dev.landingRoom (d : Dev) (port bytes : Nat) : Bool := decide (d.landingBytes port + bytes ≤ 524288)

/-- A payload is in the port's Landing until its tag has been checked: the high-water mark takes it in. -/
def Dev.landingMark (d : Dev) (port bytes : Nat) : Dev :=
  d.onPort port fun p => { p with landingHigh := max p.landingHigh ((d.landingBytes port + bytes + 1023) / 1024) }

/-- A channel payload takes one of the port's 16 staging registers: up to 256 bytes while one is free. -/
def Dev.stages (d : Dev) (port bytes : Nat) : Bool :=
  decide (bytes ≤ 256)
    && decide (d.chans.foldl (fun n e => n + (e.2.waiting.filter fun w => w.port = port && w.staged).length) 0 < 16)

/-- What a packet that leaves staging register or Landing brings to the merge buffers: plaintext. -/
def Waiting.plain (w : Waiting) (id : Nat) : Bytes := if w.staged then w.payload else gcmPlain w.key (chanIv id w.seq) w.payload

/-- Release a packet of a channel (R193, R197): data to the merge buffers, a marker to the marker logic. -/
def Dev.releasePkt (d : Dev) (slot : Nat) (w : Waiting) : Dev :=
  if w.marker then
    let d := d.onCh slot fun c => { c with markerDue := some (w.seq, w.epoch), latestMarker := some w.seq, markAck := [], ackAgain := false }
    forBelow (Kind.ports d.kind) (fun p d => d.onPort p fun x =>
      { x with markerReleased := if x.markerReleased.contains slot then x.markerReleased else x.markerReleased ++ [slot] }) d
  else d.commit (d.ch slot).thread w.add true (some (slot, w.seq)) w.offset (w.plain (d.ch slot).id)

/-- The window takes a verified packet (R189, R258): packets release in order of sequence, those above a gap wait. -/
def Dev.windowTake (d : Dev) (slot : Nat) (w : Waiting) : Dev :=
  let c := d.ch slot
  let seen := c.seen ++ [w.seq]
  let f := advanceFloor (seen.length + 1) c.floor seen
  let all := c.waiting ++ [w]
  let go := (all.filter fun x => decide (x.seq < f)).mergeSort fun x y => decide (x.seq ≤ y.seq)
  let d := d.setCh slot { c with
    floor := f, seen := seen.filter fun x => decide (f ≤ x), waiting := all.filter fun x => decide (f ≤ x.seq),
    gapSince := if f ≠ c.floor || c.waiting.isEmpty then d.time else c.gapSince,
    advancedAt := if f ≠ c.floor && c.floor = c.creditFloor then d.time else c.advancedAt }
  (forEach go (fun x d => d.releasePkt slot x) d).maybeCredit slot

/-- The stored MARK_ACK of a channel goes again (R198), or waits for a link (R185). -/
def Dev.ackAgain (d : Dev) (slot : Nat) : Dev :=
  let c := d.ch slot
  if c.markAck.isEmpty then d
  else match d.route c.peerNode none with
    | some (q, d) => (d.sendOn q c.thread c.markAck 0).onCh slot fun c => { c with ackAgain := false }
    | none => d.onCh slot fun c => { c with ackAgain := true }

/-- A DATA or MARKER packet for a channel of this node (R188 to R191, R198, R318). -/
def Dev.rxPacket (d : Dev) (port : Nat) (p : Pkt) : Dev :=
  let src := leAt p.head 8 4
  let id := leAt p.head 12 4
  let seq := leAt p.head 16 8
  let epoch := leAt p.head 24 2
  match d.findChan true p.dstPart (fld src 0 14) (fld src 14 5) id with
  | none => d.dropNoChannel port
  | some (slot, c) =>
    if c.st ≠ .open_ then d.dropNoChannel port
    else if !d.rxEpochOk c epoch then d.dropStale port
    else
      let again := p.kind = 2 && decide (seq < c.floor) && c.latestMarker = some seq
      if !again && (decide (seq < c.floor) || decide (c.floor + 1024 ≤ seq) || c.seen.contains seq) then d.dropReplay port
      else match d.chanKey slot epoch p.dom with
        | none => d.dropStale port
        | some (key, d) =>
          match d.chanOpen slot epoch p.dom key (chanIv id seq) p.head p.payload p.tag with
          | none => d.tagFailed port c.thread
          | some (key, plain) =>
            if p.kind = 2 && !zeroAt plain 8 24 then d.dropMalformed port
            else if again then d.ackAgain slot
            else
              let d := (d.rxEpoch slot epoch).acceptedPkt port c.thread p.payload.length (gcmBlocks p.payload.length)
              let staged := d.stages port p.payload.length
              d.windowTake slot
                { seq := seq, marker := p.kind = 2, epoch := epoch, dom := p.dom, add := p.up = 1, offset := leAt p.head 26 6,
                  staged := staged, key := if staged then 0 else key, payload := if staged then plain else p.payload, port := port }

/-- Adjust the RFENCE that waits on a marker. -/
def Dev.markerEnds (d : Dev) (k : MarkerOut) (acked : Bool) : Dev :=
  d.onFlight k.thread k.row fun x => if acked then { x with acked := x.acked + 1 } else { x with timedOut := x.timedOut + 1 }

/-- A MARK_ACK or CREDIT packet for a transmit channel of this node (R192, R198, R513). -/
def Dev.txAck (d : Dev) (port : Nat) (p : Pkt) : Dev :=
  let src := leAt p.head 8 4
  let id := leAt p.head 12 4
  let seq := leAt p.head 16 8
  let epoch := leAt p.head 24 2
  match d.findChan false p.dstPart (fld src 0 14) (fld src 14 5) id with
  | none => d.dropNoChannel port
  | some (slot, c) =>
    if !(c.st = .open_ || c.st = .closing) then d.dropNoChannel port
    else if !d.txEpochOk c epoch then d.dropStale port
    else match d.chanKey slot epoch p.dom with
      | none => d.dropStale port
      | some (key, d) =>
        match d.chanOpen slot epoch p.dom key (chanIv id seq) p.head p.payload p.tag with
        | none => d.tagFailed port c.thread
        | some (_, plain) =>
          if !zeroAt plain (if p.kind = 3 then 8 else 10) (if p.kind = 3 then 24 else 22) then d.dropMalformed port
          else if p.kind = 3 then
            match c.marker with
            | some k =>
              if k.sent && seq = 2 ^ 63 + k.m then
                let d := ((d.acceptedPkt port c.thread 0 (gcmBlocks 32)).markerEnds k true).onCh slot fun c => { c with marker := none }
                let d := d.atticPut 4 c.thread k.row Status.done c.id (d.time - k.firstSent) (whoPeer c.peerNode c.peerPart) k.m
                d.sendChan slot
              else d.dropReplay port
            | none => d.dropReplay port
          else
            let k := seq - (2 ^ 63 + 2 ^ 62)
            if seq < 2 ^ 63 + 2 ^ 62 ∨ (c.lastCredit.any fun l => decide (k ≤ l)) = true then d.dropReplay port
            else
              let d := (d.acceptedPkt port c.thread 0 (gcmBlocks 32)).onCh slot fun c =>
                { c with lastCredit := some k, credited := max c.credited (leAt plain 0 8), grant := leAt plain 8 2 }
              d.sendChan slot

/-! ## Markers, acknowledgements, credits (R196 to R200) -/

/-- Send MARK_ACK for a released marker once all before it has drained, and keep the packet (R197): under the marker's epoch and the
domain epoch in force (R163, R205). -/
def Dev.markerAck (d : Dev) (slot : Nat) : Dev :=
  let c := d.ch slot
  match c.markerDue with
  | none => d
  | some (m, epoch) =>
    let dom := d.domBit c.thread
    if !(c.rx && (c.st = .open_ || c.st = .closing) && decide (m < c.floor) && d.markerDrained slot m) then d
    else match d.route c.peerNode none with
      | none => d
      | some (p, d) =>
        match d.chanKey slot epoch dom with
        | none => d
        | some (key, d) =>
          let seq := 2 ^ 63 + m
          let head := chanHead 3 dom 1 0 c.peerPart c.peerNode c.thread d.hall.node.toNat c.id seq epoch 0
          let pkt := sealPacket key (chanIv c.id seq) head (natLe 8 m ++ List.replicate 24 0)
          (d.sendOn p c.thread pkt (gcmBlocks 32)).onCh slot fun c => { c with markAck := pkt, markerDue := none }

/-- What the end of an RFENCE leaves: its Attic record and counter 13 (R411, R418). -/
def Dev.rfenceRecord (d : Dev) (thread row : Nat) (x : Flight) (st : Byte) : Dev :=
  (d.atticPut 3 thread row st x.markers (d.time - x.dispatchedAt) 0 (sat 32 x.acked + sat 32 x.timedOut * 2 ^ 32)).addCount thread 13
    (d.time - x.dispatchedAt)

/-- Finish an RFENCE with its status (R199). -/
def Dev.rfenceDone (d : Dev) (thread row : Nat) (x : Flight) : Dev :=
  let st := if x.lost then Status.channelDown else if x.timedOut ≠ 0 then Status.peerTimeout else Status.done
  (d.rfenceRecord thread row x st).finish thread row st

/-- Transmit channels of a partition in OPEN or CLOSING. -/
def Dev.txSlots (d : Dev) (part : Nat) : List Nat :=
  (d.chans.filter fun e => e.2.thread = part && !e.2.rx && (e.2.st = .open_ || e.2.st = .closing)).map (·.1)

/-- RFENCE at its engine (R196, R199): a marker on every transmit channel in OPEN or CLOSING, each with its next sequence. -/
def Dev.rfence (d : Dev) (thread row : Nat) (x : Flight) : Dev :=
  let lost := d.chans.any fun e => e.2.thread = thread && !e.2.rx && e.2.st = .down
  let slots := d.txSlots thread
  let d := d.onFlight thread row fun x => { x with lost := lost, markers := slots.length }
  if slots.isEmpty then d.rfenceDone thread row { x with lost := lost }
  else
    let d := d.working thread row
    forEach slots (fun s d =>
      let c := d.ch s
      if 2 ^ 62 ≤ c.next + 1 then (d.onFlight thread row fun x => { x with lost := true }).chanDown s 8 d.time
      else (d.setCh s { c with next := c.next + 1,
                               marker := some { m := c.next, since := d.time, firstSent := 0, lastSent := 0, thread := thread, row := row } }).sendChan s) d

/-- RFENCE completes once no channel waits on a marker of its (R199). -/
def Dev.rfenceEnd (d : Dev) (thread row : Nat) : Dev :=
  match d.flight thread row with
  | some x =>
    if x.stage = .running && (Step.of x.step).op = some .rfence &&
        !(d.chans.any fun e => match e.2.marker with
          | some k => k.thread = thread && k.row = row
          | none => false) then d.rfenceDone thread row x
    else d
  | none => d

/-- Resend an unacknowledged marker after a quarter of the channel timeout (R198). -/
def Dev.markerAgain (d : Dev) (slot : Nat) : Dev :=
  let c := d.ch slot
  match c.marker with
  | some k =>
    if k.sent && decide (k.lastSent + d.chTimeout / 4 ≤ d.time) then
      match d.route c.peerNode none with
      | some (p, d) => (d.sendOn p c.thread k.bytes 0).onCh slot fun c => { c with marker := some { k with lastSent := d.time } }
      | none => d
    else d
  | none => d

/-- When a marker's timeout began: its first send, or its RFENCE's dispatch while it is held (notes/assumptions/30.md). -/
def MarkerOut.start (k : MarkerOut) : Nat := if k.sent then k.firstSent else k.since

/-- Channel timeouts (R200): what arrives in the cc in which one is reached stands (R205), so it takes effect in the cc after. -/
def Dev.markerLate (d : Dev) (slot : Nat) : Dev :=
  match (d.ch slot).marker with
  | some k => if k.start + d.chTimeout < d.time then d.chanDown slot 1 k.start else d
  | none => d

def Dev.creditStall (d : Dev) (slot : Nat) : Dev :=
  match (d.ch slot).held with
  | r :: _ => if r.since + d.chTimeout < d.time then d.chanDown slot 2 r.since else d
  | [] => d

def Dev.gapLate (d : Dev) (slot : Nat) : Dev :=
  let c := d.ch slot
  if c.rx && c.st = .open_ && !c.waiting.isEmpty && decide (c.gapSince + d.chTimeout ≤ d.time) then d.chanDown slot 3 c.gapSince else d

/-- A CREDIT 1 us after a floor advance not yet reported (R192). -/
def Dev.creditTimer (d : Dev) (slot : Nat) : Dev :=
  let c := d.ch slot
  if c.rx && c.st = .open_ && decide (c.creditFloor < c.floor) && decide (c.advancedAt + 1000 ≤ d.time) then d.sendCredit slot else d

/-- Former epochs stop being accepted one channel timeout after they were left (R188, R513). -/
def Dev.keptExpiry (d : Dev) (slot : Nat) : Dev :=
  let gone := (d.ch slot).former.filter fun f => decide (f.2 + d.chTimeout ≤ d.time)
  if gone.isEmpty then d
  else d.onCh slot fun c =>
    { c with former := c.former.filter fun f => !gone.contains f,
             keys := c.keys.filter fun k => k.epoch = c.epoch || !gone.any fun f => f.1 = k.epoch }

/-! ## Opening and synchronisation (R181 to R184, R512) -/

/-- The transmit id floor of a partition (R181). -/
def Dev.txFloor (d : Dev) (part : Nat) : Nat := (d.part part).txFloor

/-- CHOPEN at its engine (R181, R182): checks in order, keys, and for a receive channel the first SYNC_REQ. It waits while
the DRBG cannot give the nonce. -/
def Dev.chopen (d : Dev) (thread row : Nat) (x : Flight) : Dev :=
  let s := Step.of x.step
  let rx := bitOf s.c 0
  let node := fld s.d 0 14
  let part := fld s.d 16 5
  let id := fld s.d 32 32
  if !d.hall.nodeValid then d.finish thread row Status.denied
  else if (d.domKey thread).isNone then d.finish thread row Status.denied
  else if node = d.hall.node.toNat || (d.findChan rx thread node part id).isSome || (!rx && decide (id < d.txFloor thread)) then
    d.finish thread row Status.badField
  else if rx && !d.canDraw then d.awaitDrbg thread row
  else
    let nonce := d.drawn (drawLabel (d.partOf thread) x.slot)
    let d := if rx then d.drew else d.onPart thread fun p => { p with txFloor := id + 1 }
    let c : Chan :=
      { st := if rx then .syncing else .open_, rx := rx, thread := thread, index := hIndex s.a, gen := hGen s.a, peerNode := node,
        peerPart := part, id := id, creditGrant := 1024,
        answered := if rx then [] else
          ((d.part thread).syncAnswers.filter fun a => a.node = node && a.part = part && a.id = id).map fun a => (a.nonce, a.msg) }
    let d := d.setCh x.slot c
    let d := match d.chanKey x.slot 0 (d.domBit thread) with
      | some (_, d) => d
      | none => d
    let d := if rx then
        let msg := natLe 4 id ++ List.replicate 28 0 ++ keyBytes nonce
        let d := match d.chanKey x.slot 1 (d.domBit thread) with
          | some (_, d) => d
          | none => d
        let d := d.onCh x.slot fun c => { c with syncNonce := nonce, syncMsg := msg, syncSent := d.time, syncSends := 1 }
        d.sendCtrl thread node part 2 msg
      else d
    d.finish thread row Status.done

/-- Resend SYNC_REQ after a channel timeout; after four sends the channel goes DOWN (R183, R200). -/
def Dev.syncAgain (d : Dev) (slot : Nat) : Dev :=
  let c := d.ch slot
  if c.st ≠ .syncing || decide (d.time < c.syncSent + d.chTimeout) then d
  else if 4 ≤ c.syncSends then d.chanDown slot 4 c.syncSent
  else
    let d := d.onCh slot fun c => { c with syncSent := d.time, syncSends := c.syncSends + 1 }
    d.sendCtrl c.thread c.peerNode c.peerPart 2 c.syncMsg

/-- The HMAC of a SYNC_ACK (R180). -/
def syncMac (key : Key) (head payload : Bytes) : Bytes := hmac (keyBytes key) (authHead head ++ slice payload 0 64)

/-- Send a SYNC_ACK and give back its payload (R180, R184). -/
def Dev.sendSyncAck (d : Dev) (key : Key) (part node peerPart id state epoch next : Nat) (nonce : Bytes) : Dev × Bytes :=
  let body := natLe 4 id ++ natLe 1 state ++ [0] ++ natLe 2 epoch ++ natLe 8 next ++ List.replicate 16 0 ++ nonce
  let mac := syncMac key (ctrlHead d.hall.node.toNat part node peerPart 3 4) body
  let msg := body ++ mac ++ List.replicate 16 0
  (d.sendCtrl part node peerPart 3 msg, msg)

/-- The SYNC_ACK already sent for a requester's nonce (R512): kept with the channel, or with the partition while none is open. -/
def Dev.syncAnswered (d : Dev) (part node peer id : Nat) (nonce : Bytes) : Option Bytes :=
  match d.findChan false part node peer id with
  | some (_, c) => (c.answered.find? fun a => a.1 = nonce).map (·.2)
  | none => ((d.part part).syncAnswers.find? fun a => a.node = node && a.part = peer && a.id = id && a.nonce = nonce).map (·.msg)

/-- A SYNC_REQ is answered by the transmitting partition's Kerre (R184, R512): a nonce answered before gets the same bytes. -/
def Dev.syncReq (d : Dev) (port : Nat) (p : Pkt) : Dev :=
  let src := leAt p.head 8 4
  let node := fld src 0 14
  let peer := fld src 14 5
  let id := leAt p.payload 0 4
  let nonce := slice p.payload 32 32
  match d.domKey p.dstPart with
  | none => d.dropNoChannel port
  | some key =>
    match d.syncAnswered p.dstPart node peer id nonce with
    | some msg => d.sendCtrl p.dstPart node peer 3 msg
    | none =>
      match d.findChan false p.dstPart node peer id with
      | some (slot, c) =>
        let keep (msg : Bytes) (c : Chan) : Chan := { c with answered := c.answered ++ [(nonce, msg)] }
        if c.st = .open_ then
          if decide (c.sendNext ≤ c.credited) && decide (c.epoch < 0xFFFE) then
            let d := d.advanceEpoch slot
            let c := d.ch slot
            let (d, msg) := d.sendSyncAck key p.dstPart node peer id 1 c.epoch c.sendNext nonce
            d.onCh slot fun c => keep msg { c with lastCredit := none }
          else
            let (d, msg) := (d.chanDown slot 5 d.time).sendSyncAck key p.dstPart node peer id 2 0 0 nonce
            d.onCh slot (keep msg)
        else
          let (d, msg) := d.sendSyncAck key p.dstPart node peer id 3 0 0 nonce
          d.onCh slot (keep msg)
      | none =>
        let (d, msg) := d.sendSyncAck key p.dstPart node peer id (if id < d.txFloor p.dstPart then 3 else 0) 0 0 nonce
        d.onPart p.dstPart fun x =>
          { x with syncAnswers := x.syncAnswers ++ [{ node := node, part := peer, id := id, nonce := nonce, msg := msg }] }

/-- A SYNC_ACK reaches a syncing receive channel (R183). -/
def Dev.syncAck (d : Dev) (port : Nat) (p : Pkt) : Dev :=
  let src := leAt p.head 8 4
  let id := leAt p.payload 0 4
  match d.findChan true p.dstPart (fld src 0 14) (fld src 14 5) id with
  | none => d.dropNoChannel port
  | some (slot, c) =>
    if c.st ≠ .syncing || slice p.payload 32 32 ≠ keyBytes c.syncNonce then d.dropNoChannel port
    else if !((d.domKeys c.thread).any fun k => syncMac k.1 p.head p.payload = slice p.payload 64 48) then
      (((d.onPort port fun x => { x with tagFails := sat 32 (x.tagFails + 1) }).addCount c.thread 8 1).addGlobal (64 + port) 1)
    else
      let state := leAt p.payload 4 1
      if state ≤ 1 then
        let f := leAt p.payload 8 8
        let e := leAt p.payload 6 2
        let d := d.setCh slot { c with st := .open_, floor := f, seen := [], epoch := e, creditFloor := f, creditNum := 0, gapSince := d.time }
        let d := match d.chanKey slot e (d.domBit c.thread) with
          | some (_, d) => d
          | none => d
        match d.chanKey slot (e + 1) (d.domBit c.thread) with
        | some (_, d) => d
        | none => d
      else d.chanDown slot 5 d.time

/-! ## Closing and eviction (R194, R195) -/

/-- A closing channel has drained (R194). -/
def Dev.chanDrained (d : Dev) (slot : Nat) : Bool :=
  let c := d.ch slot
  if c.rx then !d.merge.any fun e => e.touches.any fun t => t.1 = slot
  else c.held.isEmpty && c.marker.isNone

/-- A channel goes to CLOSING; what waits above a gap is dropped (R194; notes/assumptions/31.md), an acknowledgement that is due stays due
(R197). A DOWN one stays DOWN. -/
def Dev.closeChan (d : Dev) (slot : Nat) : Dev :=
  d.onCh slot fun c => if c.st = .down || c.st = .free then c else { c with st := .closing, waiting := [] }

/-- A channel slot is FREE again; requests still held are answered STALE_HANDLE (R182, R490). -/
def Dev.freeChan (d : Dev) (slot : Nat) : Dev :=
  let c := d.ch slot
  let d := forEach c.held (fun r d => d.answer r.port r.tag Status.staleHandle) d
  let d := { (d.setCh slot {}) with chanPool := d.chanPool.put slot }
  { d with merge := d.merge.map fun e => { e with touches := e.touches.filter fun t => t.1 ≠ slot, chans := e.chans.filter (· ≠ slot) } }

/-- Evict a channel (R195): its handle goes stale, its owner's error source is raised and its notice set. -/
def Dev.evict (d : Dev) (slot : Nat) : Dev :=
  let c := d.ch slot
  if c.st = .free || c.st = .closing then d
  else
    let d := d.onTh c.thread fun t =>
      let e := t.handle .channel c.index
      t.setHandle .channel c.index { e with gen := nextGen e.gen, st := .closing }
    let d := (d.closeChan slot).onCh slot fun c => { c with evicted := true }
    let d := (d.onHall fun h => { h with evicted := sat 32 (h.evicted + 1) }).errorOf c.thread
    d.notice c.thread 3

/-- Evicted channels that have drained, or were DOWN, are freed with their handle entries; an acknowledgement that is due leaves first. -/
def Dev.reapEvicted (d : Dev) : Dev :=
  d.chans.foldl (fun d e =>
    if e.2.evicted && (e.2.st = .down || (e.2.st = .closing && d.chanDrained e.1)) then
      ((d.markerAck e.1).onTh e.2.thread fun t =>
        let h := t.handle .channel e.2.index
        t.setHandle .channel e.2.index { h with st := .free, slot := 0 }).freeChan e.1
    else d) d

/-- `CHCLOSE` at its engine (R194): a DOWN channel has nothing to drain. -/
def Dev.chclose (d : Dev) (thread row slot : Nat) : Dev :=
  let d := d.closeChan slot
  if (d.ch slot).st = .down || d.chanDrained slot then (d.markerAck slot).finish thread row Status.done else d.working thread row

/-- CHEPOCH at its engine (R187). -/
def Dev.chepoch (d : Dev) (thread row slot : Nat) : Dev :=
  let c := d.ch slot
  if c.rx then d.finish thread row Status.badField
  else if c.st = .down then d.finish thread row Status.channelDown
  else if 0xFFFE ≤ c.epoch then d.finish thread row Status.keyEpoch
  else (d.advanceEpoch slot).finish thread row Status.done

/-! ## Links (R185) -/

/-- All that a channel holds for a link goes on (R185): requests, its marker and the marker's resend, acknowledgements and credits. -/
def Dev.linksUp (d : Dev) : Dev :=
  d.chans.foldl (fun d e =>
    let d := ((d.sendChan e.1).markerAgain e.1).markerAck e.1
    let d := if (d.ch e.1).ackAgain then d.ackAgain e.1 else d
    (d.maybeCredit e.1).creditTimer e.1) d

/-! ## Rate of clear packets (R180) -/

/-- A CTRL packet within the port's rate: `clearUsed` counts thousandths of a packet owed. -/
def Dev.clearTake (d : Dev) (port : Nat) : Bool × Dev :=
  let p := d.port port
  let r := p.clearRate.toNat
  let used := p.clearUsed - r * (d.time - p.clearSince)
  if used + 1000 ≤ 16000 * r then (true, d.onPort port fun p => { p with clearUsed := used + 1000, clearSince := d.time })
  else (false, d.onPort port fun p => { p with clearUsed := used, clearSince := d.time, ctrlOver := sat 16 (p.ctrlOver + 1) })

end Sys2Proof.Machine
end

