-- ==== Sys2Proof/Machine/Sums.lean ====
section
/-! DEFINITION. Masked sums (R210 to R234): the field, masks and tags, SUM packets, contexts, requests, gathering, the
receiver's accumulators and rings, fallback. -/

namespace Sys2Proof.Machine

/-! ## The field (R210 to R212) -/

/-- p = 2^32 - 5 (R210). -/
def sumP : Nat := 4294967291

/-- A signed 32-bit value enters the field (R211), with whether it was clamped. -/
def toField (v : Nat) : Nat × Bool :=
  if v < 2 ^ 31 then (if 2147483645 < v then (2147483645, true) else (v, false))
  else
    let m := 2 ^ 32 - v
    if 2147483645 < m then (sumP - 2147483645, true) else (sumP - m, false)

/-- A field element leaves the field as a 32-bit word in two's complement (R212). -/
def ofField (x : Nat) : Nat := if x ≤ 2147483645 then x else 2 ^ 32 - (sumP - x)

/-- Distance of a field element's value from zero (R228). -/
def fieldMag (x : Nat) : Nat := if x ≤ 2147483645 then x else sumP - x

/-- Vectors of field words; a missing word is zero. -/
def addVec : List Nat → List Nat → List Nat
  | [], b => b
  | a, [] => a
  | x :: a, y :: b => (x + y) % sumP :: addVec a b

def negWord (x : Nat) : Nat := (sumP - x % sumP) % sumP

/-- 32-bit words of a byte string. -/
def words32 (b : Bytes) : List Nat := (List.range (b.length / 4)).map fun i => leAt b (4 * i) 4

/-- Byte string of 32-bit words. -/
def wordBytes (l : List Nat) : Bytes := l.flatMap fun x => natLe 4 x

/-! ## Masks and tags (R217, R218) -/

/-- What a mask block depends on beside stream, contributor and block (R217). -/
structure MaskAt where
  sumId : Nat
  ringId : Nat
  pktsM1 : Nat
  pkt : Nat
  offset : Nat

/-- The 16 bytes a mask block is encrypted from (R217). -/
def MaskAt.block (m : MaskAt) (tagStream : Bool) (n blk : Nat) : Bytes :=
  natLe 4 m.sumId ++ natLe 2 m.ringId ++ natLe 2 (b2n tagStream * 2 ^ 15 + n)
    ++ natLe 8 (m.pktsM1 % 1024 * 2 ^ 54 + m.pkt % 1024 * 2 ^ 44 + blk % 2 ^ 44)

/-- The four words of a mask block, each reduced (R217). -/
def MaskAt.words (m : MaskAt) (rks : List (List Nat)) (tagStream : Bool) (n blk : Nat) : List Nat :=
  (words32 (toBytes (aesWith rks (toNats (m.block tagStream n blk))))).map fun w => if sumP ≤ w then w - sumP else w

/-- F_j(n) for every lane (R217). -/
def MaskAt.lanes (m : MaskAt) (rks : List (List Nat)) (n l : Nat) : List Nat :=
  (List.range (l / 4)).flatMap fun b => m.words rks false n (m.offset / 16 + b)

/-- u_k(n) (R217). -/
def MaskAt.tags (m : MaskAt) (rks : List (List Nat)) (n : Nat) : List Nat := m.words rks true n (m.offset / 16)

/-- t(k, x) for one hash key (R218). -/
def hashLanes (h : Nat) (x : List Nat) : Nat := x.foldr (fun v r => (r + v) * h % sumP) 0

/-- t(k, x) for k = 0 to 3 (R218). -/
def MaskAt.hash (m : MaskAt) (rks : List (List Nat)) (x : List Nat) : List Nat :=
  (m.tags rks 0x7FFF).map fun h => hashLanes h x

/-- y and tau of a contributor (R218): x + F(i) - F(i + 1) for i > 0, x - F(1) + F(N) for the receiver. -/
def MaskAt.mask (m : MaskAt) (rks : List (List Nat)) (i n : Nat) (x : List Nat) : List Nat × List Nat :=
  let plus := if i = 0 then n else i
  let minus := i + 1
  (addVec (addVec x (m.lanes rks plus x.length)) ((m.lanes rks minus x.length).map negWord),
   addVec (addVec (m.hash rks x) (m.tags rks plus)) ((m.tags rks minus).map negWord))

/-- The square key for a domain epoch bit (R163, R217). -/
def Square.keyFor (s : Square) (dom : Bool) : Option Key := if s.keyDom = dom then some s.key else s.other

/-! ## The SUM packet (R220, R221) -/

/-- The fields of a SUM packet. -/
structure SumPkt where
  dom : Bool
  dstPart : Nat
  at_ : MaskAt
  count : Nat
  expect : Nat
  lanes : List Nat
  taus : List Nat
  bytes : Nat

def SumPkt.of (p : Pkt) : SumPkt :=
  { dom := p.dom, dstPart := p.dstPart,
    at_ := { sumId := leAt p.head 8 4, ringId := leAt p.head 12 2, pkt := leAt p.head 18 2, pktsM1 := leAt p.head 20 2,
             offset := leAt p.head 24 6 },
    count := leAt p.head 14 2, expect := leAt p.head 16 2, lanes := words32 p.payload, taus := words32 p.tag,
    bytes := p.payload.length }

/-- Malformed SUM packets (R221). -/
def sumMalformed (p : Pkt) : Bool :=
  let s := SumPkt.of p
  p.rsv1 ≠ 0 || p.version ≠ 1 || p.up ≠ 0 || !p.whole || decide (1023 < s.at_.pkt) || decide (1023 < s.at_.pktsM1)
    || leAt p.head 22 2 ≠ 0 || leAt p.head 30 2 ≠ 0 || s.at_.offset % 32 ≠ 0 || decide (s.at_.pktsM1 < s.at_.pkt)
    || s.expect = 0 || decide (16384 < s.expect) || s.count = 0
    || s.lanes.any (fun x => decide (sumP ≤ x)) || s.taus.any (fun x => decide (sumP ≤ x))

/-- The bytes of a SUM packet (R220, R221). -/
def sumBytes (dom : Bool) (node part : Nat) (m : MaskAt) (count expect : Nat) (lanes taus : List Nat) : Bytes :=
  headFirst 0x10 dom (lanes.length / 8) 0 part node ++ natLe 4 m.sumId ++ natLe 2 m.ringId ++ natLe 2 count ++ natLe 2 expect
    ++ natLe 2 m.pkt ++ natLe 2 m.pktsM1 ++ [0, 0] ++ natLe 6 m.offset ++ [0, 0] ++ wordBytes lanes ++ wordBytes taus
    ++ List.replicate 16 0

/-- A SUM packet leaves on a port (R232, R237). -/
def Dev.sendSum (d : Dev) (port part : Nat) (bytes : Bytes) (blocks : Nat) : Dev :=
  (d.onPort port fun p => { p with sumTx := sat 64 (p.sumTx + 1) }).sendOn port part bytes blocks

/-! ## Contexts (R213, R216) -/

def SumCtx.pair (c : SumCtx) : Nat := c.sumId * 65536 + c.ringId

/-- The context of a partition for a pair, with its square. -/
def Dev.findCtx (d : Dev) (part pair : Nat) : Option (Nat × SumCtx) :=
  d.squares.findSome? fun e =>
    if e.2.st ≠ .free && e.2.thread = part then (e.2.ctxs.find? fun c => c.pair = pair).map fun c => (e.1, c) else none

/-- The context of a square for a pair. -/
def Dev.ctxOf (d : Dev) (sq pair : Nat) : Option SumCtx := (d.sq sq).ctxs.find? fun c => c.pair = pair

def Dev.onCtx (d : Dev) (sq pair : Nat) (f : SumCtx → SumCtx) : Dev :=
  d.onSq sq fun s => { s with ctxs := s.ctxs.map fun c => if c.pair = pair then f c else c }

def Dev.dropCtx (d : Dev) (sq pair : Nat) : Dev := d.onSq sq fun s => { s with ctxs := s.ctxs.filter fun c => c.pair ≠ pair }

/-- A request has been sent for every pkt (R216). -/
def SumCtx.allSent (c : SumCtx) : Bool := match c.reqPkts with
  | some n => (List.range n).all fun k => c.sent.contains k
  | none => false

/-- Every pkt is committed or failed (R229). -/
def SumCtx.ended (c : SumCtx) : Bool := match c.pkts with
  | some n => (List.range n).all fun k => c.committed.contains k || c.failed.any fun f => f.1 = k
  | none => false

/-- Free a contributor's or fallback context that has sent all (R216). -/
def Dev.reapCtx (d : Dev) (sq pair : Nat) : Dev :=
  match d.ctxOf sq pair with
  | some c =>
    if c.allSent && (c.st = .fallback || (c.st = .open_ && c.index ≠ 0 && c.accs.isEmpty)) then d.dropCtx sq pair else d
  | none => d

/-- Why `SUMSET` is refused at check 3 of R53 (R213). -/
def Dev.sumsetBad (d : Dev) (thread : Nat) (s : Step) : Bool :=
  let i := fld s.c 0 14
  let v := fld s.d 0 32 * 65536 + fld s.d 32 16
  decide (fld s.d 48 14 < i) || (d.findCtx thread v).isSome || (!bitOf s.c 15 && decide (v < (d.part thread).sumFloor))

/-- `SUMSET` at its engine (R213). It waits while the square's 16 contexts are live (R216). -/
def Dev.sumset (d : Dev) (thread row : Nat) (x : Flight) : Dev :=
  let s := Step.of x.step
  let q := d.sq x.slot
  let v := fld s.d 0 32 * 65536 + fld s.d 32 16
  if q.st = .gone then d.finish thread row Status.squareGone
  else if d.sumsetBad thread s then d.finish thread row Status.badField
  else if 16 ≤ q.ctxs.length then d
  else
    let c : SumCtx :=
      { sumId := fld s.d 0 32, ringId := fld s.d 32 16, index := fld s.c 0 14, n := fld s.d 48 14 + 1,
        st := if bitOf s.c 15 then .fallback else .open_, row := row }
    let d := d.onSq x.slot fun q => { q with ctxs := q.ctxs ++ [c] }
    let d := if bitOf s.c 15 then d else d.onPart thread fun p => { p with sumFloor := v + 1 }
    d.finish thread row Status.done

/-! ## Accumulators (R225 to R227) -/

/-- Accumulators open in a port's Landing (R226, R237). -/
def Dev.accsOpen (d : Dev) (port : Nat) : Nat :=
  d.squares.foldl (fun n e => e.2.ctxs.foldl (fun n c => n + (c.accs.filter fun a => a.port = port).length) n) 0

/-- The port's high-water mark of accumulators (R237). -/
def Dev.accMark (d : Dev) (port : Nat) : Dev := d.onPort port fun p => { p with accHigh := max p.accHigh (d.accsOpen port) }

def SumCtx.acc (c : SumCtx) (pkt : Nat) : Option Acc := c.accs.find? fun a => a.pkt = pkt

/-- Put an accumulator into a context, in place of the one of its pkt. -/
def SumCtx.putAcc (c : SumCtx) (a : Acc) : SumCtx := { c with accs := c.accs.filter (fun x => x.pkt ≠ a.pkt) ++ [a] }

def SumCtx.delAcc (c : SumCtx) (pkt : Nat) : SumCtx := { c with accs := c.accs.filter fun x => x.pkt ≠ pkt }

/-- The status of a ring that has ended (R229). -/
def SumCtx.outcome (c : SumCtx) : Byte :=
  if c.status ≠ 0 then c.status
  else if c.failed.any (fun f => f.2 = Status.regionFault) then Status.regionFault
  else if c.failed.any (fun f => f.2 = Status.sumIncomplete) then Status.sumIncomplete
  else if c.failed.any (fun f => f.2 = Status.tagFail) then Status.tagFail
  else if c.near then Status.rangeNear
  else Status.done

/-- Cookie of a ring's sum event (R229). -/
def SumCtx.cookie (c : SumCtx) : BitVec 32 := BitVec.ofNat 32 (c.sumId % 65536 * 65536 + c.ringId)

/-- The Attic record of a receiver's ring that ends with a pkt of its own range (R418). -/
def Dev.ringRecord (d : Dev) (sq pair pkt : Nat) : Dev :=
  match d.ctxOf sq pair with
  | some c =>
    if decide (pkt < c.pkts.getD 0) && c.ended then
      d.atticPut 5 (d.sq sq).thread 0 c.outcome c.cookie.toNat (d.time - c.firstAt.getD d.time) 0
        (c.committed.length % 2 ^ 16 + c.failed.length % 2 ^ 16 * 2 ^ 16)
    else d
  | none => d

/-- A pkt of a receiver's ring has failed (R227, R237). -/
def Dev.failPkt (d : Dev) (sq pair pkt port : Nat) (st : Byte) : Dev :=
  let part := (d.sq sq).thread
  let d := d.onCtx sq pair fun c => { c.delAcc pkt with failed := c.failed ++ [(pkt, st)] }
  let d := d.ringRecord sq pair pkt
  if st = Status.tagFail then
    ((d.onPort port fun p => { p with sumTagFails := sat 16 (p.sumTagFails + 1) }).addCount part 8 1).addGlobal (64 + port) 1
  else if st = Status.sumIncomplete then d.onPort port fun p => { p with sumIncomplete := sat 16 (p.sumIncomplete + 1) }
  else d.errorOf part

/-- Commit a pkt (R228): signed adds through the merge buffers, guard band counted. -/
def Dev.commitPkt (d : Dev) (sq pair : Nat) (a : Acc) (own : List Nat) : Dev :=
  let part := (d.sq sq).thread
  let x := addVec a.lanes own
  let past := (x.filter fun v => decide ((d.part part).sumGuard < fieldMag v)).length
  let d := d.onCtx sq pair fun c => { c.delAcc a.pkt with committed := c.committed ++ [a.pkt], near := c.near || decide (0 < past) }
  let d := if past = 0 then d else d.onPart part fun p => { p with sumRange := sat 32 (p.sumRange + past) }
  (d.commit part true false none a.offset (wordBytes (x.map ofField))).ringRecord sq pair a.pkt

/-- The lanes lie within one region of the partition's fabric window (R227). -/
def Dev.inOneRegion (d : Dev) (part offset len : Nat) : Bool :=
  match d.regionAt part (offset / 128) with
  | some r => decide (offset + len ≤ (d.reg r).base + 2 ^ (d.reg r).log2)
  | none => false

/-- An accumulator stands open in its context (R226, R237). -/
def Dev.openAcc (d : Dev) (sq pair : Nat) (a : Acc) : Dev := (d.onCtx sq pair fun c => c.putAcc a).accMark a.port

/-- Judge a receiver's accumulator after something entered it (R227): a packet, or the own request, with lanes at an offset. -/
def Dev.judgeAcc (d : Dev) (sq pair n : Nat) (a : Acc) (offset lanes : Nat) : Dev :=
  let d := d.openAcc sq pair a
  if n < a.count then d.failPkt sq pair a.pkt a.port Status.sumIncomplete
  else if !d.inOneRegion (d.sq sq).thread a.offset (4 * a.lanes.length) || !d.inOneRegion (d.sq sq).thread offset (4 * lanes) then
    d.failPkt sq pair a.pkt a.port Status.regionFault
  else if a.count < n then d
  else match a.own with
    | none => d.failPkt sq pair a.pkt a.port Status.tagFail
    | some (own, tau) =>
      if addVec a.taus tau = a.tsum then d.commitPkt sq pair a own
      else d.failPkt sq pair a.pkt a.port Status.tagFail

/-- Judge a gathering accumulator (R225): sent when its count reaches the target with the own request present, discarded above
the target. Without a link the combined packet waits. -/
def Dev.judgeGather (d : Dev) (sq pair : Nat) (m : MaskAt) (a : Acc) : Dev :=
  let part := (d.sq sq).thread
  let d := d.openAcc sq pair a
  if a.target < a.count then
    (d.onPort a.port fun p => { p with sumInner := sat 16 (p.sumInner + 1) }).onCtx sq pair fun c => c.delAcc a.pkt
  else match a.hop with
    | none => d
    | some (node, hopPart, expect) =>
      if a.count < a.target then d
      else
        let d := d.onCtx sq pair fun c => c.delAcc a.pkt
        let bytes := sumBytes (d.domBit part) node hopPart m a.target expect a.lanes a.taus
        match d.route node (some a.port) with
        | some (p, d) => d.sendSum p part bytes 0
        | none => { d with parked := d.parked ++ [{ port := a.port, hdr := 0, payload := [], since := d.time, built := some (node, part, bytes) }] }

/-- What the tags of a partial hash to, under the square key its domain bit selects; under the current key where that bit's key
is not held, which leaves tags that fail (R217, R226; notes/assumptions/32.md). -/
def Square.partialHash (q : Square) (s : SumPkt) : List Nat :=
  s.at_.hash (expand ((q.keyFor s.dom).getD q.key)) s.lanes

/-- A SUM packet that R221 passes arrives (R225, R226). -/
def Dev.rxSum (d : Dev) (port : Nat) (s : SumPkt) : Dev :=
  let pair := s.at_.sumId * 65536 + s.at_.ringId
  let malformed (d : Dev) : Dev := d.onPort port fun p => { p with sumMalformed := sat 16 (p.sumMalformed + 1) }
  match d.findCtx s.dstPart pair with
  | none => d.onPort port fun p => { p with sumNoContext := sat 16 (p.sumNoContext + 1) }
  | some (sq, c) =>
    if c.st ≠ .open_ then d.onPort port fun p => { p with sumNoContext := sat 16 (p.sumNoContext + 1) }
    else if c.index = 0 && s.expect ≠ c.n then malformed d
    else if c.index = 0 && (c.committed.contains s.at_.pkt || c.failed.any fun f => f.1 = s.at_.pkt) then
      d.onPort port fun p => { p with sumReplay := sat 16 (p.sumReplay + 1) }
    else
      let a? := c.acc s.at_.pkt
      if c.index = 0 && c.ended then d.onPort port fun p => { p with sumNoContext := sat 16 (p.sumNoContext + 1) }
      else if c.index ≠ 0 && (a?.any fun a => s.expect ≠ a.target) then malformed d
      else if a?.isNone && decide (64 ≤ d.accsOpen port) then d.onPort port fun p => { p with sumNoAcc := sat 16 (p.sumNoAcc + 1) }
      else
        let a := a?.getD { pkt := s.at_.pkt, port := port, opened := d.time, target := if c.index = 0 then c.n else s.expect,
                           offset := s.at_.offset }
        let a := { a with count := a.count + s.count, lanes := addVec a.lanes s.lanes, taus := addVec a.taus s.taus,
                          tsum := if c.index = 0 then addVec a.tsum ((d.sq sq).partialHash s) else [] }
        let d := d.acceptedPkt port s.dstPart s.bytes 0
        let d := d.onCtx sq pair fun c =>
          { c with pkts := some (c.pkts.getD (s.at_.pktsM1 + 1)), firstAt := some (c.firstAt.getD d.time), lastAt := d.time }
        if c.index = 0 then d.judgeAcc sq pair c.n a s.at_.offset s.lanes.length
        else (d.judgeGather sq pair { s.at_ with offset := a.offset } a).reapCtx sq pair

/-! ## Requests (R222, R223, R230, R488) -/

/-- The fields of a transmit request's header every type has (R488). -/
structure TxReq where
  type : Nat
  part : Nat
  handle : Nat
  cells : Nat
  offset : Nat
  tag : BitVec 8
  rsv : Bool

def TxReq.of (h : BitVec 256) : TxReq :=
  let n := h.toNat
  { type := fld n 0 4, part := fld n 4 5, handle := fld n 16 16, cells := fld n 32 7 + 1, offset := fld n 40 48,
    tag := BitVec.ofNat 8 (fld n 88 8), rsv := fld n 9 7 ≠ 0 || fld n 39 1 ≠ 0 || fld n 213 43 ≠ 0 }

/-- The square slot a request names, refused as stale or gone; a held request names the slot it was accepted for. -/
def Dev.reqSquare (d : Dev) (r : TxReq) (slot : Option Nat) : Except Byte Nat :=
  match slot <|> d.liveSlot r.part .square r.handle with
  | none => .error Status.staleHandle
  | some sq => if (d.sq sq).st = .gone then .error Status.squareGone else .ok sq

/-- A sum request's own fields (R488). -/
structure SumReq where
  sumId : Nat
  ringId : Nat
  pkt : Nat
  pktsM1 : Nat
  gather : Nat
  node : Nat
  part : Nat
  expect : Nat

def SumReq.of (h : BitVec 256) : SumReq :=
  let n := h.toNat
  { sumId := fld n 96 32, ringId := fld n 128 16, pkt := fld n 144 10, pktsM1 := fld n 154 10, gather := fld n 164 15,
    node := fld n 179 14, part := fld n 193 5, expect := fld n 198 15 }

/-- An OPEN transmit channel to a peer, the one with the lowest id (R230). -/
def Dev.fallbackChan (d : Dev) (part node peer : Nat) : Option Nat :=
  (d.chans.foldl (fun (b : Option (Nat × Nat)) e =>
    if !e.2.rx && e.2.st = .open_ && e.2.thread = part && e.2.peerNode = node && e.2.peerPart = peer then
      match b with
      | some (_, id) => if e.2.id < id then some (e.1, e.2.id) else b
      | none => some (e.1, e.2.id)
    else b) none).map (·.1)

/-- The status a sum request is refused with, in the order of R222. -/
def Dev.sumRefusal (d : Dev) (r : TxReq) (q : SumReq) (c : SumCtx) : Option Byte :=
  let own := q.node = d.hall.node.toNat
  if r.offset % 32 ≠ 0 then some Status.align
  else if q.pktsM1 < q.pkt ∨ (c.reqPkts.any fun n => n ≠ q.pktsM1 + 1) then some Status.badField
  else if c.st ≠ .fallback ∧ c.sent.contains q.pkt then some Status.badField
  else if c.index = 0 ∧ !(own && q.part = r.part) then some Status.badField
  else if c.index = 0 ∧ c.st ≠ .fallback ∧ (q.gather ≠ c.n ∨ q.expect ≠ c.n) then some Status.badField
  else if c.index ≠ 0 ∧ own then some Status.badField
  else if q.gather = 0 ∨ c.n < q.gather ∨ q.expect = 0 ∨ c.n < q.expect then some Status.badField
  else if c.st = .fallback ∧ (q.gather ≠ 1 ∨ q.expect ≠ 1) then some Status.badField
  else if (d.part r.part).st = .frozen then some Status.frozen
  else if c.st = .fallback ∧ c.index ≠ 0 ∧ (d.fallbackChan r.part q.node q.part).isNone then some Status.channelDown
  else if c.index ≠ 0 ∧ c.st ≠ .fallback ∧ (c.acc q.pkt).any (fun a => a.target ≠ q.gather) then some Status.badField
  else none

/-- Lanes clamped at entry are counted (R211). -/
def Dev.clampCount (d : Dev) (part : Nat) (v : List (Nat × Bool)) : Dev :=
  let n := (v.filter (·.2)).length
  if n = 0 then d else d.onPart part fun p => { p with sumClamped := sat 32 (p.sumClamped + n) }

/-- A context notes a request as sent. -/
def Dev.noteSent (d : Dev) (sq pair : Nat) (q : SumReq) : Dev :=
  d.onCtx sq pair fun c =>
    { c with sent := if c.sent.contains q.pkt then c.sent else c.sent ++ [q.pkt], reqPkts := some (q.pktsM1 + 1),
             pkts := some (c.pkts.getD (q.pktsM1 + 1)) }

/-- A fallback request goes as plain ADDs (R230; notes/assumptions/33.md: the clamped values). -/
def Dev.sendFallback (d : Dev) (port sq pair : Nat) (r : TxReq) (q : SumReq) (c : SumCtx) (payload : Bytes) : Dev :=
  let v := (words32 payload).map toField
  let plain := wordBytes (v.map fun x => ofField x.1)
  let d := (d.clampCount r.part v).noteSent sq pair q
  let d := if c.index = 0 then (d.commit r.part true true none r.offset plain).answer port r.tag Status.done
    else match d.fallbackChan r.part q.node q.part with
      | some s =>
        let h : HeldReq := { seq := (d.ch s).next, tag := r.tag, port := port, add := true, offset := r.offset, payload := plain, since := d.time }
        (d.onCh s fun c => { c with next := c.next + 1, held := c.held ++ [h] }).sendChan s
      | none => d
  d.reapCtx sq pair

/-- A sum request that passed the checks of R488 (R222, R223); `since` is when it came, `slot` the square of one that was held.
Held where no accumulator or no link is free. -/
def Dev.sumRequest (d : Dev) (port : Nat) (hdr : BitVec 256) (payload : Bytes) (since : Nat) (slot : Option Nat) : Dev :=
  let r := TxReq.of hdr
  let q := SumReq.of hdr
  let pair := q.sumId * 65536 + q.ringId
  match d.reqSquare r slot with
  | .error st => d.refuseReq port r.tag r.part st
  | .ok sq =>
    let park (d : Dev) : Dev :=
      { d with parked := d.parked ++ [{ port := port, hdr := hdr, payload := payload, since := since, slot := some sq }] }
    match d.ctxOf sq pair with
    | none => d.refuseReq port r.tag r.part Status.badField
    | some c =>
      match d.sumRefusal r q c with
        | some st => d.refuseReq port r.tag r.part st
        | none =>
          if c.st = .fallback then d.sendFallback port sq pair r q c payload
          else
            let v := (words32 payload).map toField
            let x := v.map (·.1)
            let s := d.sq sq
            let rks := expand ((s.keyFor (d.domBit r.part)).getD s.key)
            let m : MaskAt := { sumId := q.sumId, ringId := q.ringId, pktsM1 := q.pktsM1, pkt := q.pkt, offset := r.offset }
            let blocks := 2 * (payload.length / 16) + 3
            let take (d : Dev) : Dev := ((d.clampCount r.part v).noteSent sq pair q).answer port r.tag Status.done
            if c.index = 0 then
              if c.st = .failed || c.committed.contains q.pkt || c.failed.any (fun f => f.1 = q.pkt) then
                (take d).onPort port fun p => { p with sumReplay := sat 16 (p.sumReplay + 1) }
              else if (c.acc q.pkt).isNone && decide (64 ≤ d.accsOpen port) then park d
              else
                let (y, tau) := m.mask rks 0 c.n x
                let a := (c.acc q.pkt).getD { pkt := q.pkt, port := port, opened := d.time, target := c.n, offset := r.offset }
                let a := { a with own := some (y, tau), tsum := addVec a.tsum (m.hash rks y), count := a.count + 1, offset := r.offset,
                                  lanes := addVec a.lanes (List.replicate x.length 0) }
                let d := (take d).portBlocks port r.part blocks
                let d := d.onCtx sq pair fun c => { c with firstAt := some (c.firstAt.getD d.time), lastAt := d.time }
                d.judgeAcc sq pair c.n a r.offset x.length
            else if 1 < q.gather then
              if (c.acc q.pkt).isNone && decide (64 ≤ d.accsOpen port) then park d
              else
                let (y, tau) := m.mask rks c.index c.n x
                let a := (c.acc q.pkt).getD { pkt := q.pkt, port := port, opened := d.time, target := q.gather, offset := r.offset }
                let a := { a with lanes := addVec a.lanes y, taus := addVec a.taus tau, count := a.count + 1, offset := r.offset,
                                  hop := some (q.node, q.part, q.expect) }
                (((take d).portBlocks port r.part blocks).judgeGather sq pair m a).reapCtx sq pair
            else match d.route q.node (some port) with
              | none => park d
              | some (p, d) =>
                let (y, tau) := m.mask rks c.index c.n x
                ((take d).sendSum p r.part (sumBytes (d.domBit r.part) q.node q.part m 1 q.expect y tau) blocks).reapCtx sq pair

/-! ## Timers and the ring's end (R225, R227, R229): what completes or arrives in the cc of a timer stands (R234), so a timer takes effect
in the cc after it is reached -/

/-- A gathering accumulator's time is up (R225). -/
def Dev.gatherLate (d : Dev) (sq pair pkt : Nat) : Dev :=
  match d.ctxOf sq pair with
  | some c =>
    match c.acc pkt with
    | some a =>
      if c.index ≠ 0 && decide (a.opened + d.chTimeout < d.time) then
        ((d.onPort a.port fun p => { p with sumInner := sat 16 (p.sumInner + 1) }).onCtx sq pair fun c => c.delAcc pkt).reapCtx sq pair
      else d
    | none => d
  | none => d

/-- A receiver's accumulator's time is up (R227). -/
def Dev.accLate (d : Dev) (sq pair pkt : Nat) : Dev :=
  match d.ctxOf sq pair with
  | some c =>
    match c.acc pkt with
    | some a =>
      if c.index = 0 && decide (a.opened + d.chTimeout < d.time) then d.failPkt sq pair pkt a.port Status.sumIncomplete else d
    | none => d
  | none => d

/-- The ring's own timer is up (R229): every pkt without an accumulator fails, and what accumulators still hold with it. -/
def Dev.ringLate (d : Dev) (sq pair : Nat) : Dev :=
  match d.ctxOf sq pair with
  | some c =>
    let open_ := (List.range (c.pkts.getD 0)).filter fun k => !c.committed.contains k && !c.failed.any fun f => f.1 = k
    if c.index = 0 && c.st = .open_ && c.firstAt.isSome && decide (c.lastAt + d.chTimeout < d.time) && open_.any (fun k => (c.acc k).isNone) then
      forEach open_ (fun k d => d.failPkt sq pair k (((c.acc k).map (·.port)).getD 0) Status.sumIncomplete) d
    else d
  | none => d

/-- Post the sum event of a ring that has ended (R229). With `DONE` or `RANGE_NEAR` the context frees (R216). -/
def Dev.sumEvent (d : Dev) (sq pair : Nat) : Dev :=
  match d.ctxOf sq pair with
  | some c =>
    let t := (d.sq sq).thread
    if c.index = 0 && c.st = .open_ && c.ended && decide ((d.th t).fifo.length < 64) then
      let st := c.outcome
      let d := d.postEvent t { row := c.row, opcode := 0xB5, status := st, cookie := some c.cookie }
      if statusOk st then d.dropCtx sq pair
      else d.onCtx sq pair fun c => { c with st := .failed, status := st, accs := [] }
    else d
  | none => d

/-- A withdrawn square frees its contexts (R216, R234): that of a receiver's ring posts SQUARE_GONE, as a job event would post. -/
def Dev.ringsGone (d : Dev) (q : Square) : Dev :=
  forEach (q.ctxs.filter fun c => c.index = 0 && c.st = .open_) (fun c d => d.onTh q.thread fun t =>
    { t with jobEnds := t.jobEnds ++ [{ row := c.row, opcode := 0xB5, status := Status.squareGone, cookie := some c.cookie }] }) d

end Sys2Proof.Machine
end

