-- ==== Sys2Proof/Machine/Squares.lean ====
section
/-! DEFINITION. Squares (R238 to R256): joining and leaving, multicast stores, combined reads and their responses, requests that
wait in the stall buffer. -/

namespace Sys2Proof.Machine

/-! ## Keys and states (R77, R239 to R242) -/

/-- A square key (R77). -/
def squareKey (domain : Key) (id : Nat) : Key := kdfKey domain (label Purpose.sqre 0 0x80 0 0x80 id 0)

/-- The square of a partition with an id. -/
def Dev.findSquare (d : Dev) (part id : Nat) : Option (Nat × Square) :=
  d.squares.find? fun e => e.2.st ≠ .free && e.2.thread = part && e.2.id = id

/-- The LIVE square of a partition with an id. -/
def Dev.liveSquare (d : Dev) (part id : Nat) : Option (Nat × Square) :=
  d.squares.find? fun e => e.2.st = .live && e.2.thread = part && e.2.id = id

/-- `SQJOIN` at its engine (R239). -/
def Dev.sqjoin (d : Dev) (thread row : Nat) (x : Flight) : Dev :=
  let s := Step.of x.step
  let id := fld s.d 0 32
  match d.domKey thread with
  | none => d.finish thread row Status.denied
  | some key =>
    match d.findSquare thread id with
    | some (_, q) => d.finish thread row (if q.st = .gone then Status.squareGone else Status.badField)
    | none =>
      let other := (d.domKeyFor thread (!d.domBit thread)).map fun k => squareKey k id
      let q : Square :=
        { st := .live, id := id, thread := thread, index := hIndex s.a, gen := hGen s.a, key := squareKey key id,
          keyDom := d.domBit thread, other := other }
      (d.setSq x.slot q).finish thread row Status.done

/-- A live region of the partition names the square (R242). -/
def Dev.squareNamed (d : Dev) (slot : Nat) : Bool := d.regions.any fun e => e.2.st ≠ .free && e.2.square = some slot

/-- All of a closing square has ended (R242): held requests, pending reads, contexts. -/
def Dev.squareDrained (d : Dev) (slot : Nat) : Bool :=
  !d.parked.any (fun p => p.slot = some slot) && !d.sqReads.any (fun r => r.square = slot) && (d.sq slot).ctxs.isEmpty

/-- Responses under way for a square whose key is no longer held carry SQUARE_GONE (R241, R254). -/
def Dev.respsGone (d : Dev) (slot : Nat) : Dev :=
  { d with sqResps := d.sqResps.map fun r => if r.square = slot then { r with status := Status.squareGone } else r }

/-- A square slot is FREE again; requests still held for it are answered STALE_HANDLE (R490). -/
def Dev.freeSquare (d : Dev) (slot : Nat) : Dev :=
  let d := d.respsGone slot
  let gone := d.parked.filter fun p => p.slot = some slot
  let d := { d with parked := d.parked.filter fun p => p.slot ≠ some slot }
  let d := forEach gone (fun p d => d.answer p.port (TxReq.of p.hdr).tag Status.staleHandle) d
  let reads := d.sqReads.filter fun r => r.square = slot
  let d := { d with sqReads := d.sqReads.filter fun r => r.square ≠ slot }
  let d := forEach reads (fun r d => forEach r.tags (fun t d => d.answer r.port t.1 Status.staleHandle) d) d
  { d.setSq slot {} with squarePool := d.squarePool.put slot }

/-- `SQLEAVE` at its engine (R240, R242). A GONE square frees with no drain. -/
def Dev.sqleave (d : Dev) (thread row slot : Nat) : Dev :=
  if (d.sq slot).st = .gone then d.finish thread row Status.done
  else
    let d := d.onSq slot fun q => { q with st := .closing, windows := [] }
    if d.squareDrained slot then d.finish thread row Status.done else d.working thread row

/-! ## Pending reads (R256) -/

/-- A square read is delivered (R256, R418, R490). -/
def Dev.deliver (d : Dev) (r : SqRead) (tag : BitVec 8 × Nat) (st : Byte) (lines : List (Nat × Line)) : Dev :=
  let d := (d.answer r.port tag.1 st).emit (.delivery r.port tag.1 st lines)
  d.atticPut 6 r.part 0 st (d.sq r.square).id (d.time - tag.2) (whoPeer r.node r.respPart) (r.offset % 2 ^ 48)

/-- A pending read ends for all its requests. -/
def Dev.endRead (d : Dev) (r : SqRead) (st : Byte) (lines : List (Nat × Line)) : Dev :=
  let d := { d with sqReads := d.sqReads.filter fun x => x ≠ r }
  forEach r.tags (fun t d => d.deliver r t st lines) d

/-- The fields of a square read's request (R488). -/
structure ReadReq where
  node : Nat
  part : Nat
  lines : Nat

def ReadReq.of (h : BitVec 256) : ReadReq :=
  let n := h.toNat
  { node := fld n 96 14, part := fld n 110 5, lines := fld n 115 4 + 1 }

/-- Send the READ_REQ of a pending read (R252) when a link is up. -/
def Dev.sendRead (d : Dev) (r : SqRead) : Dev :=
  match d.route r.node (some r.port) with
  | none => d
  | some (p, d) =>
    let head := headFirst 0x21 false 1 0 r.respPart r.node ++ natLe 4 (d.hall.node.toNat + r.part % 32 * 2 ^ 14)
      ++ natLe 4 (d.sq r.square).id ++ natLe 6 r.offset ++ natLe 1 (r.lines - 1) ++ List.replicate 9 0
    let d := { d with sqReads := d.sqReads.map fun x => if x = r then { x with sent := true } else x }
    d.sendOn p r.part (clearPacket head (List.replicate 32 0)) 0

/-- A square read that passed the checks of R488 (R256). -/
def Dev.squareReadReq (d : Dev) (port : Nat) (hdr : BitVec 256) (since : Nat) (slot : Option Nat) : Dev :=
  let r := TxReq.of hdr
  let q := ReadReq.of hdr
  match d.reqSquare r slot with
  | .error st => d.refuseReq port r.tag r.part st
  | .ok sq =>
    if r.offset % 128 ≠ 0 then d.refuseReq port r.tag r.part Status.align
    else if 16 < r.offset % 2048 / 128 + q.lines then d.refuseReq port r.tag r.part Status.length
    else if q.node = d.hall.node.toNat then d.refuseReq port r.tag r.part Status.badField
    else if (d.part r.part).st = .frozen then d.refuseReq port r.tag r.part Status.frozen
    else
      let same (x : SqRead) : Bool := x.port = port && x.square = sq && x.node = q.node && x.respPart = q.part && x.offset = r.offset
        && x.lines = q.lines
      if d.sqReads.any same then
        { d with sqReads := d.sqReads.map fun x => if same x then { x with tags := x.tags ++ [(r.tag, since)] } else x }
      else if 256 ≤ (d.sqReads.filter fun x => x.port = port).length then
        { d with parked := d.parked ++ [{ port := port, hdr := hdr, payload := [], since := since, slot := some sq }] }
      else
        let x : SqRead :=
          { port := port, tags := [(r.tag, since)], part := r.part, square := sq, node := q.node, respPart := q.part,
            offset := r.offset, lines := q.lines, since := since }
        { d with sqReads := d.sqReads ++ [x] }.sendRead x

/-- A square read has had no answer within the channel timeout (R256); one that comes in the cc of the timeout stands (R262). -/
def Dev.readLate (d : Dev) (port : Nat) (tag : BitVec 8) : Dev :=
  let late (t : BitVec 8 × Nat) : Bool := t.1 = tag && decide (t.2 + d.chTimeout < d.time)
  let count (d : Dev) : Dev := d.onPort port fun p => { p with readTimeouts := sat 16 (p.readTimeouts + 1) }
  match d.sqReads.find? fun r => r.port = port && r.tags.any late with
  | some r =>
    let rest := r.tags.filter fun t => !late t
    let d' := if rest.isEmpty then { d with sqReads := d.sqReads.filter fun x => x ≠ r }
      else { d with sqReads := d.sqReads.map fun x => if x = r then { x with tags := rest } else x }
    forEach (r.tags.filter late) (fun t d => (d.deliver r t Status.peerTimeout []) |> count) d'
  | none =>
    match d.parked.find? fun p => p.port = port && (TxReq.of p.hdr).type = 4 && (TxReq.of p.hdr).tag = tag &&
        decide (p.since + d.chTimeout < d.time) with
    | some p =>
      let q := ReadReq.of p.hdr
      let r : SqRead :=
        { port := port, tags := [], part := (TxReq.of p.hdr).part, square := p.slot.getD 0, node := q.node, respPart := q.part,
          offset := (TxReq.of p.hdr).offset, lines := q.lines, since := p.since }
      ({ d with parked := d.parked.filter fun x => x ≠ p }.deliver r (tag, p.since) Status.peerTimeout []) |> count
    | none => d

/-! ## Responses (R249 to R254) -/

/-- The AES input block of a response (R250). -/
def readBlock (node line version b : Nat) : Bytes :=
  natLe 16 (version * 2 ^ 64 + 0b110 * 2 ^ 60 + node % 2 ^ 14 * 2 ^ 45 + line % 2 ^ 41 * 2 ^ 4 + b)

/-- Encipher or decipher a line of a response (R251). -/
def readCrypt (rks : List (List Nat)) (node line version : Nat) (b : Bytes) : Bytes :=
  (List.range 8).flatMap fun i => xorB (slice b (16 * i) 16) (toBytes (aesWith rks (toNats (readBlock node line version i))))

/-- The tag of an enciphered line of a response (R251). -/
def readTag (rks : List (List Nat)) (node line version : Nat) (c : Bytes) : Bytes :=
  let h := beNat (toBytes (aesWith rks (List.replicate 16 0)))
  let g := natBe 16 (ghash h (chunks 16 9 c ++ [natBe 8 0 ++ natBe 8 1024]) 0)
  (xorB g (toBytes (aesWith rks (toNats (readBlock node line version 8))))).take 8

/-- Metadata cells and data cells of a response with `DONE` (R253). -/
def Dev.respPayload (d : Dev) (key : Key) (r : SqResp) : Bytes :=
  let rks := expand key
  let node := d.hall.node.toNat
  let rows := (List.range r.lines).map fun j =>
    let line := r.offset / 128 + j
    match r.got.find? fun g => g.1 = j with
    | some g =>
      let c := readCrypt rks node line g.2.1 (lineBytes g.2.2)
      (natLe 8 g.2.1 ++ readTag rks node line g.2.1 c, c)
    | none => (List.replicate 16 0, List.replicate 128 0)
  padTo (32 * ((r.lines + 1) / 2)) (rows.flatMap (·.1)) ++ rows.flatMap (·.2)

/-- The READ_RSP of a response to one requester (R253). -/
def Dev.respPacket (d : Dev) (r : SqResp) (peer : Nat × Nat) : Bytes :=
  let q := d.sq r.square
  let payload := if r.status = Status.done then d.respPayload q.key r else List.replicate 32 0
  headFirst 0x22 q.keyDom (payload.length / 32) 0 peer.2 peer.1 ++ natLe 4 (d.hall.node.toNat + r.part % 32 * 2 ^ 14) ++ natLe 4 r.sqId
    ++ natLe 6 r.offset ++ natLe 1 (r.lines - 1) ++ natLe 1 r.status.toNat ++ List.replicate 8 0 ++ payload ++ List.replicate 32 0

/-- A response is complete: it has its place, and memory owes none of its lines. -/
def SqResp.complete (r : SqResp) : Bool := !r.waiting && r.owed = 0

/-- Ask memory for the lines of a response (R254). -/
def Dev.readLines (d : Dev) (r : SqResp) : Dev :=
  forBelow r.lines (fun j d => d.lineOp (.square r.id) (.read false) (r.offset / 128 + j) r.part r.region) d

/-- Begin a response: a status at once, or its lines from memory. -/
def Dev.startResp (d : Dev) (r : SqResp) : Dev :=
  let put (r : SqResp) (d : Dev) : Dev := { d with sqResps := d.sqResps.map fun x => if x.id = r.id then r else x }
  match d.liveSquare r.part r.sqId with
  | none => put { r with waiting := false, status := Status.squareGone } d
  | some _ =>
    match d.regionAt r.part (r.offset / 128) with
    | none => put { r with waiting := false, status := Status.regionFault } d
    | some g =>
      let x := d.reg g
      if x.square = some r.square && decide (r.offset + 128 * r.lines ≤ x.base + 2 ^ x.log2) then
        let r := { r with waiting := false, region := g, owed := r.lines }
        (put r d).readLines r
      else put { r with waiting := false, status := Status.regionFault } d

/-- Send every complete response to the requesters a link reaches; begin those a place has freed for (R254). -/
def Dev.sendResps (d : Dev) : Dev :=
  let d := d.sqResps.foldl (fun d r =>
    if !r.complete then d
    else
      let left := r.requesters.filter fun t => (d.routes t.1).isEmpty
      let d := forEach (r.requesters.filter fun t => !(d.routes t.1).isEmpty) (fun t d =>
        match d.route t.1 (some r.port) with
        | some (p, d) => d.sendOn p r.part (d.respPacket r t) (if r.status = Status.done then 9 * r.lines else 0)
        | none => d) d
      if left.isEmpty then { d with sqResps := d.sqResps.filter fun x => x.id ≠ r.id }
      else { d with sqResps := d.sqResps.map fun x => if x.id = r.id then { x with requesters := left } else x }) d
  d.sqResps.foldl (fun d r =>
    if r.waiting && decide ((d.sqResps.filter fun x => x.port = r.port && !x.waiting).length < 256) then d.startResp r else d) d

/-- The status of a response whose line memory refuses (R253): the failure of a sealed segment's tag is a memory tag failure
(notes/assumptions/93.md). -/
def respStatus (st : Byte) : Byte := if st = Status.segTagFail then Status.memTagFail else st

/-- A line of a response has come from memory (R249, R254). -/
def Dev.squareEnd (d : Dev) (id : Nat) (op : MemOp) (m : MemRes) : Dev :=
  { d with sqResps := d.sqResps.map fun r =>
      if r.id ≠ id then r
      else
        let j := op.addr - r.offset / 128
        let r := { r with owed := r.owed - 1 }
        if m.status ≠ Status.done then { r with status := if r.status = Status.done then respStatus m.status else r.status }
        else if m.version / 256 = 2 ^ 56 - 1 then { r with status := if r.status = Status.done then Status.budgetExhausted else r.status }
        else { r with got := r.got ++ [(j, m.version, m.line)] } }

/-- Malformed READ_REQ (R174, R252). -/
def Dev.readReqMalformed (d : Dev) (p : Pkt) : Bool :=
  let src := leAt p.head 8 4
  !p.whole || p.cells ≠ 1 || p.rsv1 ≠ 0 || p.dom || p.up ≠ 0 || decide (d.nparts ≤ p.dstPart) || fld src 19 13 ≠ 0
    || decide (d.nparts ≤ fld src 14 5) || leAt p.head 16 6 % 128 ≠ 0 || decide (15 < leAt p.head 22 1) || !zeroAt p.head 23 9
    || decide (16 < leAt p.head 16 6 % 2048 / 128 + leAt p.head 22 1 + 1) || !zeroAt p.payload 0 32 || !zeroAt p.tag 0 16

/-- A READ_REQ arrives (R254). Where no square of that id was joined it is counted as having none. -/
def Dev.rxReadReq (d : Dev) (port : Nat) (p : Pkt) : Dev :=
  let src := leAt p.head 8 4
  let peer := (fld src 0 14, fld src 14 5)
  let id := leAt p.head 12 4
  let offset := leAt p.head 16 6
  let lines := leAt p.head 22 1 + 1
  match d.findSquare p.dstPart id with
  | none => d.onPort port fun p => { p with noSquare := sat 16 (p.noSquare + 1) }
  | some (sq, _) =>
    let same (r : SqResp) : Bool := r.port = port && r.part = p.dstPart && r.square = sq && r.offset = offset && r.lines = lines
      && decide (r.requesters.length < 16)
    match d.sqResps.find? same with
    | some r => { d with sqResps := d.sqResps.map fun x => if x.id = r.id then { x with requesters := x.requesters ++ [peer] } else x }
    | none =>
      let n := d.sqResps.foldl (fun m r => max m (r.id + 1)) 0
      let full := decide (256 ≤ (d.sqResps.filter fun x => x.port = port && !x.waiting).length)
      let r : SqResp :=
        { id := n, waiting := full, port := port, square := sq, sqId := id, part := p.dstPart, requesters := [peer], offset := offset, lines := lines,
          region := 0 }
      let d := { d with sqResps := d.sqResps ++ [r] }
      if full then d else d.startResp r

/-- Malformed READ_RSP (R174, R253). -/
def Dev.readRspMalformed (d : Dev) (p : Pkt) : Bool :=
  let src := leAt p.head 8 4
  let lines := leAt p.head 22 1 + 1
  !p.whole || p.rsv1 ≠ 0 || p.up ≠ 0 || decide (d.nparts ≤ p.dstPart) || fld src 19 13 ≠ 0 || decide (d.nparts ≤ fld src 14 5)
    || leAt p.head 16 6 % 128 ≠ 0 || decide (16 < leAt p.head 16 6 % 2048 / 128 + lines) || !zeroAt p.head 24 8
    || p.cells ≠ (if leAt p.head 23 1 = 0 then (lines + 1) / 2 + 4 * lines else 1)

/-- A READ_RSP arrives (R256): matched with a pending read, every line's tag checked, delivered. -/
def Dev.rxReadRsp (d : Dev) (port : Nat) (p : Pkt) : Dev :=
  let src := leAt p.head 8 4
  let node := fld src 0 14
  let id := leAt p.head 12 4
  let offset := leAt p.head 16 6
  let lines := leAt p.head 22 1 + 1
  let st := BitVec.ofNat 8 (leAt p.head 23 1)
  match d.sqReads.find? fun r => r.part = p.dstPart && (d.sq r.square).id = id && r.node = node && r.respPart = fld src 14 5
      && r.offset = offset && r.lines = lines with
  | none => d.onPort port fun p => { p with unsolicited := sat 16 (p.unsolicited + 1) }
  | some r =>
    if st ≠ Status.done then (d.acceptedPkt port r.part p.payload.length 0).endRead r st []
    else
      let meta_ := 32 * ((lines + 1) / 2)
      let cs := (List.range lines).map fun j => (leAt p.payload (16 * j) 8, slice p.payload (16 * j + 8) 8, slice p.payload (meta_ + 128 * j) 128, j)
      let rks := ((d.sq r.square).keyFor p.dom).map expand
      let bad := match rks with
        | some k => (cs.filter fun c => readTag k node (offset / 128 + c.2.2.2) c.1 c.2.2.1 ≠ c.2.1).length
        | none => lines
      if bad = 0 then
        let plain := cs.map fun c => (c.1, bytesLine (readCrypt (rks.getD []) node (offset / 128 + c.2.2.2) c.1 c.2.2.1))
        (d.acceptedPkt port r.part p.payload.length (9 * lines)).endRead r Status.done plain
      else
        let d := d.onPort port fun p => { p with lineTagFails := sat 16 (p.lineTagFails + bad) }
        ((d.addCount r.part 8 bad).addGlobal (64 + port) bad).endRead r Status.tagFail []

/-! ## Multicast (R244 to R248) -/

/-- The IV of an MSTORE (R245). -/
def mstoreIv (node seq : Nat) : Bytes := natBe 2 node ++ natBe 4 (seq / 2 ^ 32) ++ [0x00, 0x50] ++ natBe 4 seq

/-- A multicast request that passed the checks of R488 (R247). -/
def Dev.multicastReq (d : Dev) (port : Nat) (hdr : BitVec 256) (payload : Bytes) (since : Nat) (slot : Option Nat) : Dev :=
  let r := TxReq.of hdr
  let group := fld hdr.toNat 96 14
  if r.offset % 32 ≠ 0 then d.refuseReq port r.tag r.part Status.align
  else match d.reqSquare r slot with
    | .error st => d.refuseReq port r.tag r.part st
    | .ok sq =>
      if (d.part r.part).st = .frozen then d.refuseReq port r.tag r.part Status.frozen
      else if 2 ^ 64 ≤ (d.part r.part).multicast then d.refuseReq port r.tag r.part Status.keyEpoch
      else match d.route group (some port) with
        | none =>
          { d with parked := d.parked ++ [{ port := port, hdr := hdr, payload := payload, since := since, slot := some sq }] }
        | some (p, d) =>
          let q := d.sq sq
          let seq := (d.part r.part).multicast
          let node := d.hall.node.toNat
          let head := headFirst 0x20 q.keyDom r.cells 0 r.part group ++ natLe 4 (node + r.part % 32 * 2 ^ 14) ++ natLe 4 q.id
            ++ natLe 8 seq ++ [0, 0] ++ natLe 6 r.offset
          let d := d.onPart r.part fun p => { p with multicast := seq + 1 }
          (d.sendOn p r.part (sealPacket q.key (mstoreIv node seq) head payload) (gcmBlocks payload.length)).answer port r.tag Status.done

/-- Malformed MSTORE (R174, R178, R244). -/
def Dev.mstoreMalformed (d : Dev) (p : Pkt) : Bool :=
  let src := leAt p.head 8 4
  !p.whole || p.rsv1 ≠ 0 || p.up ≠ 0 || decide (d.nparts ≤ p.dstPart) || fld src 19 13 ≠ 0 || decide (d.nparts ≤ fld src 14 5)
    || leAt p.head 24 2 ≠ 0 || leAt p.head 26 6 % 32 ≠ 0

/-- Bits of a map above a floor. -/
def keepFrom (f : Nat) (seen : List Nat) : List Nat := seen.filter fun x => decide (f ≤ x)

/-- An MSTORE arrives (R248). -/
def Dev.rxMstore (d : Dev) (port : Nat) (p : Pkt) : Dev :=
  let src := leAt p.head 8 4
  let node := fld src 0 14
  let seq := leAt p.head 16 8
  if node = d.hall.node.toNat then d
  else match d.liveSquare p.dstPart (leAt p.head 12 4) with
    | none => d.onPort port fun p => { p with noSquare := sat 16 (p.noSquare + 1) }
    | some (sq, q) =>
      match q.keyFor p.dom with
      | none => d.onPort port fun p => { p with noSquare := sat 16 (p.noSquare + 1) }
      | some key =>
        match gcmOpen key (mstoreIv node seq) (authHead p.head) p.payload p.tag with
        | none => (d.onPort port fun p => { p with mstoreTagFails := sat 16 (p.mstoreTagFails + 1) }).tagFailed port q.thread
        | some plain =>
          let take (d : Dev) : Dev :=
            let d := (d.acceptedPkt port q.thread p.payload.length (gcmBlocks p.payload.length)).onPart q.thread fun x =>
              { x with sqReceived := sat 32 (x.sqReceived + 1) }
            d.commit q.thread false false none (leAt p.head 26 6) plain
          match q.windows.find? fun w => w.node = node && w.dom = p.dom with
          | none =>
            if 16 ≤ q.windows.length then
              (d.onPort port fun p => { p with noWindow := sat 16 (p.noWindow + 1) }).errorOnce q.thread .channel
            else
              let w : SqWindow := { node := node, dom := p.dom, floor := if 1024 ≤ seq then seq - 1023 else 0, seen := [seq] }
              take (d.onSq sq fun q => { q with windows := q.windows ++ [w] })
          | some w =>
            if seq < w.floor ∨ w.seen.contains seq then d.onPort port fun p => { p with sqReplay := sat 16 (p.sqReplay + 1) }
            else
              let f := if w.floor + 1024 ≤ seq then seq - 1023 else w.floor
              let w' := { w with floor := f, seen := keepFrom f w.seen ++ [seq] }
              take (d.onSq sq fun q => { q with windows := q.windows.map fun x => if x = w then w' else x })

/-! ## A square goes GONE (R241) -/

/-- Loss of a LIVE square's keys (R240, R241): pending reads end, contexts end, responses under way say so, the owner's error source is
raised. -/
def Dev.squareGone (d : Dev) (slot : Nat) : Dev :=
  let q := d.sq slot
  if q.st ≠ .live then d
  else
    let d := d.setSq slot { q with st := .gone, key := 0, other := none, windows := [], ctxs := [] }
    let d := (d.ringsGone q).respsGone slot
    let d := forEach (d.sqReads.filter fun r => r.square = slot) (fun r d => d.endRead r Status.squareGone []) d
    d.errorOf q.thread

/-- Every square of a partition goes GONE. -/
def Dev.squaresGone (d : Dev) (part : Nat) : Dev :=
  d.squares.foldl (fun d e => if e.2.thread = part then d.squareGone e.1 else d) d

/-! ## The stall buffer (R185, R192, R226) -/

/-- Requests held for a link, an accumulator or a read place are judged again; those that still cannot go stay. -/
def Dev.unpark (d : Dev) : Dev :=
  let held := d.parked
  forEach held (fun p d =>
    match p.built with
    | some (node, part, bytes) =>
      (match d.route node (some p.port) with
        | some (q, d) => if (Pkt.of bytes).kind = 0x30 then d.sendOn q part bytes 0 else d.sendSum q part bytes 0
        | none => { d with parked := d.parked ++ [p] })
    | none =>
      let t := (TxReq.of p.hdr).type
      if t = 2 then d.sumRequest p.port p.hdr p.payload p.since p.slot
      else if t = 3 then d.multicastReq p.port p.hdr p.payload p.since p.slot
      else d.squareReadReq p.port p.hdr p.since p.slot) { d with parked := [] }

/-- Pending reads whose request no link has taken yet (R185). -/
def Dev.sendReads (d : Dev) : Dev := d.sqReads.foldl (fun d r => if r.sent then d else d.sendRead r) d

/-- A sum or multicast request held for the channel timeout is refused with HANG (R185). -/
def Dev.heldLate (d : Dev) (port : Nat) : Dev :=
  let late (p : Parked) : Bool := p.port = port && p.built.isNone && (TxReq.of p.hdr).type ≠ 4 && decide (p.since + d.chTimeout ≤ d.time)
  forEach (d.parked.filter late) (fun p d => d.refuseReq port (TxReq.of p.hdr).tag (TxReq.of p.hdr).part Status.hang)
    { d with parked := d.parked.filter fun p => !late p }

end Sys2Proof.Machine
end

