-- ==== Sys2Proof/Machine/Threshold.lean ====
section
/-! DEFINITION. Regions and the jobs on them (R249, R278, R289 to R292, R331 to R340, R349 to R353, R447): mapping, unmapping,
re-keying, export, Sweep. -/

namespace Sys2Proof.Machine

/-! ## Geometry -/

/-- Of the chunks [c0, c1), those on an engine as local chunks: first and one past the last (R268, R269). -/
def Dev.chunksFrom (d : Dev) (c0 c1 m : Nat) : Nat × Nat :=
  let e := Kind.engines d.kind
  ((c0 + (e - 1 - m)) / e, (c1 + (e - 1 - m)) / e)

/-- Local chunks of a range of 2^log2 bytes on an engine. -/
def Dev.chunksOn (d : Dev) (base log2 m : Nat) : Nat × Nat := d.chunksFrom (base / 2 ^ 19) (base / 2 ^ 19 + 2 ^ log2 / 2 ^ 19) m

/-- Local chunks of a region slot on an engine. -/
def Dev.regionChunks (d : Dev) (r m : Nat) : Nat × Nat := d.chunksOn (d.reg r).base (d.reg r).log2 m

/-- Two ranges of bytes meet. -/
def meet (a la b lb : Nat) : Bool := decide (a < b + 2 ^ lb) && decide (b < a + 2 ^ la)

/-- Mark local chunks [lo, hi) of an engine fresh in their level-2 nodes and drop the Pantry's entries for them (R278). -/
def Dev.freshOn (d : Dev) (m lo hi : Nat) : Dev :=
  let region := (d.coverAt (d.pageLine m (64 * lo))).getD 0
  let d := (d.eng m).l2.foldl (fun d e =>
    let v := (List.range 64).foldl (fun v c =>
      if lo ≤ 64 * e.1 + c ∧ 64 * e.1 + c < hi then setPoison (setFresh v c true) c false else v) e.2
    if v = e.2 then d else d.setL2 m e.1 region v) d
  let inside (x : PEntry) : Bool := match x.cls with
    | .level1 => decide (l1Line lo ≤ x.line) && decide (x.line < l1Line hi)
    | .leaf => decide (leafLine (64 * lo) ≤ x.line) && decide (x.line < leafLine (64 * hi))
    | .tagLine => decide (tagLineOf (4096 * lo) ≤ x.line) && decide (x.line < tagLineOf (4096 * hi))
  d.onEng m fun e => { e with pantry := e.pantry.filter fun x => !inside x }

/-- Mark the chunks [c0, c1) fresh on every engine. -/
def Dev.freshChunks (d : Dev) (c0 c1 : Nat) : Dev :=
  forBelow (Kind.engines d.kind) (fun m d => let c := d.chunksFrom c0 c1 m; d.freshOn m c.1 c.2) d

/-- Mark every chunk of a range of protected bytes fresh. -/
def Dev.freshRange (d : Dev) (base log2 : Nat) : Dev := d.freshChunks (base / 2 ^ 19) (base / 2 ^ 19 + 2 ^ log2 / 2 ^ 19)

/-! ## MAPREG (R249, R290, R291, R473) -/

def mapLog (s : Step) : Nat := fld s.c 0 6
def mapKind (s : Step) : Nat := fld s.c 6 2
def mapBase (s : Step) : Nat := fld s.d 21 27 * 2 ^ 21
def mapDma (s : Step) : Nat := fld s.d 48 2
def mapDebug (s : Step) : Nat := fld s.d 50 2

/-- Steps of every thread that hold a region slot not yet filled: their thread, kind, base and log2 of the size. -/
def Dev.mapping (d : Dev) : List (Nat × Nat × Nat × Nat) :=
  d.threads.flatMap fun t => (t.2.flights.filter fun x =>
    (Step.of x.step).op = some .mapreg && (d.reg x.slot).st = .free && (match x.stage with
      | .dispatched | .running => true
      | _ => false)).map fun x => (t.1, mapKind (Step.of x.step), mapBase (Step.of x.step), mapLog (Step.of x.step))

/-- A region of a thread stands in the way of a mapping (R290). -/
def mapBlocks (thread kind base log2 : Nat) (t k b l : Nat) : Bool :=
  meet base log2 b l && !(kind = 2 && b = base && l = log2 && (k = 1 || (k = 2 && t ≠ thread)))

/-- The BASE that a BASE_MAP names (R290). -/
def Dev.baseOf (d : Dev) (base log2 : Nat) : Option Nat :=
  (d.regions.find? fun e => e.2.kind = 1 && e.2.st = .live && e.2.base = base && e.2.log2 = log2).map (·.1)

/-- `MAPREG` at check 2 of R53 (R290). -/
def mapKindDenied (isMgr : Bool) (s : Step) : Bool := (mapKind s = 1 && !isMgr) || (mapKind s = 2 && isMgr)

/-- `MAPREG` at check 3 of R53 (R249, R290); a GONE square is one of its refusals. -/
def Dev.mapBad (d : Dev) (thread : Nat) (s : Step) : Option Byte :=
  let kind := mapKind s
  let base := mapBase s
  let log := mapLog s
  if kind = 3 ∨ (s.b ≠ 0 ∧ kind ≠ 0) ∨ mapDma s = 3 ∨ mapDebug s = 3 ∨ log < 21 ∨ 40 < log then some Status.badField
  else if s.b ≠ 0 ∧ (d.liveSlot thread .square s.b).any (fun q => (d.sq q).st = .gone) = true then some Status.badField
  else if Kind.capacity d.kind * 2 ^ 30 < base + 2 ^ log then some Status.badField
  else if (d.regions.any fun e => e.2.st = .live && mapBlocks thread kind base log e.2.thread e.2.kind.toNat e.2.base e.2.log2) ||
      (d.mapping.any fun x => mapBlocks thread kind base log x.1 x.2.1 x.2.2.1 x.2.2.2) then some Status.badField
  else if kind = 2 then
    match d.baseOf base log with
    | some b => if (d.reg b).share.getLsbD thread then none else some Status.denied
    | none => some Status.denied
  else none

/-- `MAPREG` waits on a CLOSING region it overlaps (R290, R351). -/
def Dev.mapHeld (d : Dev) (thread : Nat) (s : Step) : Bool :=
  d.regions.any fun e => e.2.st = .closing &&
    mapBlocks thread (mapKind s) (mapBase s) (mapLog s) e.2.thread e.2.kind.toNat e.2.base e.2.log2

/-- A region's chunks lie on an engine whose domain is not ON (R473). -/
def Dev.engineOff (d : Dev) (base log2 : Nat) : Bool :=
  (List.range (Kind.engines d.kind)).any fun m =>
    let c := d.chunksOn base log2 m
    decide (c.1 < c.2) && !d.powered (d.engDomain m)

/-- Masks of region keys (R291). -/
def regionMasks (base : Bool) : Masks := { master := 26, world := if base then 7 else 5, lc := 14 }

/-- Fill a region's key slot with a new key (R77, R291). -/
def Dev.fillRegionKey (d : Dev) (slot region thread gen kind epoch : Nat) (key : Key) : Dev :=
  d.fillSlot slot key (attrWord d.kind 3 false (if kind = 1 then Origin.derived else Origin.generated) 2 (if kind = 1 then 0 else epoch)
    (regionMasks (kind = 1))) (ownerWord thread region gen (if kind = 1 then Purpose.base else Purpose.regn)) 1

/-- The key of a BASE region under a base sequence number (R77, R78). -/
def Dev.baseKey (d : Dev) (seq : Nat) : Option Key :=
  (d.resKey 3).map fun root => kdfKey root (label Purpose.base 0 0x80 0 0 seq 0)

/-- A key for a region of a thread (R77, R78): of a BASE, under the sequence number given; else from the DRBG. None where the DRBG cannot
serve; the inner option is none where there is no session root. -/
def Dev.newRegionKey (d : Dev) (kind thread region epoch seq : Nat) : Option (Option (Key × Dev)) :=
  if kind = 1 then some ((d.baseKey seq).map fun k => (k, d))
  else if d.canDraw then some (some (d.drawn (regionLabel (d.partOf thread) region epoch), d.drew)) else none

/-- The next base sequence number is given out (R78); none are left after 2^32 - 1. -/
def Dev.nextBase (d : Dev) : Option (Nat × Dev) :=
  if 2 ^ 32 ≤ d.larder.baseSeq then none else some (d.larder.baseSeq, d.onLarder fun l => { l with baseSeq := l.baseSeq + 1 })

/-- `MAPREG` at its engine. -/
def Dev.mapreg (d : Dev) (thread row : Nat) (x : Flight) : Dev :=
  let s := Step.of x.step
  let kind := mapKind s
  let base := mapBase s
  let log := mapLog s
  let r : Region :=
    { st := .live, kind := BitVec.ofNat 2 kind, thread := thread, index := hIndex s.a, gen := hGen s.a, base := base, log2 := log,
      dma := BitVec.ofNat 2 (mapDma s), dbg := BitVec.ofNat 2 (mapDebug s), square := x.bSlot,
      keySlot := x.keySlot }
  if d.engineOff base log then d.finish thread row Status.denied
  else if kind = 2 then (d.setReg x.slot { r with square := none, keySlot := 0 }).finish thread row Status.done
  else match d.newRegionKey kind thread x.slot 0 x.baseSeq with
    | none => d.awaitDrbg thread row
    | some none => d.finish thread row Status.noSlot
    | some (some (key, d)) =>
      let d := d.fillRegionKey x.keySlot x.slot thread (hGen s.a) kind 0 key
      ((d.setReg x.slot { r with loaded := key }).freshRange base log).finish thread row Status.done

/-! ## The job table (R69, R356) -/

/-- A free entry of the job table. -/
def Dev.freeJob (d : Dev) : Option Nat := findBelow 64 fun i => (d.job i).st = .free

/-- A job slot of the thread is free (R69). -/
def Dev.jobRoom (d : Dev) (thread : Nat) : Bool := decide ((d.th thread).jobs < 8)

/-- Queue a job event for the issuing thread (R69). -/
def Dev.jobEvent (d : Dev) (thread row : Nat) (opcode st : Byte) (cookie : BitVec 32) : Dev :=
  d.onTh thread fun t =>
    { t with jobEnds := t.jobEnds ++ [{ row := row, opcode := opcode ||| 0x80, status := st, cookie := some cookie, job := true }] }

/-- A job ends: its event, unless it is one Kerre started, and its table entry (R335, R357). -/
def Dev.endJob (d : Dev) (i : Nat) (st : Byte) : Dev :=
  let j := d.job i
  let d := if j.silent then d else d.jobEvent j.thread j.row (if j.kind = .rekey then 0x24 else 0x25) st j.cookie
  d.setJob i {}

/-- The live re-key job of a region. -/
def Dev.jobOn (d : Dev) (region : Nat) : Option Nat :=
  (d.thresh.jobs.find? fun e => e.2.st ≠ .free && e.2.kind = .rekey && e.2.target = region).map (·.1)

/-- 90% of the write budget, as a count (R289). -/
def budgetHigh : Nat := (9 * writeBudget + 9) / 10

/-! ## REKEY (R91, R92, R331, R338, R340) -/

/-- The key of a region's export form has been erased (R331, R340): its handle no longer names that key's slot. -/
def Dev.exportKeyGone (d : Dev) (r : Region) : Bool := match r.exportKey with
  | some h => d.liveSlot r.thread .key h.toNat ≠ some r.exSlot
  | none => false

/-- The region's key slot is the export key's own (R339): no re-key and no withdrawal of the region frees it. -/
def Region.keyIsExport (r : Region) : Bool := r.exportKey.isSome && r.keySlot = r.exSlot

/-- Key checks of an export (R91): slot, then encrypt, origin generated or imported, spent clear. -/
def Dev.exportKeyCheck (d : Dev) (thread slot : Nat) : Option Byte :=
  let l := d.slot slot
  if !d.slotPasses slot then some Status.keySlotBad
  else if !d.keyMay slot useEncrypt .seq (d.worldOf thread slot) || (l.origin ≠ Origin.generated && l.origin ≠ Origin.imported) || l.spent then
    some Status.keyAttr
  else none

/-- Set spent in a key (R92). -/
def Dev.spend (d : Dev) (slot : Nat) : Dev :=
  let l := d.slot slot
  d.fillSlot slot l.key (l.attr ||| 0x20) l.owner l.st

/-- The refusals of `REKEY` in the order of R331, those of an export (R338) after that of a BASE_MAP. -/
def Dev.rekeyRefusal (d : Dev) (thread region : Nat) (s : Step) : Option Byte :=
  let r := d.reg region
  let ex := bitOf s.c 1
  if (s.b ≠ 0) ≠ (ex = true) then some Status.badField
  else if r.kind = 2 then some Status.denied
  else if ex ∧ (r.kind ≠ 0 ∨ r.square.isSome) then some Status.denied
  else if ex ∧ (d.th thread).exportBase = 0 then some Status.badField
  else if ex ∧ (d.thresh.jobs.any fun e => e.2.st ≠ .free && e.2.export_ && e.2.thread = thread) = true then some Status.badField
  else if r.newSlot.isSome then some Status.badField
  else if d.exportKeyGone r then some Status.denied
  else if 0xFFFE ≤ r.epoch then some Status.keyEpoch
  else if !ex ∧ thread < d.nparts ∧ d.limit thread 0 ≤ d.keyUse thread then some Status.quota
  else if (!ex ∧ d.larder.pool.free = 0) ∨ !d.jobRoom thread ∨ d.freeJob.isNone then some Status.noSlot
  else none

/-- Take up a re-key of a region with a new key in a slot (R331). -/
def Dev.startRekey (d : Dev) (region newSlot : Nat) (key : Key) (job : Nat) (j : Job) : Dev :=
  let d := d.onReg region fun r => { r with newSlot := some newSlot, loadedNew := key, oldWrites := r.writes, writes := 0 }
  d.setJob job { j with st := .queued, kind := .rekey, target := region, lastReport := d.time }

/-- A new key and slot for a re-key without export; a BASE's takes the next sequence number (R78). -/
def Dev.rekeySlot (d : Dev) (region : Nat) : Option (Option (Nat × Key × Dev)) :=
  let r := d.reg region
  match if r.kind = 1 then d.nextBase else some (0, d) with
  | none => some none
  | some (seq, d) =>
    match d.newRegionKey r.kind.toNat r.thread region (r.epoch + 1) seq with
    | none => none
    | some none => some none
    | some (some (key, d)) =>
      match d.takeSlot r.thread region r.gen (if r.kind = 1 then Purpose.base else Purpose.regn) with
      | none => some none
      | some (slot, d) => some (some (slot, key, d.fillRegionKey slot region r.thread r.gen r.kind.toNat (r.epoch + 1) key))

/-- `REKEY` at its engine. -/
def Dev.rekey (d : Dev) (thread row : Nat) (x : Flight) : Dev :=
  let s := Step.of x.step
  let region := x.slot
  let ex := bitOf s.c 1
  let keyCheck : Option Byte := if ex then
      match x.bSlot with
      | some k => d.exportKeyCheck thread k
      | none => none
    else none
  match keyCheck with
  | some st => d.finish thread row st
  | none =>
    match d.rekeyRefusal thread region s with
    | some st => d.finish thread row st
    | none =>
      let i := d.freeJob.getD 0
      let urgent := bitOf s.c 0 || decide (budgetHigh ≤ (d.reg region).writes)
      let j : Job :=
        { thread := thread, row := row, cookie := BitVec.ofNat 32 s.d, urgent := urgent, export_ := ex, exportKey := BitVec.ofNat 16 s.b }
      let hold (d : Dev) : Dev := (d.onTh thread fun t => { t with jobs := t.jobs + 1 }).finish thread row Status.done
      if ex then
        match x.bSlot with
        | some k =>
          hold (((d.spend k).startRekey region k (d.slot k).key i j).onReg region fun r => { r with exportLocked := true })
        | none => d.finish thread row Status.staleHandle
      else match d.rekeySlot region with
        | none => d.awaitDrbg thread row
        | some none => d.finish thread row Status.noSlot
        | some (some (slot, key, d)) => hold (d.startRekey region slot key i j)

/-- Kerre starts a re-key itself where a region's budget is spent and none runs, and makes a running one urgent at 90% of the budget
(R289, R337). -/
def Dev.budgetWatch (d : Dev) : Dev :=
  d.regions.foldl (fun d e =>
    let r := e.2
    if r.st ≠ .live || r.kind = 2 then d
    else if r.newSlot.isSome then
      if decide (budgetHigh ≤ r.writes) || decide (budgetHigh ≤ r.oldWrites) then
        match d.jobOn e.1 with
        | some i => if (d.job i).urgent then d else d.onJob i fun j => { j with urgent := true }
        | none => d
      else d
    else if r.writes < writeBudget || decide (0xFFFE ≤ r.epoch) || d.larder.pool.free = 0 then d
    else match d.freeJob with
      | none => d
      | some i =>
        match d.rekeySlot e.1 with
        | some (some (slot, key, d)) =>
          (d.startRekey e.1 slot key i { thread := 0xFF, urgent := true, firmware := true, silent := true }).errorOf r.thread
        | _ => d) d

/-! ## Conversion, export and their end (R333, R335, R339, R479, R480) -/

/-- Next local page of a re-key on an engine, and one past the last. -/
def Dev.rekeyNext (d : Dev) (i m : Nat) : Nat × Nat :=
  let j := d.job i
  let c := d.regionChunks j.target m
  (max (64 * c.1) (tget j.boundary 0 m), 64 * c.2)

/-- The job has passed the region's last page on every engine. -/
def Dev.rekeyPassed (d : Dev) (i : Nat) : Bool :=
  (List.range (Kind.engines d.kind)).all fun m => let n := d.rekeyNext i m; decide (n.2 ≤ n.1)

/-- Costs of R479. -/
def Dev.pageCost (d : Dev) : Nat := fld d.power.cost.toNat 0 16
def Dev.chunkCost (d : Dev) : Nat := fld d.power.cost.toNat 16 16
def Dev.aheadCost (d : Dev) : Nat := fld d.power.cost.toNat 32 16

/-- Take tokens for a unit of background work: none where the balance is too small; an urgent job runs on at its floor
(R479, R480). -/
def Dev.takeTokens (d : Dev) (cost : Nat) (urgent : Bool) : Option Dev :=
  if d.power.unlimited then some (d.onPower fun p => { p with spent := sat 64 (p.spent + cost) })
  else if cost ≤ d.power.tokens then some (d.onPower fun p => { p with tokens := p.tokens - cost, spent := sat 64 (p.spent + cost) })
  else if urgent then some d
  else none

/-- The engine's conversion unit is at work. -/
def Dev.converting (d : Dev) (m : Nat) : Bool := (d.eng m).ops.any fun op => match op.act with
  | .convert _ | .exportPage => true
  | _ => false

/-- Begin the page at a job's boundary on an engine. -/
def Dev.convertNext (d : Dev) (m i : Nat) (ex : Bool) : Dev :=
  let j := d.job i
  let n := d.rekeyNext i m
  if !(j.kind = .rekey && (j.st = .queued || j.st = .running) && j.export_ = ex) || decide (n.2 ≤ n.1) || d.converting m
      || !d.powered (d.engDomain m) then d
  else match d.takeTokens d.pageCost j.urgent with
    | none => d
    | some d =>
      (d.onJob i fun j => { j with st := .running }).enqueue m
        { origin := .job i, act := if ex then .exportPage else .convert none, addr := d.pageLine m n.1, part := (d.reg j.target).thread,
          region := j.target }

/-- A job's page is done (R333, R335, R339). -/
def Dev.jobPageEnd (d : Dev) (m : Nat) (op : MemOp) (i : Nat) (r : MemRes) : Dev :=
  let j := d.job i
  if j.kind ≠ .rekey || j.target ≠ op.region || j.st ≠ .running then d
  else
    let next := d.localPage op.addr + 1
    let d := d.onJob i fun j =>
      { j with boundary := tset j.boundary 0 m next, passed := j.passed + 1, epochPassed := j.epochPassed + 1, lastReport := d.time,
               poisoned := j.poisoned || r.status = Status.treePoison }
    if r.status = Status.pagedOut then d.onJob i fun j => { j with st := .ending, status := Status.pagedOut }
    else if d.rekeyPassed i then
      d.onJob i fun j => { j with st := .ending, status := if j.poisoned then Status.treePoison else Status.done }
    else d

/-- Records of an export that the host path has not yet written. -/
def Dev.exportWrites (d : Dev) (i : Nat) : Bool := d.host.reqs.any fun r => match r.use with
  | .exportRecord j => j = i
  | _ => false

/-- Operations of a job under way on some engine. -/
def Dev.jobOps (d : Dev) (i : Nat) : Bool := d.engines.any fun e => e.2.ops.any fun op => op.origin = .job i

/-- A re-key whose pages have all passed ends (R335, R339, R340): the old key goes, unless its slot is an export key's, and the region
keeps the new one. An export that met a paged-out page leaves the region its own key and, for the pages in export form, key b; it
stays export-locked (notes/assumptions/37.md). -/
def Dev.rekeyEnd (d : Dev) (i : Nat) : Dev :=
  let j := d.job i
  if j.st ≠ .ending || j.kind ≠ .rekey || d.exportWrites i || d.jobOps i then d
  else if j.status = Status.pagedOut then
    (d.onReg j.target fun r =>
      { r with newSlot := none, loadedNew := 0, exportKey := some j.exportKey, exSlot := r.newSlot.getD 0, exLoaded := r.loadedNew,
               writes := r.oldWrites, oldWrites := 0 }).endJob i j.status
  else
    let r := d.reg j.target
    let d := if r.keyIsExport then d else d.freeSlot r.keySlot
    let slot := r.newSlot.getD r.keySlot
    let d := d.setReg j.target { r with
      keySlot := slot, loaded := r.loadedNew, newSlot := none, loadedNew := 0, epoch := r.epoch + 1, oldWrites := 0,
      importing := false, exportLocked := j.export_, exportKey := if j.export_ then some j.exportKey else none,
      exSlot := if j.export_ then slot else 0, exLoaded := if j.export_ then r.loadedNew else 0,
      exportedPages := if j.export_ then r.exportedPages else 0 }
    d.endJob i j.status

/-! ## UNMAPREG (R292, R349) -/

/-- `UNMAPREG` is refused at check 3: a BASE with a live BASE_MAP, or one that a `MAPREG` past its checks is to make (R292, R508). -/
def Dev.unmapBad (d : Dev) (region : Nat) : Bool :=
  let r := d.reg region
  r.kind = 1 && ((d.regions.any fun e => e.2.kind = 2 && e.2.st = .live && e.2.base = r.base && e.2.log2 = r.log2)
    || d.mapping.any fun x => x.2.1 = 2 && x.2.2.1 = r.base && x.2.2.2 = r.log2)

/-- A job on a region ends with REGION_FAULT; its operations that wait are dropped (R349, R350). -/
def Dev.endJobsOn (d : Dev) (region : Nat) : Dev :=
  match d.jobOn region with
  | none => d
  | some i =>
    let d := forBelow (Kind.engines d.kind) (fun m d =>
      forEach ((d.eng m).ops.filter fun op => op.origin = .job i) (fun op d => d.dropOp m op) d) d
    d.endJob i Status.regionFault

/-- No reference to a region is left (R349). -/
def Dev.regionDrained (d : Dev) (region : Nat) : Bool :=
  !d.engines.any (fun e => e.2.ops.any fun op => op.region = region) && !d.mergeHolds region

/-- The paging table's region has gone: the table is none, its records are lost (R349). -/
def Dev.dropTable (d : Dev) (r : Region) : Dev :=
  d.onTh r.thread fun t =>
    if t.pageTable ≠ 0 && t.pageTable = BitVec.ofNat 16 (r.gen * 4096 + r.index) then { t with pageTable := 0, pageOut := 0 } else t

/-- Free a region: its keys, its slot, the table it was (R349). -/
def Dev.freeRegion (d : Dev) (region : Nat) : Dev :=
  let r := d.reg region
  let ex := (d.jobOn region).any fun i => (d.job i).export_
  let d := if r.kind = 2 || r.keyIsExport then d else d.freeSlot r.keySlot
  let d := match r.newSlot with
    | some s => if ex then d else d.freeSlot s
    | none => d
  let d := d.dropTable r
  { (d.setReg region {}) with regionPool := d.regionPool.put region }

/-- `UNMAPREG` at its engine: CLOSING, jobs end, references drain. -/
def Dev.unmapreg (d : Dev) (thread row region : Nat) : Dev :=
  let ex := (d.jobOn region).any fun i => (d.job i).export_
  let d := if ex then d.onReg region fun r => { r with newSlot := none } else d
  ((d.endJobsOn region).onReg region fun r => { r with st := .closing }).working thread row

/-! ## Sweep (R350, R351) -/

/-- Withdraw waiting operations from every engine: a stream's access is answered REGION_FAULT, a square's line fails, any other ends
without effect. -/
def Dev.withdrawOps (d : Dev) (p : MemOp → Bool) : Dev :=
  forBelow (Kind.engines d.kind) (fun m d =>
    let out := (d.eng m).ops.filter p
    let d := forEach out (fun op d => d.dropOp m op) d
    forEach out (fun op d => match op.origin with
      | .stream tag _ => d.refuseAcc m tag (some op.part) Status.regionFault
      | .square id => d.squareEnd id op { status := Status.regionFault }
      | _ => d) d) d

/-- Why `SWEEP` of a partition is refused (R350). -/
def Dev.sweepRefusal (d : Dev) (thread k : Nat) : Option Byte :=
  if (d.part k).st ≠ .frozen || d.chans.any (fun e => e.2.st ≠ .free && e.2.thread = k) then some Status.denied
  else if d.thresh.jobs.any fun e => e.2.st ≠ .free && e.2.kind = .sweep && e.2.target = k then some Status.badField
  else if !d.jobRoom thread || d.freeJob.isNone then some Status.noSlot
  else none

/-- Zeroise every KEY-handle key of a partition and return its slots. -/
def Dev.eraseKeys (d : Dev) (k : Nat) : Dev :=
  d.larder.slots.foldl (fun d e => if (e.2.st = 1 || e.2.st = 2) && e.2.holder = k then d.freeSlot e.1 else d) d

/-- A partition's domain keys and domain state are gone (R164, R350): slot 8 + n, a pending key, those of overlaps. -/
def Dev.clearDomain (d : Dev) (n : Nat) : Dev :=
  let m := d.dom n
  let d := d.clearReserved (8 + n)
  let d := match m.pending with
    | some (s, _) => d.freeSlot s
    | none => d
  let d := forEach m.old (fun o d => d.freeSlot o.1) d
  d.onDom n fun _ => {}

/-- The crypto-erase of a Sweep (R350). -/
def Dev.cryptoErase (d : Dev) (k : Nat) : Dev :=
  let mine := (d.regions.filter fun e => e.2.thread = k && e.2.st ≠ .free).map (·.1)
  let d := forEach mine (fun r d => d.endJobsOn r) d
  let d := { d with merge := d.merge.filter fun e => e.part ≠ k && !mine.contains e.region }
  let d := d.withdrawOps fun op => mine.contains op.region
  let d := d.squares.foldl (fun d e => if e.2.st ≠ .free && e.2.thread = k then d.freeSquare e.1 else d) d
  let d := d.clearDomain k
  let d := (d.clearReserved (40 + k)).onPart k fun p => { p with importPair := 0 }
  let d := forEach mine (fun r d =>
    let x := d.reg r
    if x.kind = 2 then { (d.setReg r {}) with regionPool := d.regionPool.put r }
    else
      (d.setReg r { x with st := .closing, sweeping := true, keySlot := 0, newSlot := none, loaded := 0, loadedNew := 0, square := none,
                           importing := false }).freshRange x.base x.log2) d
  (d.eraseKeys k).onTh k Thread.renewHandles

/-- `SWEEP` at its engine. -/
def Dev.sweep (d : Dev) (thread row k : Nat) (cookie : BitVec 32) : Dev :=
  match d.sweepRefusal thread k with
  | some st => d.finish thread row st
  | none =>
    let i := d.freeJob.getD 0
    let d := d.cryptoErase k
    let d := d.setJob i { st := .queued, kind := .sweep, thread := thread, row := row, cookie := cookie, target := k, lastReport := d.time }
    (d.onTh thread fun t => { t with jobs := t.jobs + 1 }).finish thread row Status.done

/-- Regions a Sweep of a partition holds. -/
def Dev.sweepRegions (d : Dev) (k : Nat) : List Nat := (d.regions.filter fun e => e.2.sweeping && e.2.thread = k).map (·.1)

/-- The next local chunk of a Sweep on an engine. -/
def Dev.sweepNext (d : Dev) (i m : Nat) : Option Nat :=
  let j := d.job i
  let b := tget j.boundary 0 m
  (d.sweepRegions j.target).foldl (fun best r =>
    let c := d.regionChunks r m
    let n := max c.1 b
    if c.2 ≤ n then best
    else match best with
      | none => some n
      | some x => some (min x n)) none

/-- Free the regions every engine has passed; the last one ends the job (R351). -/
def Dev.sweepFree (d : Dev) (i : Nat) : Dev :=
  let j := d.job i
  let d := forEach (d.sweepRegions j.target) (fun r d =>
    if (List.range (Kind.engines d.kind)).all fun m => decide ((d.regionChunks r m).2 ≤ tget j.boundary 0 m) || decide
        ((d.regionChunks r m).2 ≤ (d.regionChunks r m).1) then
      { ((d.dropTable (d.reg r)).setReg r {}) with regionPool := d.regionPool.put r }
    else d) d
  if (d.sweepRegions j.target).isEmpty then d.endJob i Status.done else d

/-- One chunk of a Sweep: its level-1 node and its 64 leaves in the fresh form (R351). -/
def Dev.sweepChunk (d : Dev) (m i : Nat) : Dev :=
  let j := d.job i
  if j.kind ≠ .sweep || !(j.st = .queued || j.st = .running) then d
  else if (d.sweepRegions j.target).isEmpty then d.sweepFree i
  else if !d.powered (d.engDomain m) then d
  else match d.sweepNext i m with
    | none => d
    | some k =>
      match d.takeTokens d.chunkCost j.urgent with
      | none => d
      | some d =>
        let d := d.stackWrite m (l1Line k) (freshNode 0)
        let d := forBelow 64 (fun c d => d.stackWrite m (leafLine (64 * k + c)) (freshNode 0)) d
        let d := (d.addGlobal (188 + m) 1).onJob i fun j =>
          { j with st := .running, boundary := tset j.boundary 0 m (k + 1), passed := j.passed + 1, epochPassed := j.epochPassed + 1,
                   lastReport := d.time }
        d.sweepFree i

end Sys2Proof.Machine
end

