-- ==== Sys2Proof/Machine/Mgmt.lean ====
section
/-! DEFINITION. Secured sessions (R13, R132, R136) and Drathen management messages (R118 to R122): their layout, their answers, and the
order of session, state, credential and token checks. -/

namespace Sys2Proof.Machine

/-! ## Secured sessions (R13, R132, R136) -/

/-- A live session of a port by its session id. -/
def Dev.session (d : Dev) (at_ : SpdmPort) (i : Nat) : Option Session :=
  d.host.sessions.find? fun s => s.port = at_ && s.id.toNat = i

def Dev.onSession (d : Dev) (i : Nat) (f : Session → Session) : Dev :=
  d.onHost fun h => { h with sessions := h.sessions.map fun s => if s.id.toNat = i then f s else s }

/-- A session ends. -/
def Dev.dropSession (d : Dev) (i : Nat) : Dev := d.onHost fun h => { h with sessions := h.sessions.filter fun s => s.id.toNat ≠ i }

/-- A message was heard in a session. -/
def Dev.heard (d : Dev) (i : Nat) : Dev := d.onSession i fun s => { s with lastHeard := d.time }

/-- The record that carries a message from Kerre in a session: AES-256-GCM under the session's key of that direction, the initial vector
of the keys and the number of the record combined (notes/assumptions/13.md). -/
def Session.record (s : Session) (plain : Bytes) : Bytes :=
  let (k, iv) := Config.spdmTraffic s.secret (if s.established then s.th2 else s.th1) s.established s.updates true
  let head := natLe 4 s.id.toNat ++ natLe 2 (plain.length + 18)
  let c := gcmSeal k (xorB iv (natLe 12 s.sent)) head (natLe 2 plain.length ++ plain)
  head ++ c.1 ++ c.2

/-- Send a message inside a session. -/
def Dev.sayIn (d : Dev) (at_ : SpdmPort) (i : Nat) (s : Session) (plain : Bytes) : Dev :=
  (d.onSession i fun s => { s with sent := s.sent + 1 }).emit (.secured at_ (s.record plain))

/-! ## Messages (R120) -/

/-- A management command taken apart: code, sequence, body, what its signatures cover, the signatures. -/
structure MgmtMsg where
  code : Nat
  seq : Nat
  body : Bytes
  covered : Bytes
  p384 : Bytes
  mldsa : Bytes
  reserved : Bool

/-- Read a message: none where it is no Drathen message of this device or shorter than its body. -/
def MgmtMsg.of (b : Bytes) : Option MgmtMsg :=
  let n := leAt b 12 4
  if leAt b 0 1 ≠ 0x7F || beNat (slice b 1 4) ≠ Config.iana.toNat || decide (b.length < 48 + n) then none
  else some
    { code := leAt b 5 1, seq := leAt b 8 4, body := slice b 48 n, covered := slice b 5 (43 + n), p384 := slice b (48 + n) 96,
      mldsa := slice b (144 + n) 4627, reserved := !(zeroAt b 6 2 && zeroAt b 16 32) }

/-- A secured session on the management port. -/
def Dev.mgmtLive (d : Dev) (sess : Option Nat) : Option (Nat × Session) :=
  match sess with
  | some i => match d.session .management i with
    | some s => if s.established then some (i, s) else none
    | none => none
  | none => none

/-- Send a management message, inside its session where it has one. -/
def Dev.mgmtSend (d : Dev) (sess : Option Nat) (msg : Bytes) : Dev :=
  match d.mgmtLive sess with
  | some (i, s) => d.sayIn .management i s msg
  | none => d.emit (.management sess msg)

/-- The bytes of a response. -/
def mgmtBytes (code seq : Nat) (st : Byte) (nonce : Key) (body : Bytes) : Bytes :=
  [0x7F] ++ natBe 4 Config.iana.toNat ++ natLe 1 code ++ [st, 0] ++ natLe 4 seq ++ natLe 4 body.length ++ keyBytes nonce ++ body

/-- Answer a management command: a fresh nonce in every response (R120); the response waits while the DRBG does not serve (R79, R80). -/
def Dev.mgmtReply (d : Dev) (sess : Option Nat) (code seq : Nat) (st : Byte) (body : Bytes) : Dev :=
  if d.canDraw then
    let nonce := d.drawn (drawLabel none 0)
    (d.drew.onMgmt fun m => { m with nonce := some nonce }).mgmtSend sess (mgmtBytes code seq st nonce body)
  else d.drawLater (.answer sess code seq st body)

/-! ## Checks (R117 to R120) -/

/-- A token is live (R117). -/
def Dev.tokenLive (d : Dev) : Bool := match d.mgmt.armed with
  | some t => decide (d.time < t + 600000000000)
  | none => false

/-- Only GET_NONCE and GET_STATE are served: RETIRED (R110), or fused and waiting for its cold boot (R114). -/
def Dev.limited (d : Dev) : Bool :=
  d.reset.status = 0 && d.reset.phase = .none && (d.mgmt.coldNeeded || d.lc = .retired)

/-- The management port answers: it serves one command at a time. -/
def Dev.mgmtUp (d : Dev) : Bool := (d.serving || d.limited) && d.mgmt.blow.isNone

/-- A command comes in a secured session on the management port. -/
def Dev.mgmtSession (d : Dev) (sess : Option Nat) : Bool := (d.mgmtLive sess).isSome

/-- A message came in a session: its time runs anew (R136). -/
def Dev.mgmtHeard (d : Dev) (sess : Option Nat) : Dev :=
  match d.mgmtLive sess with
  | some (i, _) => d.heard i
  | none => d

/-- A message with a nonzero reserved field is discarded and counted (R11). -/
def Dev.mgmtDiscard (d : Dev) : Dev := d.onMgmt fun m => { m with discarded := m.discarded + 1 }

/-- Both signatures verify under the presented credential over the latest nonce, and the sequence is new (R120). -/
def Dev.signedOk (d : Dev) (m : MgmtMsg) : Bool :=
  match d.mgmt.cred, d.mgmt.nonce with
  | some c, some n =>
    let msg := keyBytes n ++ m.covered
    Config.p384Verify (slice c 0 97) msg m.p384 && Config.mldsaVerify (slice c 97 2592) [] msg m.mldsa
      && (match d.mgmt.lastSeq with
        | some l => decide (l < m.seq)
        | none => true)
  | _, _ => false

/-- Run a management command: outside a session only where `outside` allows it; then what the state refuses, then the
signatures, then the token, which is consumed. A message of another code changes nothing. A signed command counts as accepted, and its
sequence as used, once its signatures verify, even where no token is live (DESIGN CHOICE, notes/assumptions/77.md). -/
def Dev.mgmtRun (d : Dev) (sess : Option Nat) (msg : Bytes) (code : Nat) (outside signed presence : Bool)
    (refusal : MgmtMsg → Dev → Option Byte) (run : MgmtMsg → Dev → Dev) : Dev :=
  match MgmtMsg.of msg with
  | none => d
  | some m =>
    if !d.mgmtUp || m.code ≠ code then d
    else
      let no (st : Byte) (d : Dev) : Dev := d.mgmtReply sess m.code m.seq st []
      if m.reserved then d.mgmtDiscard else
      let d := d.mgmtHeard sess
      if (sess.isSome && !d.mgmtSession sess) || (sess.isNone && !outside) || (d.limited && decide (1 < code)) then no Status.denied d
      else match refusal m d with
        | some st => no st d
        | none =>
          if signed && !d.signedOk m then no Status.denied d
          else
            let d := if signed then d.onMgmt fun x => { x with lastSeq := some m.seq } else d
            if presence && !d.tokenLive then no Status.presenceRequired d
            else run m (if presence then d.onMgmt fun x => { x with armed := none } else d)

end Sys2Proof.Machine
end

