-- ==== Sys2Proof/Machine/Vault.lean ====
section
/-! DEFINITION. The Vault port (R390 to R408): frames, opening, pairing, programming, the manifest, loads and the seal. -/

namespace Sys2Proof.Machine

/-! ## Frames (R392, R393) -/

namespace Frame
abbrev hello := 0x01
abbrev ident := 0x02
abbrev proof := 0x03
abbrev openAck := 0x04
abbrev pair := 0x05
abbrev pairOk := 0x06
abbrev manifestReq := 0x07
abbrev manifest := 0x08
abbrev keyReq := 0x09
abbrev key := 0x0A
abbrev shardReq := 0x0B
abbrev shardData := 0x0C
abbrev progData := 0x0D
abbrev progCommit := 0x0E
abbrev progOk := 0x0F
abbrev unpair := 0x10
abbrev close := 0x11
abbrev error := 0x1F
end Frame

/-- Kinds without a trailer (R392). -/
def bareKind (kind : Nat) : Bool := kind = Frame.shardData || kind = Frame.progData

/-- Send a frame with the next sequence and, where the link has one, its trailer (R392). -/
def Dev.vsend (d : Dev) (kind : Nat) (body : Bytes) : Dev :=
  let v := d.vault
  let b := natLe 1 kind ++ [0x01, 0, 0] ++ natLe 4 body.length ++ natLe 8 v.seqOut ++ body
  let t := match v.trailer with
    | some k => if bareKind kind then [] else hmac (keyBytes k) b
    | none => []
  (d.onVault fun v => { v with seqOut := v.seqOut + 1 }).emit (.vault (b ++ t))

/-- The body of a received frame of a kind; none where its version, reserved bytes, length, sequence or trailer is wrong. -/
def Vault.body (v : Vault) (f : Bytes) (kind : Nat) (key : Option Key) : Option Bytes :=
  let n := leAt f 4 4
  let t := if bareKind kind then none else key
  let total := 16 + n + (if t.isSome then 48 else 0)
  if leAt f 1 1 ≠ 1 || !zeroAt f 2 2 || leAt f 8 8 ≠ v.seqIn || f.length ≠ total then none
  else match t with
    | some k => if hmac (keyBytes k) (f.take (16 + n)) = f.drop (16 + n) then some (slice f 16 n) else none
    | none => some (slice f 16 n)

/-! ## Endings (R391, R392, R396, R402, R405) -/

/-- A wait of the Vault link for the DRBG. -/
def DrawReq.ofVault : DrawReq → Bool
  | .hello => true
  | .pair _ => true
  | _ => false

/-- The link closes: slot 6 and the content-key register are zeroised. -/
def Dev.linkClosed (d : Dev) : Dev :=
  ({ d with drawWait := d.drawWait.filter fun r => !r.ofVault }.clearReserved 6).onVault fun v =>
    { v with st := .closed, await := .none, trailer := none, contentKey := 0, newPair := 0, manifest := [], manifestId := 0, req := {} }

/-- A load ends (R402): its job event; with `replace` clear the region is freed as UNMAPREG frees one, with it set the region stays
mapped, withheld and all fresh. -/
def Dev.endLoad (d : Dev) (l : VLoad) (st : Byte) : Dev :=
  let r := d.reg l.region
  let d := d.jobEvent l.thread l.row 0x61 st l.cookie
  let d := d.onVault fun v => { v with loads := v.loads.filter fun x => x ≠ l }
  if st = Status.done || r.st ≠ .live then d
  else if l.replace then
    (d.setReg l.region { r with loadLocked := false, withheld := true, vault := none }).freshRange r.base r.log2
  else
    let d := d.onTh r.thread fun t =>
      let e := t.handle .region r.index
      t.setHandle .region r.index { e with gen := nextGen e.gen, st := .closing }
    d.setReg l.region { r with st := .closing, reap := true, loadLocked := false }

/-- Every load ends with a status; writes of a shard still under way are withdrawn. -/
def Dev.endLoads (d : Dev) (st : Byte) : Dev :=
  let d := d.withdrawOps fun op => op.origin = .vault
  let d := forEach d.vault.loads (fun l d => d.endLoad l st) d
  d.onVault fun v => { v with loadRunning := false, await := if v.await = .shard then .none else v.await }

/-- Regions whose load ended badly are freed with their handle entries once drained. -/
def Dev.reapRegions (d : Dev) : Dev :=
  d.regions.foldl (fun d e =>
    if e.2.reap && d.regionDrained e.1 then
      (d.onTh e.2.thread fun t =>
        let h := t.handle .region e.2.index
        t.setHandle .region e.2.index { h with st := .free, slot := 0 }).freeRegion e.1
    else d) d

/-- A programming ends with a status (R406). -/
def Dev.endProgram (d : Dev) (st : Byte) : Dev :=
  (d.onVault fun v => { v with progBusy := false, progStatus := st }).raise 83

/-- The running exchange, its loads or its programming ends with a status, and the link closes. -/
def Dev.vfail (d : Dev) (st : Byte) : Dev :=
  let v := d.vault
  let d := d.endLoads st
  let d := match v.req.row with
    | some (t, r) => d.finish t r st
    | none => if v.req.code ≠ 0 then d.mgmtReply v.req.sess v.req.code.toNat v.req.seq.toNat st [] else d
  let d := if v.progBusy then d.endProgram st else d
  d.linkClosed

/-- Take a frame of a kind that the link awaits; a bad or unexpected frame is discarded and closes the link (R392). A frame on a
closed link, or while the Vault domain is off, is ignored. -/
def Dev.vtake (d : Dev) (f : Bytes) (kind : Nat) (await : VAwait) (key : Option Key) (run : Bytes → Dev → Dev) : Dev :=
  let v := d.vault
  if leAt f 0 1 ≠ kind || v.st = .closed || !d.powered 4 || !d.ready then d
  else match v.body f kind key with
    | none => d.vfail Status.vaultAuth
    | some body =>
      if v.await ≠ await then d.vfail Status.vaultAuth
      else run body (d.onVault fun v => { v with seqIn := v.seqIn + 1, await := .none })

/-- Send a request and await its answer. -/
def Dev.vask (d : Dev) (kind : Nat) (body : Bytes) (a : VAwait) : Dev :=
  (d.vsend kind body).onVault fun v => { v with await := a, since := d.time }

/-! ## Keys (R394) -/

/-- K_p for an epoch (R394): none without a sealing key. -/
def Dev.pairingKey (d : Dev) (epoch : Nat) : Option Key :=
  (d.resKey 1).map fun s => kdfKey s (label Purpose.valt 0 0x80 0 0x80 (d.vault.serial.toNat % 2 ^ 32) epoch)

/-- K_l of a session (R394). -/
def linkKey (pair : Key) (session : Nat) : Key := kdfKey pair (label Purpose.valt 0 0x80 0 0x80 1 session)

/-- The recipient label of an encapsulation to the module (R394). -/
def Dev.moduleLabel (d : Dev) : Bytes := label Purpose.valt 0 0x80 0 0x80 (d.vault.serial.toNat % 2 ^ 32) 0

/-! ## Beginning an exchange (R391, R393, R395, R396) -/

/-- Why an exchange may not begin: the domain is off, the seal, an open link or a running programming (R391, R395, R396, R473). A pairing
runs with `seal_event` set. -/
def Dev.vaultRefusal (d : Dev) (pairing : Bool) : Option Byte :=
  if !d.powered 4 then some Status.denied
  else if d.vault.sealOpen || (d.vault.sealEvent && !pairing) then some Status.vaultSeal
  else if d.vault.st ≠ .closed || d.vault.progBusy then some Status.denied
  else none

/-- Send the HELLO of an exchange that has begun, with the next draw; it waits while the DRBG does not serve (R79, R80, R393). -/
def Dev.sayHello (d : Dev) : Dev :=
  if d.canDraw then
    let n := d.drawn (drawLabel none 0)
    (d.drew.onVault fun v => { v with nK := n }).vask Frame.hello (keyBytes n ++ natLe 1 d.vault.purpose ++ [0, 0, 0]) .ident
  else d.drawLater .hello

/-- Begin an exchange for a purpose: frame numbers begin again (R392, R393). -/
def Dev.hello (d : Dev) (purpose : Nat) (st : VState) (req : VReq) : Dev :=
  (d.onVault fun v =>
    { v with st := st, purpose := purpose, req := req, await := .none, seqOut := 0, seqIn := 0, trailer := none }).sayHello

/-! ## Turns (R408) -/

/-- No exchange runs for a step or a management command. -/
def Vault.unasked (v : Vault) : Bool := v.req = {}

/-- A step of the Vault island has its turn: no exchange runs, and no management command that came before its dispatch waits for one. -/
def Vault.stepTurn (v : Vault) (x : Flight) : Bool := v.unasked && !v.waiting.any fun w => decide (w.came < x.dispatchedAt)

/-- A management command that came at a time has its turn: no exchange runs, and no `VOPEN` dispatched by then waits for one. -/
def Dev.commandTurn (d : Dev) (came : Nat) : Bool :=
  d.vault.unasked && !(d.th d.mgr).flights.any fun x =>
    x.stage = .dispatched && (Step.of x.step).op = some .vopen && decide (x.dispatchedAt ≤ came)

/-- `VOPEN` at its engine (R395). -/
def Dev.vopen (d : Dev) (thread row : Nat) (x : Flight) : Dev :=
  if !d.vault.stepTurn x then d else
  match d.vaultRefusal false with
  | some st => d.finish thread row st
  | none => if d.canDraw then (d.hello 0 .opening { row := some (thread, row) }).working thread row else d.awaitDrbg thread row

/-! ## The manifest (R397, R398) -/

/-- Entry x of a manifest. -/
def entryOf (m : Bytes) (x : Nat) : Bytes := slice m (4608 + 64 * x) 64
def entryLength (e : Bytes) : Nat := leAt e 0 8
def entryFirst (e : Bytes) : Nat := leAt e 8 4
def entryCount (e : Bytes) : Nat := leAt e 12 4

/-- Bytes of a full shard (R399). -/
def shardBytes : Nat := 67108864

/-- The rule of one entry, given the first shard it must name. -/
def entryOk (e : Bytes) (first : Nat) : Bool :=
  decide (0 < entryLength e) && entryLength e % 32 = 0 && entryFirst e = first
    && entryCount e = (entryLength e + shardBytes - 1) / shardBytes && decide (leAt e 16 1 < 2) && zeroAt e 17 7 && zeroAt e 56 8

/-- Entries from x on, n of them, follow their rules; the total of their shards. -/
def entriesOk (m : Bytes) (n x first : Nat) : Option Nat :=
  match n with
  | 0 => some first
  | k + 1 => if entryOk (entryOf m x) first then entriesOk m k (x + 1) (first + entryCount (entryOf m x)) else none

/-- A manifest is accepted (R397). -/
def manifestOk (m : Bytes) : Bool :=
  let e := leAt m 6 2
  let end_ := 4608 + 64 * e
  decide (m.length ≤ 16384) && m.length = end_ + 96 + 4627 && slice m 0 4 = [0x4B, 0x4D, 0x41, 0x4E] && leAt m 4 2 = 1
    && decide (1 ≤ e) && decide (e ≤ 64) && leAt m 8 8 ≠ 0 && zeroAt m 20 44 && zeroAt m 2753 63
    && entriesOk m e 0 0 = some (leAt m 16 4)
    && Config.p384Verify (slice m 64 97) (m.take end_) (slice m end_ 96)
    && Config.mldsaVerify (slice m 161 2592) ([0x6B, 0x65, 0x72, 0x72, 0x65, 0x2D] ++ [0x6D, 0x61, 0x6E, 0x69, 0x66, 0x65, 0x73, 0x74])
        (m.take (end_ + 96)) (slice m (end_ + 96) 4627)

/-! ## Programming (R406) -/

/-- Piece of an image sent in one PROG_DATA (notes/assumptions/40.md). -/
def progPiece : Nat := 65536

/-- Read the next piece of the image from host memory, or commit when all is sent. -/
def Dev.progNext (d : Dev) : Dev :=
  let v := d.vault
  if v.progBytes < v.imageLength then
    let at_ := v.progBytes
    d.hostStart false 0 (v.progAddr.toNat + at_) (min progPiece (v.imageLength - at_)) [] (.image (at_ + 1))
  else d.vask Frame.progCommit (natLe 8 v.imageLength) .progOk

/-- Host data of an image has come: offset 0 is the manifest, at which the command's check stands; k + 1 a piece from k on. -/
def Dev.imageRead (d : Dev) (offset : Nat) (ok : Bool) (data : Bytes) : Dev :=
  let v := d.vault
  if offset = 0 then
    if v.st ≠ .programming || v.await ≠ .none then d
    else
      let e := leAt data 6 2
      let m := data.take (4608 + 64 * e + 96 + 4627)
      if ok && manifestOk m then (d.onVault fun v => { v with manifest := m }).hello 2 .programming v.req
      else d.vfail Status.vaultAuth
  else if !v.progBusy then d
  else if !ok then d.vfail Status.vaultAuth
  else ((d.vsend Frame.progData (natLe 8 (offset - 1) ++ data)).onVault fun v => { v with progBytes := v.progBytes + data.length }).progNext

/-- Life used after a programming, in tenths of a cycle rounded up (R406). -/
def Vault.lifeAfter (v : Vault) : Nat :=
  let cap := v.capacity.toNat * 2 ^ 30
  v.life.toNat + (if cap = 0 then 0 else (10 * v.imageLength + cap - 1) / cap)

/-! ## Frames from the module (R393 to R396, R406) -/

/-- The fields of an IDENT whose chains and signatures hold (R393, R395). -/
def Dev.identOk (d : Dev) (b : Bytes) : Bool :=
  let n1 := leAt b 56 4
  let n2 := leAt b 60 4
  let c1 := slice b 64 n1
  let c2 := slice b (64 + n1) n2
  let sig := 64 + n1 + n2 + 1665
  let (k1, k2) := Config.vaultLeafKeys c1 c2
  let msg := keyBytes d.vault.nK ++ b.take sig
  b.length = sig + 96 + 4627 && zeroAt b 22 2 && Config.vaultChainsOk c1 c2 && Config.p384Verify k1 msg (slice b sig 96)
    && Config.mldsaVerify k2 [0x6B, 0x65, 0x72, 0x72, 0x65, 0x2D, 0x76, 0x61, 0x75, 0x6C, 0x74] msg (slice b (sig + 96) 4627)
    && decide (leAt b 8 4 ≤ 8192)

/-- The module's storage keys as IDENT carries them: P-384 point, ML-KEM key. -/
def storageKeys (b : Bytes) : Bytes × Bytes :=
  let at_ := 64 + leAt b 56 4 + leAt b 60 4
  (slice b at_ 97, slice b (at_ + 97) 1568)

/-- Record what IDENT tells (R409). -/
def Vault.record (v : Vault) (b : Bytes) : Vault :=
  { v with serial := BitVec.ofNat 64 (leAt b 0 8), capacity := BitVec.ofNat 32 (leAt b 8 4), programs := BitVec.ofNat 32 (leAt b 12 4),
           life := BitVec.ofNat 16 (leAt b 16 2), pairEpoch := BitVec.ofNat 16 (leAt b 18 2), sessions := BitVec.ofNat 16 (leAt b 20 2),
           nM := bytesKey (slice b 24 32), lifeSpent := decide (30000 ≤ leAt b 16 2) }

/-- The PAIR that answers an IDENT: the new pairing key to the module's storage keys, once those pass the engine's checks (R105, R396). -/
def Dev.vpair (d : Dev) (b : Bytes) : Dev :=
  let e := d.vault.pairEpoch.toNat + 1
  let (p, m) := storageKeys b
  match d.pairingKey e with
  | none => d.vfail Status.vaultAuth
  | some k =>
    if !recipientOk p m then d.vfail Status.vaultAuth
    else if !d.canDraw then d.drawLater (.pair b)
    else
      let blob := encapsulate none d.larder.drbg.draws p m d.moduleLabel k
      ((d.drew.pkeUse d.mgr).onVault fun v => { v with newPair := k }).vask Frame.pair (natLe 2 e ++ [0, 0] ++ blob) .pairOk

/-- IDENT (R395, R396, R406). An epoch of 0xFFFF names no key (R77). -/
def Dev.vident (d : Dev) (f : Bytes) : Dev :=
  d.vtake f Frame.ident .ident none fun b d =>
    if !d.identOk b then d.vfail Status.vaultAuth
    else
      let d := d.onVault fun v => v.record b
      let v := d.vault
      let e := v.pairEpoch.toNat
      if v.purpose = 1 then
        if 0xFFFE ≤ e then d.vfail Status.keyEpoch else d.vpair b
      else if e = 0 then d.vfail Status.vaultAuth
      else if e = 0xFFFF then d.vfail Status.keyEpoch
      else if v.purpose = 2 then
        if 30000 < v.lifeAfter then d.vfail Status.vaultLife
        else
          let d := (d.mgmtReply v.req.sess v.req.code.toNat v.req.seq.toNat Status.done []).onVault fun v =>
            { v with req := {}, progBusy := true, progBytes := 0 }
          d.progNext
      else match d.pairingKey e with
        | none => d.vfail Status.vaultAuth
        | some k => match d.setReserved 5 k Origin.derived e with
          | none => d.vfail Status.noSlot
          | some d => d.onVault fun v => { v with await := .proof, since := d.time }

/-- PROOF (R395, R396): for an open, the link key and OPEN_ACK; for an unpairing, UNPAIR. -/
def Dev.vproof (d : Dev) (f : Bytes) : Dev :=
  d.vtake f Frame.proof .proof none fun b d =>
    let v := d.vault
    match d.resKey 5 with
    | none => d.vfail Status.vaultAuth
    | some k =>
      if hmac (keyBytes k) (keyBytes v.nK ++ keyBytes v.nM ++ natLe 2 v.sessions.toNat) ≠ b then d.vfail Status.vaultAuth
      else if v.purpose = 3 then
        ((d.vsend Frame.unpair []).mgmtReply v.req.sess v.req.code.toNat v.req.seq.toNat Status.done []).linkClosed
      else if v.sessions = 0xFFFF then d.vfail Status.keyEpoch
      else
        let l := linkKey k v.sessions.toNat
        match d.setReserved 6 l Origin.derived v.sessions.toNat with
        | none => d.vfail Status.noSlot
        | some d => ((d.vsend Frame.openAck []).onVault fun v => { v with trailer := some l }).vask Frame.manifestReq [] .manifest

/-- PAIR_OK (R392, R396): its trailer verifies under the new key, which takes slot 5. -/
def Dev.vpairOk (d : Dev) (f : Bytes) : Dev :=
  d.vtake f Frame.pairOk .pairOk (some d.vault.newPair) fun b d =>
    let v := d.vault
    if b ≠ [] then d.vfail Status.vaultAuth
    else
      let e := v.pairEpoch.toNat + 1
      match d.setReserved 5 v.newPair Origin.derived e with
      | none => d.vfail Status.noSlot
      | some d =>
        let d := d.mgmtReply v.req.sess v.req.code.toNat v.req.seq.toNat Status.done
          (natLe 8 v.serial.toNat ++ natLe 2 e ++ List.replicate 6 0)
        (d.onVault fun v => { v with sealEvent := false, pairEpoch := BitVec.ofNat 16 e, sessions := 0 }).linkClosed

/-- MANIFEST (R395, R397). -/
def Dev.vmanifest (d : Dev) (f : Bytes) : Dev :=
  d.vtake f Frame.manifest .manifest d.vault.trailer fun b d =>
    if manifestOk b then (d.onVault fun v => { v with manifest := b }).vask Frame.keyReq [] .key else d.vfail Status.vaultAuth

/-- KEY (R395): the content key is unwrapped and the open ends. -/
def Dev.vkey (d : Dev) (f : Bytes) : Dev :=
  d.vtake f Frame.key .key d.vault.trailer fun b d =>
    match if b.length = 40 then (d.vault.trailer).bind fun k => kwUnwrap k b else none with
    | none => d.vfail Status.vaultAuth
    | some k =>
      let v := d.vault
      let d := d.onVault fun v =>
        { v with st := .open_, contentKey := bytesKey k, manifestId := BitVec.ofNat 64 (leAt v.manifest 8 8), reportSerial := v.serial,
                 reportPrograms := v.programs, reportDigest := sha384d v.manifest, req := {} }
      match v.req.row with
      | some (t, r) => d.finish t r Status.done
      | none => d

/-- PROG_OK (R406). -/
def Dev.vprogOk (d : Dev) (f : Bytes) : Dev :=
  d.vtake f Frame.progOk .progOk none fun b d =>
    if b.length ≠ 6 then d.vfail Status.vaultAuth
    else
      ((d.onVault fun v => { v with
          programs := BitVec.ofNat 32 (leAt b 0 4), life := BitVec.ofNat 16 (leAt b 4 2),
          lifeSpent := decide (30000 ≤ leAt b 4 2) }).endProgram Status.done).linkClosed

/-- ERROR (R396, R410). -/
def Dev.verror (d : Dev) (f : Bytes) : Dev :=
  d.vtake f Frame.error d.vault.await d.vault.trailer fun b d =>
    let reason := leAt b 0 1
    (d.onVault fun v => { v with lastError := BitVec.ofNat 8 reason }).vfail
      (if reason = 1 then Status.vaultSeal else if reason = 3 then Status.vaultLife else Status.vaultAuth)

/-! ## Loading (R400 to R403) -/

/-- Why `VLOAD` is refused (R400, R473). -/
def Dev.vloadRefusal (d : Dev) (thread region : Nat) (s : Step) : Option Byte :=
  let v := d.vault
  let r := d.reg region
  let replace := bitOf s.d 32
  if !d.powered 4 || !(v.st = .open_ || v.st = .loading) then some Status.denied
  else if leAt v.manifest 6 2 ≤ s.c || decide (2 ^ r.log2 < entryLength (entryOf v.manifest s.c)) then some Status.badField
  else if r.kind ≠ 1 then some Status.denied
  else if (r.share ≠ 0) ≠ (replace = true) then some Status.badField
  else if replace && (List.range d.nparts).any (fun n => r.share.getLsbD n && (d.part n).st ≠ .frozen) then some Status.denied
  else if v.loads.any fun l => l.region = region then some Status.badField
  else if 4 ≤ v.loads.length || !d.jobRoom thread then some Status.noSlot
  else none

/-- `VLOAD` at its engine. -/
def Dev.vload (d : Dev) (thread row : Nat) (x : Flight) : Dev :=
  if !d.vault.stepTurn x then d else
  let s := Step.of x.step
  match d.vloadRefusal thread x.slot s with
  | some st => d.finish thread row st
  | none =>
    let l : VLoad :=
      { thread := thread, row := row, region := x.slot, handle := BitVec.ofNat 16 s.a, entry := s.c, cookie := BitVec.ofNat 32 s.d,
        replace := bitOf s.d 32 }
    ((d.onVault fun v => { v with loads := v.loads ++ [l] }).onTh thread fun t => { t with jobs := t.jobs + 1 }).finish thread row Status.done

/-- The entry of the running load. -/
def Vault.entry (v : Vault) : Bytes := match v.loads with
  | l :: _ => entryOf v.manifest l.entry
  | [] => []

/-- Length of shard i of the running load, counted from its first (R399). -/
def Vault.shardLength (v : Vault) (i : Nat) : Nat := min shardBytes (entryLength v.entry - i * shardBytes)

/-- Ask for the next shard of the running load. -/
def Dev.askShard (d : Dev) : Dev := d.vask Frame.shardReq (natLe 4 (entryFirst d.vault.entry + d.vault.shardNext)) .shard

/-- The next load starts (R401) once accesses admitted before have completed. -/
def Dev.vloadStart (d : Dev) : Dev :=
  let v := d.vault
  match v.loads with
  | [] => d
  | l :: _ =>
    let r := d.reg l.region
    if v.loadRunning || v.st ≠ .open_ || v.await ≠ .none || !d.powered 4 ||
        d.engines.any (fun e => e.2.ops.any fun op => d.keyReg op.region = l.region) then d
    else match d.nextBase.bind fun (seq, d) => (d.baseKey seq).map fun k => (k, d) with
      | some (key, d) =>
        let d := d.fillRegionKey r.keySlot l.region r.thread r.gen 1 0 key
        let d := (d.setReg l.region { r with loaded := key, loadLocked := true, withheld := false, vault := none, writes := 0 }).freshRange
          r.base r.log2
        (d.onVault fun v => { v with st := .loading, loadRunning := true, shardsWritten := 0, shardNext := 0, retries := 0 }).askShard
      | none => d.endLoad l Status.regionFault

/-- A shard has failed (R402): its chunks are made fresh and it is asked for again, four times at most. -/
def Dev.shardFail (d : Dev) (tag : Bool) : Dev :=
  let v := d.vault
  match v.loads with
  | [] => d
  | l :: _ =>
    let d := d.onVault fun v =>
      if tag then { v with shardTagFails := sat 16 (v.shardTagFails + 1) } else { v with shardLate := sat 16 (v.shardLate + 1) }
    let d := d.withdrawOps fun op => op.origin = .vault
    let c := (d.reg l.region).base / 2 ^ 19 + v.shardNext * 128
    let d := d.freshChunks c (c + (v.shardLength v.shardNext + 2 ^ 19 - 1) / 2 ^ 19)
    if 3 ≤ v.retries then
      (d.onVault fun v => { v with loadRunning := false, st := .open_, await := .none }).endLoad l Status.vaultShard
    else (d.onVault fun v => { v with retries := v.retries + 1 }).askShard

/-- Write a shard's plaintext into the region (R401). -/
def Dev.writeShard (d : Dev) (l : VLoad) (base : Nat) (plain : Bytes) : Dev :=
  forBelow ((plain.length + 127) / 128) (fun i d =>
    let n := min 128 (plain.length - 128 * i)
    d.lineOp .vault (.write (bytesLine (slice plain (128 * i) 128)) (BitVec.ofNat 128 (2 ^ n - 1))) (base / 128 + i) d.mgr l.region) d

/-- SHARD_DATA (R399, R401, R402). A shard of a load that has ended is dropped. -/
def Dev.vshard (d : Dev) (f : Bytes) : Dev :=
  d.vtake f Frame.shardData .shard none fun b d =>
    let v := d.vault
    match v.loads with
    | [] => d
    | l :: _ =>
      if !v.loadRunning then d
      else
        let n := v.shardLength v.shardNext
        let k := entryFirst v.entry + v.shardNext
        let size := b.length - 8
        if leAt b 0 4 ≠ k || !zeroAt b 4 4 || !(size = n + 16 || size = (n + 16 + 63) / 64 * 64) || !zeroAt b (24 + n) (size - n - 16) then
          d.shardFail false
        else
          let id := leAt v.manifest 8 8
          let iv := natBe 8 id ++ natBe 4 k
          let aad := natLe 8 id ++ natLe 2 l.entry ++ [0, 0] ++ natLe 4 k ++ natLe 4 n ++ [0, 0, 0, 0]
          match gcmOpen v.contentKey iv aad (slice b 8 n) (slice b (8 + n) 16) with
          | none => d.shardFail true
          | some plain =>
            let d := d.writeShard l ((d.reg l.region).base + v.shardNext * shardBytes) plain
            let d := (d.addGlobal 326 n).onVault fun v =>
              { v with shards := sat 32 (v.shards + 1), shardsWritten := v.shardsWritten + 1, shardNext := v.shardNext + 1, retries := 0 }
            if d.vault.shardNext < entryCount v.entry then d.askShard else d

/-- A load whose last shard is written ends with DONE (R402, R403). -/
def Dev.loadSettle (d : Dev) : Dev :=
  let v := d.vault
  match v.loads with
  | [] => d
  | l :: _ =>
    if v.loadRunning && v.await = .none && decide (entryCount v.entry ≤ v.shardNext) &&
        !d.engines.any (fun e => e.2.ops.any fun op => op.origin = .vault) then
      let d := d.onReg l.region fun r =>
        { r with loadLocked := false, vault := some (sha384d v.manifest, l.entry, bitOf (leAt v.entry 16 1) 0) }
      (d.onVault fun v => { v with loadRunning := false, st := .open_ }).endLoad l Status.done
    else d

/-- A load of a region ends because the region is unmapped (R402, R408). -/
def Dev.unmapLoad (d : Dev) (region : Nat) : Dev :=
  match d.vault.loads.find? fun l => l.region = region with
  | none => d
  | some l =>
    let running := d.vault.loadRunning && d.vault.loads.head? = some l
    let d := if running then d.withdrawOps fun op => op.origin = .vault else d
    let d := d.jobEvent l.thread l.row 0x61 Status.regionFault l.cookie
    d.onVault fun v =>
      { v with loads := v.loads.filter fun x => x ≠ l, loadRunning := v.loadRunning && !running, st := if running then .open_ else v.st }

/-- A running load makes no progress (R447): it ends with HANG. -/
def Dev.loadStall (d : Dev) : Dev :=
  match d.vault.loads with
  | l :: _ =>
    if d.vault.loadRunning then
      ((d.withdrawOps fun op => op.origin = .vault).onVault fun v => { v with loadRunning := false, st := .open_ }).endLoad l Status.hang
    else d
  | [] => d

/-! ## Timeouts, closing, the seal (R391, R393, R405) -/

/-- The module has not answered within 10 ms (R393): a shard fails, any other exchange ends. -/
def Dev.frameLate (d : Dev) : Dev :=
  let v := d.vault
  if v.await = .none || decide (d.time < v.since + 10000000) then d
  else if v.await = .shard then (if v.loadRunning then d.shardFail false else d.onVault fun v => { v with await := .none })
  else d.vfail Status.vaultAuth

/-- `VCLOSE` at its engine (R405). -/
def Dev.vclose (d : Dev) (thread row : Nat) (x : Flight) : Dev :=
  if !d.vault.stepTurn x then d
  else if !d.vault.loads.isEmpty then d.finish thread row Status.badField
  else if d.vault.st = .open_ then ((d.vsend Frame.close []).linkClosed).finish thread row Status.done
  else ((d.clearReserved 6).onVault fun v => { v with contentKey := 0 }).finish thread row Status.done

/-- The seal has opened (R391). -/
def Dev.sealFell (d : Dev) : Dev :=
  let d := d.vfail Status.vaultSeal
  ((((d.clearReserved 5).clearReserved 6).onVault fun v => { v with sealOpen := true, sealEvent := true, contentKey := 0 }).edge 130).level 131 true

/-! ## Management commands (R396, R406) -/

/-- `VAULT.STATUS` (R410). -/
def VState.code : VState → Nat
  | .closed => 0
  | .opening => 1
  | .open_ => 2
  | .loading => 3
  | .programming => 4
  | .pairing => 5

def Vault.status (v : Vault) : Nat :=
  v.lastError.toNat * 2 ^ 16 + b2n v.progBusy * 2 ^ 11 + b2n v.lifeSpent * 2 ^ 10 + b2n v.sealEvent * 2 ^ 9 + b2n v.sealOpen * 2 ^ 8
    + v.loads.length * 2 ^ 4 + VState.code v.st

def Vault.counts (v : Vault) : Nat := v.programs.toNat + v.life.toNat * 2 ^ 32
def Vault.pairing (v : Vault) : Nat := v.pairEpoch.toNat + v.sessions.toNat * 2 ^ 16 + v.capacity.toNat * 2 ^ 32

def Dev.vaultState (d : Dev) (sess : Option Nat) (msg : Bytes) : Dev :=
  d.mgmtRun sess msg 0x20 false false false (fun _ _ => none) fun m d =>
    let v := d.vault
    d.mgmtReply sess m.code m.seq Status.done (natLe 8 v.status ++ natLe 8 v.serial.toNat ++ natLe 8 v.counts ++ natLe 8 v.pairing)

/-- The request a command's exchange answers. -/
def reqOf (sess : Option Nat) (m : MgmtMsg) : VReq :=
  { code := BitVec.ofNat 8 m.code, seq := BitVec.ofNat 32 m.seq, sess := sess }

/-- Run a command that begins an exchange, or let it wait its turn (R408). -/
def Dev.inTurn (d : Dev) (sess : Option Nat) (msg : Bytes) (came : Nat) (run : Dev → Dev) : Dev :=
  if d.commandTurn came then run d else d.onVault fun v => { v with waiting := v.waiting ++ [{ sess := sess, msg := msg, came := came }] }

/-- `VAULT_PAIR` (R396). -/
def Dev.pairCommand (d : Dev) (sess : Option Nat) (msg : Bytes) : Dev :=
  d.mgmtRun sess msg 0x21 false true true (fun _ d => d.vaultRefusal true) fun m d => d.hello 1 .pairing (reqOf sess m)

/-- `VAULT_UNPAIR` (R396). -/
def Dev.unpairCommand (d : Dev) (sess : Option Nat) (msg : Bytes) : Dev :=
  d.mgmtRun sess msg 0x22 false true true (fun _ d => d.vaultRefusal false) fun m d => d.hello 3 .pairing (reqOf sess m)

/-- `VAULT_PROGRAM` (R406): the manifest is read from host memory first. -/
def Dev.programCommand (d : Dev) (sess : Option Nat) (msg : Bytes) : Dev :=
  d.mgmtRun sess msg 0x23 false true true
    (fun m d => match d.vaultRefusal false with
      | some st => some st
      | none => if m.body.length ≠ 8 then some Status.length else none)
    fun m d =>
      let n := leAt m.body 0 8
      (d.onVault fun v => { v with st := .programming, await := .none, req := reqOf sess m, imageLength := n, progBytes := 0 }).hostStart false 0
        d.vault.progAddr.toNat (min n 16384) [] (.image 0)

def Dev.vaultPair (d : Dev) (sess : Option Nat) (msg : Bytes) : Dev := d.inTurn sess msg d.time fun d => d.pairCommand sess msg

def Dev.vaultUnpair (d : Dev) (sess : Option Nat) (msg : Bytes) : Dev := d.inTurn sess msg d.time fun d => d.unpairCommand sess msg

def Dev.vaultProgram (d : Dev) (sess : Option Nat) (msg : Bytes) : Dev := d.inTurn sess msg d.time fun d => d.programCommand sess msg

/-- Serve a command that waited, by its code. -/
def Dev.vaultAgain (w : VWait) (d : Dev) : Dev :=
  d.inTurn w.sess w.msg w.came fun d =>
    match (MgmtMsg.of w.msg).map MgmtMsg.code with
    | some 0x21 => d.pairCommand w.sess w.msg
    | some 0x22 => d.unpairCommand w.sess w.msg
    | some 0x23 => d.programCommand w.sess w.msg
    | _ => d

/-- Commands that waited for an exchange are served in arrival order once it has ended (R408). -/
def Dev.vaultTurn (d : Dev) : Dev :=
  if d.vault.unasked then forEach d.vault.waiting Dev.vaultAgain (d.onVault fun v => { v with waiting := [] }) else d

end Sys2Proof.Machine
end

