-- ==== Sys2Proof/Machine/Attest.lean ====
section
/-! DEFINITION. The attestation report (R126 to R133): its body, its two signatures, the tagged form under a session's answer
key, and the extension of measurement registers. -/

namespace Sys2Proof.Machine

/-! ## Measurement registers (R126) -/

/-- Extend a register. -/
def extend (r v : Digest) : Digest := sha384d (digestBytes r ++ digestBytes v)

/-- `MEASURE` at its engine (R127): the register named by c. -/
def Dev.measureStep (d : Dev) (thread row : Nat) (x : Flight) : Dev :=
  let s := Step.of x.step
  let v := bytesDigest ((d.th thread).xferBytes (256 * fld s.d 0 4) 48)
  let i := fld s.c 0 8
  let d := if thread = d.mgr then
      d.onMgmt fun m => { m with measure := tset m.measure 0 i (extend (tget m.measure 0 i) v), fallback := true }
    else d.onPart thread fun p => { p with measure := tset p.measure 0 i (extend (tget p.measure 0 i) v) }
  d.finish thread row Status.done

/-- `MEASURE` at check 3 of R53: an index the thread has not, or a bit of c above 7 or of d above 3 (R127). -/
def Dev.measureBad (d : Dev) (thread : Nat) (s : Step) : Bool :=
  let i := fld s.c 0 8
  decide (256 ≤ s.c) || decide (16 ≤ s.d)
    || (if thread = d.mgr then decide (i < 8) || decide (15 < i) else decide (7 < i))

/-! ## Identity (R72, R124, R128) -/

/-- The identity keys' public halves: 97-byte point and ML-DSA-87 key; none before `PROVISION` and in RETIRED (R509). -/
def Dev.identityKeys (d : Dev) : Option (Bytes × Bytes) :=
  d.larder.identity.map fun k => (padTo 97 (Config.p384Public k.1), padTo 2592 (Config.mldsaPublic k.2))

/-- SHA-384 of the two subject public keys, zero where there are none: of the 97-byte point and of the 2,592-byte key as they stand, since
the spec gives no other byte form (DESIGN CHOICE, notes/assumptions/86.md). -/
def Dev.identityDigests (d : Dev) : Digest × Digest :=
  match d.identityKeys with
  | some (p, m) => (sha384d p, sha384d m)
  | none => (0, 0)

/-! ## The body (R128) -/

/-- A layout entry. -/
def Dev.layoutEntry (d : Dev) (n : Nat) : Bytes :=
  if n < d.nparts then
    let p := d.part n
    let st := match p.st with
      | .disabled => 0
      | .enabled => 0
      | .bound => 1
      | .frozen => 2
      | .resetting => 3
    natLe 1 st ++ natLe 1 (d.limit n 5) ++ natLe 1 (d.limit n 6) ++ [0] ++ natLe 2 (d.limit n 0) ++ natLe 2 (d.limit n 1)
      ++ natLe 2 (d.limit n 2) ++ natLe 2 (d.limit n 3) ++ [0, 0, 0, 0]
  else List.replicate 16 0

/-- A region that the partition maps was filled by `VLOAD` (R131): its own, or the BASE of a BASE_MAP. -/
def Dev.vaultLoaded (d : Dev) (n : Nat) : Bool :=
  d.regions.any fun e => e.2.st ≠ .free && e.2.thread = n
    && (e.2.vault.isSome || (e.2.kind = 2 && d.regions.any fun b => b.2.st ≠ .free && b.2.kind = 1 && b.2.base = e.2.base
      && b.2.log2 = e.2.log2 && b.2.vault.isSome))

/-- The import pair's public keys in a report; zero where a thread has no pair. -/
def Dev.importKeys (d : Dev) (n : Nat) : Bytes :=
  let i := d.importPair n
  if i = 0 then List.replicate 1680 0
  else padTo 97 (importPoint (d.partOf n) i) ++ List.replicate 7 0 ++ padTo 1568 (importKem i) ++ List.replicate 8 0

/-- Bytes 0 to 79 of a report: its head and the state of the block (R128). -/
def Dev.reportHead (d : Dev) (part : Option Nat) (ans : Option Key) (tagged : Bool) : Bytes :=
  let member := part.any fun n => (d.dom n).st = .member
  let flags := b2n d.mgmt.fallback + 2 * b2n (d.vaultLoaded (part.getD d.mgr)) + 4 * b2n ans.isSome + 8 * b2n tagged + 16 * b2n member
    + 32 * b2n d.mgmt.boardedSince
  let length : Nat := if tagged then 3680 else 8384
  let head : Bytes := [0x4B, 0x52, 0x50, 0x54, 1, 0, 0, 0] ++ natLe 4 length ++ natLe 1 (Kind.num d.kind)
  let boot : Bytes := [Config.stepping, Config.romVersion] ++ natLe 1 (LcState.code d.lc) ++ natLe 1 d.mgmt.patch.toNat
    ++ [if d.mgmt.patch = 1 then d.mgmt.svn else 0] ++ natLe 1 (debugExits d.mgmt.lcWord) ++ natLe 1 d.fuses.credCount
  let who : Bytes := natLe 2 flags ++ natLe 2 (if member then d.hall.node.toNat else 0xFFFF) ++ natLe 1 (partForm part)
  head ++ boot ++ who ++ [0, 0, 0] ++ natLe 4 d.reset.warmResets ++ natLe 8 d.time ++ List.replicate 24 0

/-- The measurement registers of a report: the device's sixteen, the partition's eight (R126, R128). -/
def Dev.reportRegs (d : Dev) (part : Option Nat) : Bytes :=
  ((List.range 16).flatMap fun i => digestBytes (tget d.mgmt.measure 0 i)) ++
  (List.range 8).flatMap fun i => digestBytes ((part.map fun n => tget (d.part n).measure 0 i).getD 0)

/-- The signed body of a report of a thread, bytes 0x000 to 0xE2F; `part` is none for the manager. -/
def Dev.reportBody (d : Dev) (part : Option Nat) (nonce : Key) (ans : Option Key) (tagged : Bool) : Bytes :=
  let h := d.identityDigests
  let vault : Bytes := digestBytes d.vault.reportDigest ++ natLe 8 d.vault.reportSerial.toNat ++ natLe 4 d.vault.reportPrograms.toNat
    ++ [0, 0, 0, 0]
  d.reportHead part ans tagged ++ keyBytes nonce ++ keyBytes (ans.getD 0) ++ digestBytes h.1 ++ digestBytes h.2 ++ d.reportRegs part
    ++ vault ++ (List.range 32).flatMap d.layoutEntry ++ d.importKeys (part.getD d.mgr)

/-- ASCII "kerre-report", the context of the ML-DSA-87 signature (R129). -/
def reportContext : Bytes := [0x6B, 0x65, 0x72, 0x72, 0x65, 0x2D, 0x72, 0x65, 0x70, 0x6F, 0x72, 0x74]

/-- A body with its two signatures (R128, R129); zero bytes stand where there is no identity key. What randomness a signature
takes is open: occasion number `free`. -/
def Dev.signReport (d : Dev) (body : Bytes) : Bytes × Dev :=
  match d.larder.identity with
  | some (k, seed) =>
    (body ++ padTo 96 (Config.p384Sign k d.free body) ++ padTo 4627 (Config.mldsaSign seed d.free reportContext body)
      ++ List.replicate 29 0, { d with free := d.free + 1 })
  | none => (body ++ List.replicate 4752 0, d)

/-- A signed report (R128). -/
def Dev.signedReport (d : Dev) (part : Option Nat) (nonce : Key) (ans : Option Key) : Bytes × Dev :=
  d.signReport (d.reportBody part nonce ans false)

/-- A tagged report (R133). -/
def Dev.taggedReport (d : Dev) (part : Option Nat) (nonce ans : Key) : Bytes :=
  let body := d.reportBody part nonce none true
  body ++ hmac (keyBytes ans) body

/-- The answer key of a session (R132): its report label's parts, session id and update count, and its transcript hash. -/
def Dev.answerKey (d : Dev) (part nodeB : Nat) (partB id updates : Nat) (th : Bytes) : Option Key :=
  (d.resKey 2).map fun root => hmacKey (keyBytes (kdfKey root (label Purpose.rept 0 part nodeB partB id updates))) th

/-! ## `ATTEST` (R130) -/

/-- `ATTEST` at its engine: the report composed when the step was dispatched (R129) is signed and written to host memory at d. -/
def Dev.attestStep (d : Dev) (thread row : Nat) (x : Flight) : Dev :=
  let s := Step.of x.step
  let (r, d) := d.signReport x.report
  (d.hostStart true (d.hostInst thread) s.d 8384 r (.attest thread row)).working thread row

end Sys2Proof.Machine
end

