-- ==== Sys2Proof/Machine/Domain.lean ====
section
/-! DEFINITION. The domain of a partition (chapter 05): the policy core and its checks, tickets, the domain messages with their
fragments, the join handshake, epoch changes, leaving and loss, reports between members. -/

namespace Sys2Proof.Machine

/-! ## The policy core (R147) -/

def coreSets (c : Bytes) : Nat := leAt c 20 2
def coreRevokedCount (c : Bytes) : Nat := leAt c 22 2
def coreRevokedAt (c : Bytes) : Nat := 2880 + 320 * coreSets c
/-- Where the P-384 signature starts: the revoked list is filled to a multiple of 64 bytes. -/
def coreSigAt (c : Bytes) : Nat := coreRevokedAt c + (2 * coreRevokedCount c + 63) / 64 * 64
def coreLength (c : Bytes) : Nat := coreSigAt c + 96 + 4627
def coreDomain (c : Bytes) : Nat := leAt c 8 8
def coreVersion (c : Bytes) : Nat := leAt c 16 4
def coreRoot (c : Bytes) : Bytes := slice c 32 48
def coreRevoked (c : Bytes) : List Nat := (List.range (coreRevokedCount c)).map fun i => leAt c (coreRevokedAt c + 2 * i) 2

/-- Numbers strictly ascending. -/
def ascending : List Nat → Bool
  | a :: b :: r => decide (a < b) && ascending (b :: r)
  | _ => true

/-- The first 32 bytes of a core say how long it is (R147). -/
def coreHeadOk (c : Bytes) : Bool :=
  slice c 0 4 = [0x4B, 0x50, 0x4F, 0x4C] && leAt c 4 2 = 1 && zeroAt c 6 2 && coreDomain c ≠ 0
    && decide (1 ≤ coreSets c) && decide (coreSets c ≤ 16) && decide (coreRevokedCount c ≤ 1024)
    && leAt c 24 4 = coreLength c && zeroAt c 28 4

/-- Layout and reserved fields (R147, R148, R151 check 1). -/
def coreLayout (c : Bytes) : Bool :=
  coreHeadOk c && c.length = coreLength c && zeroAt c 80 48 && zeroAt c 2817 63
    && ((List.range (coreSets c)).all fun i => zeroAt c (2880 + 320 * i + 7) 9 && zeroAt c (2880 + 320 * i + 304) 16)
    && ascending (coreRevoked c)
    && zeroAt c (coreRevokedAt c + 2 * coreRevokedCount c) (coreSigAt c - coreRevokedAt c - 2 * coreRevokedCount c)

/-- The verifier key digest. -/
def coreVerifier (c : Bytes) : Bytes := sha384 (slice c 128 97 ++ slice c 225 2592)

/-- Both signatures (R147): each covers all bytes before it. -/
def coreSigned (c : Bytes) : Bool :=
  Config.p384Verify (slice c 128 97) (c.take (coreSigAt c)) (slice c (coreSigAt c) 96)
    && Config.mldsaVerify (slice c 225 2592) [0x6B, 0x65, 0x72, 0x72, 0x65, 0x2D, 0x70, 0x6F, 0x6C, 0x69, 0x63, 0x79]
      (c.take (coreSigAt c + 96)) (slice c (coreSigAt c + 96) 4627)

/-! ## The member table (R149) -/

/-- Up the path from height h: the node index's bit h says on which side the sibling stands. -/
def pathRoot (n h i : Nat) (path cur : Bytes) : Bytes :=
  match n with
  | 0 => cur
  | k + 1 =>
    let sib := slice path (48 * h) 48
    pathRoot k (h + 1) i path (if bitOf i h then sha384 (1 :: sib ++ cur) else sha384 (1 :: cur ++ sib))

def entryDigest (e : Bytes) : Bytes := slice e 0 48
def entryNode (e : Bytes) : Nat := leAt e 48 2
def entryPart (e : Bytes) : Nat := leAt e 50 1
def entryFlags (e : Bytes) : Nat := leAt e 51 1

/-- An entry with its path (736 bytes) is listed under a core. -/
def listed (c ep : Bytes) : Bool :=
  entryNode ep < 2 ^ 14 && decide (entryFlags ep < 4) && zeroAt ep 52 12
    && pathRoot 14 0 (entryNode ep) (slice ep 64 672) (sha384 (0 :: slice ep 0 64)) = coreRoot c

/-! ## Measurement sets (R148) -/

/-- A report's body matches a set of 320 bytes. -/
def setMatches (rep set : Bytes) : Bool :=
  let at_ (i : Nat) := leAt set i 1
  let flags := leAt rep 0x014 2
  let patch := leAt rep 0x010 1
  (at_ 0 = 0 || at_ 0 = leAt rep 0x00C 1) && at_ 1 = leAt rep 0x00E 1 && bitOf (at_ 2) patch
    && (patch ≠ 1 || decide (at_ 3 ≤ leAt rep 0x011 1)) && bitOf (at_ 4) (leAt rep 0x00F 1)
    && ((List.range 5).all fun k => bitOf (at_ 6) k || slice set (16 + 48 * k) 48 = slice rep (0x0E0 + 48 * k) 48)
    && (at_ 5 = 0
      || (bitOf (at_ 5) 0 && bitOf flags 1 && (zeroAt set 256 48 || slice set 256 48 = slice rep 0x560 48))
      || (bitOf (at_ 5) 1 && bitOf flags 0))

def measuresOk (c rep : Bytes) : Bool := (List.range (coreSets c)).any fun i => setMatches rep (slice c (2880 + 320 * i) 320)

/-! ## Tickets (R150) -/

def ticketDomain (t : Bytes) : Nat := leAt t 48 8
def ticketVerifier (t : Bytes) : Bytes := slice t 0 48
def ticketEntry (t : Bytes) : Bytes := slice t 56 736

/-- R151 checks 1 to 4 of a core against a ticket. -/
def coreAccepted (t c : Bytes) : Bool :=
  coreLayout c && !zeroAt t 0 48 && coreVerifier c = ticketVerifier t && coreSigned c && coreDomain c = ticketDomain t

/-- Kerre accepts its own ticket under a core; a revoked node is no member (R149, R150). -/
def Dev.ticketAccepted (d : Dev) (n : Nat) (t c : Bytes) : Bool :=
  let e := ticketEntry t
  !(coreRevoked c).contains d.hall.node.toNat &&
  d.larder.identity.isSome && entryDigest e = digestBytes d.identityDigests.1 && d.hall.nodeValid
    && entryNode e = d.hall.node.toNat && entryPart e = n && listed c e && zeroAt t 792 232

/-- Step fields of `DOMJOIN` (R152): reserved bits, and a parent that is its own node. -/
def Dev.domjoinBad (d : Dev) (s : Step) : Bool :=
  fld s.d 21 3 ≠ 0 || fld s.d 25 39 ≠ 0
    || (if bitOf s.d 24 then fld s.d 0 21 ≠ 0 else fld s.d 14 2 ≠ 0 || (d.hall.nodeValid && fld s.d 0 14 = d.hall.node.toNat))

/-! ## Messages (R153, R154) -/

/-- A domain message taken apart. -/
structure DMsg where
  kind : Nat
  flags : Nat
  total : Nat
  offset : Nat
  srcNode : Nat
  srcPart : Nat
  dstNode : Nat
  dstPart : Nat
  id : BitVec 32
  domain : Nat
  head : Bytes
  body : Bytes

/-- The header with its offset taken as zero. -/
def headZero (b : Bytes) : Bytes := slice b 0 8 ++ [0, 0, 0, 0] ++ slice b 12 20

def DMsg.of (b : Bytes) : DMsg :=
  { kind := leAt b 0 1, flags := leAt b 2 1, total := leAt b 4 4, offset := leAt b 8 4, srcNode := leAt b 12 2, srcPart := leAt b 14 1,
    dstNode := leAt b 16 2, dstPart := leAt b 18 1, id := BitVec.ofNat 32 (leAt b 20 4), domain := leAt b 24 8,
    head := headZero b, body := b.drop 32 }

namespace DomKind
abbrev hello : Nat := 0x01
abbrev proofP : Nat := 0x02
abbrev proofC : Nat := 0x03
abbrev key : Nat := 0x04
abbrev keyAck : Nat := 0x05
abbrev confirm : Nat := 0x06
abbrev epochNew : Nat := 0x07
abbrev epochReady : Nat := 0x08
abbrev epochCommit : Nat := 0x09
abbrev leave : Nat := 0x0A
abbrev reportReq : Nat := 0x0B
abbrev report : Nat := 0x0C
abbrev hold : Nat := 0x0E
abbrev refuse : Nat := 0x0F
end DomKind

/-- A header of R153. -/
def domHead (kind flags total srcNode srcPart dstNode dstPart : Nat) (id : BitVec 32) (domain : Nat) : Bytes :=
  natLe 1 kind ++ natLe 1 1 ++ natLe 1 flags ++ natLe 1 0 ++ natLe 4 total ++ natLe 4 0 ++ natLe 2 srcNode ++ natLe 1 srcPart ++ natLe 1 0
    ++ natLe 2 dstNode ++ natLe 1 dstPart ++ natLe 1 0 ++ natLe 4 id.toNat ++ natLe 8 domain

/-- A message from partition n to a peer, with room for `more` bytes that follow. -/
def Dev.domMessage (d : Dev) (n node part kind more : Nat) (id : BitVec 32) (domain : Nat) (body : Bytes) : Bytes :=
  domHead kind 0 (32 + body.length + more) d.hall.node.toNat n node part id domain ++ body

/-- The fragments of a message (R153; notes/assumptions/43.md): each carries the header with the place of its bytes in the body,
and at most 4,096 bytes in all. -/
def fragments (msg : Bytes) : List Bytes :=
  let body := msg.drop 32
  (List.range (max 1 ((body.length + 4063) / 4064))).map fun i =>
    slice msg 0 8 ++ natLe 4 (4064 * i) ++ slice msg 12 20 ++ (body.drop (4064 * i)).take 4064

/-- Send a message (R180, R415 counter 328). -/
def Dev.sendDom (d : Dev) (n node part : Nat) (msg : Bytes) : Dev :=
  forEach (fragments msg) (fun f d => d.sendCtrl n node part 1 f) (d.addGlobal 328 1)

/-! ## Sessions (R158, R159) -/

/-- Replace a session. -/
def Domain.setSess (m : Domain) (s t : DSess) : Domain := { m with sessions := m.sessions.map fun x => if x = s then t else x }

def Domain.dropSess (m : Domain) (s : DSess) : Domain := { m with sessions := m.sessions.filter fun x => x ≠ s }

/-- Send a message of a session and remember it for retransmission; the session moves on to `t`. -/
def Dev.sendSess (d : Dev) (n : Nat) (s t : DSess) (msg : Bytes) : Dev :=
  let d := d.onDom n fun m => m.setSess s { t with lastMsg := msg, lastSent := d.time, sends := 1 }
  d.sendDom n s.node s.part msg

/-- The session is past its handshake. -/
def DSess.live (s : DSess) : Bool := match s.stage with
  | .keyed | .epochNewSent | .readySent => true
  | _ => false

/-- The session waits for a message. -/
def DSess.waits (s : DSess) : Bool := match s.stage with
  | .helloHeld | .keyed => false
  | _ => true

/-- A child that counts (R157). -/
def DSess.counted (s : DSess) : Bool := s.role = .child && s.live

/-- The session with a peer of an id and of some roles. -/
def Domain.sess (m : Domain) (msg : DMsg) (ok : DSess → Bool) : Option DSess :=
  m.sessions.find? fun s => s.node = msg.srcNode && s.part = msg.srcPart && s.id = msg.id && ok s

/-- The requester's session in its handshake, by the half of the id it chose. -/
def Domain.joining (m : Domain) (msg : DMsg) : Option DSess :=
  m.sessions.find? fun s => s.role = .parent && (s.stage = .helloSent || s.stage = .proofCSent) && s.node = msg.srcNode
    && s.part = msg.srcPart && s.id.toNat % 65536 = msg.id.toNat % 65536

/-- One tag under a domain key: first bytes, then one byte (R157). -/
def confirmation (key : Key) (th : Bytes) (which : Nat) : Bytes := hmac (keyBytes key) (th ++ natLe 1 which)

/-! ## Ending a join (R152) -/

/-- A partition's join is over without a key: a member goes on with the parent session it had, any other is in no domain again. -/
def Domain.joinOver (m : Domain) (row : Nat) : Domain :=
  if m.st = .member then
    { m with joinRow := none, joinCore := [], tickets := tdel m.tickets row, former := none,
             sessions := m.former.toList ++ m.sessions.filter fun s => !(s.role = .parent && !s.live) }
  else { tickets := tdel m.tickets row }

/-- A `DOMJOIN` step's join ends with a status. -/
def Dev.endJoin (d : Dev) (n : Nat) (st : Byte) : Dev :=
  let m := d.dom n
  match m.joinRow with
  | none => d
  | some row => (d.finish n row st).onDom n fun m => m.joinOver row

/-! ## Keys of the domain (R163) -/

/-- Change every listed channel or square. -/
def Dev.eachChan (d : Dev) (f : Chan → Chan) : Dev := { d with chans := d.chans.map fun e => (e.1, f e.2) }
def Dev.eachSq (d : Dev) (f : Square → Square) : Dev := { d with squares := d.squares.map fun e => (e.1, f e.2) }

/-- Keys derived from the domain key whose epoch has a given low bit are gone: channel positions and square windows. -/
def Dev.forgetBit (d : Dev) (n : Nat) (bit : Bool) : Dev :=
  (d.eachChan fun c => if c.thread = n then { c with keys := c.keys.filter fun k => k.dom ≠ bit } else c).eachSq fun q =>
    if q.thread = n then { q with windows := q.windows.filter fun w => w.dom ≠ bit } else q

/-- Derive every open channel's keys under the domain key in force, each at its epoch (R163). -/
def Dev.deriveChans (d : Dev) (n : Nat) : Dev :=
  d.chans.foldl (fun d e =>
    if e.2.thread = n && (e.2.st = .open_ || e.2.st = .syncing || e.2.st = .closing) then
      let bit := d.domBit n
      let d := match d.chanKey e.1 e.2.epoch bit with
        | some (_, d) => d
        | none => d
      if e.2.rx then match d.chanKey e.1 (e.2.epoch + 1) bit with
        | some (_, d) => d
        | none => d
      else d
    else d) d

/-- Counts that start again at a commit or under another domain (R181, R214, R246). -/
def Dev.domFloors (d : Dev) (n : Nat) : Dev := d.onPart n fun p => { p with txFloor := 0, sumFloor := 0, multicast := 0 }

/-- A domain key in a pool slot (R161, R163). -/
def Dev.poolDomKey (d : Dev) (n slot : Nat) (key : Key) (origin epoch : Nat) : Dev :=
  d.fillSlot slot key (attrWord d.kind 8 false origin 1 epoch (reservedMasks 8)) (ownerWord n 0 0 0) 1

/-- Erase a key kept for an overlap, with all that is under it (R163); what a pending or the current key of the same epoch bit has
stays. -/
def Dev.eraseOld (d : Dev) (n : Nat) (o : Nat × Nat × Nat) : Dev :=
  let m := d.dom n
  let bit : Bool := o.2.1 % 2 = 1
  let shared := d.domBit n = bit || m.pending.any fun p => decide (p.2 % 2 = 1) = bit
  let d := (d.freeSlot o.1).onDom n fun m => { m with old := m.old.filter fun x => x ≠ o }
  if shared then d
  else (d.forgetBit n bit).eachSq fun q => if q.thread = n then { q with other := none } else q

/-- Install a key in slot 8 + n, a domain key of the given epoch; none when no slot can hold it (R510). A key of another domain
than the one the counts were kept for restarts them. -/
def Dev.installDom (d : Dev) (n : Nat) (key : Key) (origin epoch domain : Nat) : Option Dev :=
  (d.setReserved (8 + n) key origin epoch).map fun d =>
    if (d.part n).keptFor.toNat = domain then d
    else (d.domFloors n).onPart n fun p => { p with keptFor := BitVec.ofNat 64 domain }

/-- A pending key is stored (R162): traffic under either epoch is accepted from now on. -/
def Dev.storePending (d : Dev) (n slot : Nat) (key : Key) (origin epoch : Nat) (core : Bytes) : Dev :=
  let bit : Bool := epoch % 2 = 1
  let d := (d.forgetBit n bit).poolDomKey n slot key origin epoch
  let d := d.onDom n fun m => { m with pending := some (slot, epoch), pendingCore := core }
  d.eachSq fun q => if q.thread = n && q.st ≠ .free then { q with other := some (squareKey key q.id) } else q

/-- The key in force is now another (R163): squares and channels follow. `keep` says whether the old one stays for the overlap. -/
def Dev.followKey (d : Dev) (n : Nat) (key : Key) (keep : Bool) : Dev :=
  let bit := d.domBit n
  let d := if keep then d else (d.forgetBit n true).forgetBit n false
  let d := d.eachSq fun q =>
    if q.thread = n && (q.st = .live || q.st = .closing) then
      { q with key := squareKey key q.id, keyDom := bit, other := if keep then some q.key else none }
    else q
  d.deriveChans n

/-! ## Epoch change (R161 to R163) -/

/-- Send EPOCH_COMMIT to a child. -/
def Dev.sendCommit (d : Dev) (n : Nat) (s : DSess) (key : Key) (epoch : Nat) : Dev :=
  let m := d.domMessage n s.node s.part DomKind.epochCommit 48 s.id (d.dom n).id.toNat (natLe 2 epoch)
  d.sendDom n s.node s.part (m ++ hmac (keyBytes key) m)

/-- Commit the pending key (R163): it moves into slot 8 + n, the old one into its pool slot for 1 s, keys follow, children that
are ready are told. -/
def Dev.domCommit (d : Dev) (n : Nat) : Dev :=
  let m := d.dom n
  match m.pending with
  | none => d
  | some (slot, e) =>
    let key := (d.slot slot).key
    let former := (d.resKey (8 + n)).getD 0
    let origin := (d.slot slot).origin
    let formerOrigin := (d.slot (d.resSlot (8 + n))).origin
    match d.setReserved (8 + n) key origin e with
    | none => d
    | some d =>
      let d := d.poolDomKey n slot former formerOrigin m.epoch
      let d := d.onDom n fun m => { m with
        epoch := e, pending := none, old := m.old ++ [(slot, m.epoch, d.time)], core := m.pendingCore, pendingCore := [],
        version := BitVec.ofNat 32 (coreVersion m.pendingCore),
        sessions := m.sessions.map fun s =>
          { s with commits := s.commits + 1, reported := false, stage := if s.stage = .readySent then .keyed else s.stage, ready := none } }
      let d := (d.followKey n key true).domFloors n
      forEach (m.sessions.filter fun s => s.role = .child && s.ready.isSome) (fun s d => d.sendCommit n s key e) d

/-- All children have answered or are gone: the leader commits, any other member tells its parent (R162, R163). -/
def Dev.domProgress (d : Dev) (n : Nat) : Dev :=
  let m := d.dom n
  match m.pending with
  | none => d
  | some (slot, e) =>
    if m.sessions.any fun s => s.role = .child && s.stage = .epochNewSent then d
    else if m.leader then d.domCommit n
    else match m.sessions.find? fun s => s.role = .parent && s.stage = .keyed with
      | none => d
      | some s =>
        let count := m.sessions.foldl (fun c s => c + s.ready.getD 0) 1
        let msg := d.domMessage n s.node s.part DomKind.epochReady 48 s.id m.id.toNat (natLe 2 e ++ natLe 4 count)
        d.sendSess n s { s with stage := .readySent } (msg ++ hmac (keyBytes (d.slot slot).key) msg)

/-- Send EPOCH_NEW with a key, its epoch and core to a child that holds the key `cur` (R162). -/
def Dev.sayNew (d : Dev) (n : Nat) (s : DSess) (key cur : Key) (e : Nat) (core : Bytes) : Dev :=
  let blob := encapsulate (some n) d.larder.drbg.draws s.importP s.importK (wrapLabel s.node s.part) key
  let msg := d.domMessage n s.node s.part DomKind.epochNew 48 s.id (d.dom n).id.toNat (natLe 2 e ++ [0, 0] ++ core ++ blob)
  (d.drew.pkeUse n).sendSess n s { s with stage := .epochNewSent, ready := none } (msg ++ hmac (keyBytes cur) msg)

/-- Send EPOCH_NEW with the pending key to a child. -/
def Dev.sendNew (d : Dev) (n : Nat) (s : DSess) : Dev :=
  match (d.dom n).pending, d.domKey n with
  | some (slot, e), some cur => d.sayNew n s (d.slot slot).key cur e (d.dom n).pendingCore
  | _, _ => d

/-- A member with a pending key ends its sessions with revoked children and sends EPOCH_NEW to the others (R162). -/
def Dev.forwardNew (d : Dev) (n : Nat) : Dev :=
  let gone := coreRevoked (d.dom n).pendingCore
  let d := d.onDom n fun m => { m with sessions := m.sessions.filter fun s => !(s.role = .child && gone.contains s.node) }
  (forEach ((d.dom n).sessions.filter fun s => s.role = .child && s.stage = .keyed) (fun s d => d.sendNew n s) d).domProgress n

/-- A core may follow the one in force (R161). -/
def coreFollows (old new : Bytes) : Bool :=
  decide (coreVersion old < coreVersion new) && coreRoot old = coreRoot new && (coreRevoked old).all fun x => (coreRevoked new).contains x

/-! ## Leading (R151, R161) -/

/-- `DOMLEAD` at its engine: the ticket is read now, the core from host memory. -/
def Dev.domlead (d : Dev) (thread row : Nat) (x : Flight) : Dev :=
  let t := (d.th thread).xferBytes 0 1024
  let d := d.onDom thread fun m => { m with tickets := tput m.tickets row t }
  (d.hostStart false (d.hostInst thread) (Step.of x.step).d 32 [] (.policy thread row)).working thread row

/-- A `DOMLEAD` ends. -/
def Dev.endLead (d : Dev) (n row : Nat) (st : Byte) : Dev :=
  (d.onDom n fun m => { m with tickets := tdel m.tickets row }).finish n row st

/-- Judge a `DOMLEAD` whose core has come; it waits while the DRBG cannot serve. A partition that holds no domain key forms a domain,
one still joining too, whose join ends with DENIED (DESIGN CHOICE, notes/assumptions/45.md). -/
def Dev.leadJudge (d : Dev) (n row : Nat) (t c : Bytes) : Dev :=
  let m := d.dom n
  if m.st ≠ .member then
    if !(coreAccepted t c && d.ticketAccepted n t c && bitOf (entryFlags (ticketEntry t)) 1
        && measuresOk c (d.reportBody (some n) 0 none false)) then d.endLead n row Status.denied
    else if !d.canDraw then d.awaitDrbg n row
    else match (d.drew.endJoin n Status.denied).installDom n (d.drawn (drawLabel (some n) (8 + n))) Origin.generated 1 (coreDomain c) with
      | none => d.endLead n row Status.noSlot
      | some d =>
        (d.onDom n fun m =>
          { st := .member, epoch := 1, leader := true, id := BitVec.ofNat 64 (coreDomain c), version := BitVec.ofNat 32 (coreVersion c),
            core := c, verifier := ticketVerifier t, entry := ticketEntry t, tickets := m.tickets }).endLead n row Status.done
  else
    if !(m.leader && coreAccepted t c && coreVerifier c = m.verifier && coreDomain c = m.id.toNat && coreFollows m.core c
        && !(coreRevoked c).contains d.hall.node.toNat && decide (m.epoch < 0xFFFE) && m.pending.isNone) then d.endLead n row Status.denied
    else if d.limit n 0 ≤ d.keyUse n then d.endLead n row Status.quota
    else if d.larder.pool.free = 0 then d.endLead n row Status.noSlot
    else if !d.canDraw then d.awaitDrbg n row
    else match d.drew.takeSlot n 0 0 0 with
      | none => d
      | some (slot, d') =>
        ((d'.storePending n slot (d.drawn (drawLabel (some n) slot)) Origin.generated (m.epoch + 1) c).endLead n row Status.done).forwardNew n

/-- Judge every `DOMLEAD` whose core has come. -/
def Dev.leadNext (d : Dev) : Dev :=
  d.parts.foldl (fun d p =>
    p.2.dom.tickets.foldl (fun d t =>
      if 1024 < t.2.length then d.leadJudge p.1 t.1 (t.2.take 1024) (t.2.drop 1024) else d) d) d

/-- A read of a core has completed: first its head, which says how long it is, then the whole. -/
def Dev.policyRead (d : Dev) (thread row : Nat) (ok : Bool) (data : Bytes) : Dev :=
  match d.flight thread row with
  | some x =>
    if x.stage = .running && (Step.of x.step).op = some .domlead then
      if !ok then d.endLead thread row Status.denied
      else if data.length = 32 then
        if coreHeadOk data then
          d.hostStart false (d.hostInst thread) (Step.of x.step).d (coreLength data) [] (.policy thread row)
        else d.endLead thread row Status.denied
      else (d.onDom thread fun m => { m with tickets := tput m.tickets row (tget m.tickets [] row ++ data) }).leadNext
    else d
  | none => d

/-! ## Leaving and loss (R164, R165) -/

/-- The partition is out of its domain: keys zeroised, channels DOWN, squares GONE, the state cleared. -/
def Dev.domLost (d : Dev) (n : Nat) : Dev :=
  let d := d.chans.foldl (fun d e => if e.2.thread = n && e.2.st ≠ .free && e.2.st ≠ .down then d.chanDown e.1 6 d.time else d) d
  (d.squaresGone n).clearDomain n

/-- `DOMJOIN` with d[24] set (R164): LEAVE to parent and children, then out of the domain. -/
def Dev.domLeave (d : Dev) (n : Nat) : Dev :=
  let m := d.dom n
  if m.st = .none then d
  else
    let d := match d.domKey n with
      | none => d
      | some key => forEach (m.sessions.filter fun (s : DSess) => s.role ≠ DRole.peer && s.live) (fun s d =>
          let h := d.domMessage n s.node s.part DomKind.leave 48 s.id m.id.toNat []
          d.sendDom n s.node s.part (h ++ hmac (keyBytes key) h)) d
    d.domLost n

/-! ## Joining: the requester (R152, R156, R157) -/

/-- `DOMJOIN` at its engine: leave, or send HELLO with a fresh nonce. It waits while the DRBG cannot serve. The session with the new
parent takes the place of the parent session a member has, which comes back should the join fail (DESIGN CHOICE, notes/assumptions/45.md). -/
def Dev.domjoin (d : Dev) (thread row : Nat) (x : Flight) : Dev :=
  let s := Step.of x.step
  if bitOf s.d 24 then (d.domLeave thread).finish thread row Status.done
  else
    let t := (d.th thread).xferBytes 0 1024
    let m := d.dom thread
    if zeroAt t 0 48 || !zeroAt t 792 232 || ticketDomain t = 0 || m.joinRow.isSome
        || (m.st = .member && ticketDomain t ≠ m.id.toNat) then d.finish thread row Status.denied
    else if !d.canDraw then d.awaitDrbg thread row
    else
      let nonce := d.drawn (drawLabel (d.partOf thread) 0)
      let d := d.drew
      let id : BitVec 32 := (Config.sessionHalf d.free).setWidth 32
      let d := { d with free := d.free + 1 }
      let node := fld s.d 0 14
      let part := fld s.d 16 5
      let msg := d.domMessage thread node part DomKind.hello 0 id (ticketDomain t) (keyBytes nonce)
      let s : DSess := { role := .parent, stage := .helloSent, node := node, part := part, id := id, ownNonce := nonce, transcript := msg }
      let d := d.onDom thread fun m => { m with
        st := if m.st = .member then .member else .joining, id := BitVec.ofNat 64 (ticketDomain t), joinRow := some row,
        tickets := tput m.tickets row t, former := m.sessions.find? fun x => x.role = .parent,
        sessions := (m.sessions.filter fun x => x.role ≠ .parent) ++ [s] }
      (d.sendSess thread s s msg).working thread row

/-- What a party presents: entry and path, identity keys, signed report (R154). -/
structure Proof where
  ep : Bytes
  keys : Bytes
  rep : Bytes

def Proof.of (b : Bytes) : Proof := { ep := slice b 0 736, keys := slice b 736 2689, rep := slice b 3425 8384 }

/-- A report's layout with its reserved bytes (R128). -/
def reportLayout (r : Bytes) : Bool :=
  slice r 0 4 = [0x4B, 0x52, 0x50, 0x54] && leAt r 4 2 = 1 && zeroAt r 6 2 && leAt r 8 4 = 8384 && zeroAt r 0x019 3
    && zeroAt r 0x028 24 && leAt r 0x014 2 / 64 = 0 && !bitOf (leAt r 0x014 2) 3 && zeroAt r 0x59C 4 && zeroAt r 0x801 7 && zeroAt r 0xE28 8
    && zeroAt r 0x20A3 29 && (List.range 32).all fun i => zeroAt r (0x5A0 + 16 * i + 3) 1 && zeroAt r (0x5A0 + 16 * i + 12) 4

/-- Both signatures of a report (R129). -/
def reportSigned (keys r : Bytes) : Bool :=
  Config.p384Verify (slice keys 0 97) (slice r 0 0xE30) (slice r 0xE30 96)
    && Config.mldsaVerify (slice keys 97 2592) reportContext (slice r 0 0xE30) (slice r 0xE90 4627)

/-- The reason a proof is refused under a core (R156, R157): entry, revocation, keys, signatures, nonce, partition, measurements. R154 names
no reason for keys, signatures and the nonce, which the model calls malformed, nor for the partition, which it calls not listed (DESIGN
CHOICE, notes/assumptions/44.md). -/
def proofRefused (c : Bytes) (node part : Nat) (nonce : Bytes) (p : Proof) : Option Nat :=
  if !listed c p.ep || entryNode p.ep ≠ node || entryPart p.ep ≠ part then some 0x02
  else if (coreRevoked c).contains (entryNode p.ep) then some 0x03
  else if entryDigest p.ep ≠ sha384 (slice p.keys 0 97) || slice p.rep 0x080 48 ≠ sha384 (slice p.keys 0 97)
      || slice p.rep 0x0B0 48 ≠ sha384 (slice p.keys 97 2592) || !reportLayout p.rep then some 0x08
  else if !reportSigned p.keys p.rep || slice p.rep 0x040 32 ≠ nonce then some 0x08
  else if leAt p.rep 0x018 1 ≠ entryPart p.ep then some 0x02
  else if !measuresOk c p.rep then some 0x04
  else none

/-- The 32-byte nonce of a batch of nonces (R155). -/
def batchNonce (l : Bytes) : Bytes := (sha384 l).take 32

/-- A party's own proof: its entry and path, its identity keys and a report over a nonce. -/
def Dev.ownProof (d : Dev) (n : Nat) (entry nonce : Bytes) : Bytes × Dev :=
  let (r, d) := d.signedReport (some n) (bytesKey nonce) none
  let k := d.identityKeys.getD ([], [])
  (padTo 736 entry ++ padTo 97 k.1 ++ padTo 2592 k.2 ++ padTo 8384 r, d.pkeUse n)

/-- A PROOF_P reaches a requester (R156); a member accepts only cores of the verifier recorded with its domain (R150). -/
def Dev.rxProofP (d : Dev) (msg : DMsg) : Dev :=
  let n := msg.dstPart
  let m := d.dom n
  match m.joining msg, m.joinRow with
  | some s, some row =>
    if s.stage ≠ .helloSent then d
    else
      let t := tget m.tickets [] row
      let k := leAt msg.body 0 1
      let nonces := slice msg.body 4 (32 * k)
      let respNonce := slice msg.body (4 + 32 * k) 32
      let rest := msg.body.drop (36 + 32 * k)
      let c := rest.take (coreLength rest)
      let p := Proof.of (rest.drop (coreLength rest))
      let ok := msg.body.length = 36 + 32 * k + coreLength rest + 736 + 2689 + 8384
        && (m.st ≠ .member || coreVerifier c = m.verifier) && ((List.range k).any fun i => slice nonces (32 * i) 32 = keyBytes s.ownNonce) && coreAccepted t c && d.ticketAccepted n t c
        && (proofRefused c msg.srcNode msg.srcPart (batchNonce nonces) p).isNone && bitOf (entryFlags p.ep) 0
      if !ok then d.endJoin n Status.denied
      else
        let (own, d) := d.ownProof n (ticketEntry t) respNonce
        let out := d.domMessage n s.node s.part DomKind.proofC 0 msg.id m.id.toNat own
        let d := d.onDom n fun m => { m with joinCore := c }
        d.sendSess n s { s with
          stage := .proofCSent, id := msg.id, peerNonce := bytesKey respNonce, transcript := s.transcript ++ msg.head ++ msg.body ++ out } out
  | _, _ => d

/-- A REFUSE or a HOLD reaches a requester (R152, R159). -/
def Dev.rxRefuse (d : Dev) (msg : DMsg) : Dev :=
  match (d.dom msg.dstPart).joining msg with
  | some _ => d.endJoin msg.dstPart Status.denied
  | none => d

def Dev.rxHold (d : Dev) (msg : DMsg) : Dev :=
  match (d.dom msg.dstPart).joining msg with
  | some s =>
    if s.stage = .helloSent then d.onDom msg.dstPart fun m => m.setSess s { s with sends := 0, lastSent := d.time } else d
  | none => d

/-! ## Joining: the responder (R155, R157) -/

/-- Answer HELLOs with one PROOF_P: one report over all their nonces (R155). -/
def Dev.answerHellos (d : Dev) (n : Nat) (l : List DSess) : Dev :=
  if l.isEmpty then d
  else
    let m := d.dom n
    let own := d.drawn (drawLabel (some n) 0)
    let d := d.drew
    let nonces : Bytes := l.flatMap fun s => keyBytes s.peerNonce
    let (p, d) := d.ownProof n m.entry (batchNonce nonces)
    let body := natLe 1 l.length ++ natLe 3 0 ++ nonces ++ keyBytes own ++ m.core ++ p
    forEach l (fun s d =>
      let msg := d.domMessage n s.node s.part DomKind.proofP 0 s.id m.id.toNat body
      d.sendSess n s { s with stage := .proofPSent, ownNonce := own, transcript := s.transcript ++ msg } msg) d

/-- HELLOs held while the partition was joining. -/
def Domain.heldHellos (m : Domain) : List DSess := m.sessions.filter fun s => s.stage = .helloHeld

/-- Refuse a message with a reason. -/
def Dev.refuseDom (d : Dev) (msg : DMsg) (reason : Nat) : Dev :=
  d.sendDom msg.dstPart msg.srcNode msg.srcPart
    (d.domMessage msg.dstPart msg.srcNode msg.srcPart DomKind.refuse 0 msg.id msg.domain (natLe 1 reason))

/-- HELLOs held from nodes that the core in force revokes are refused as revoked (R168). -/
def Dev.refuseHeld (d : Dev) (n : Nat) : Dev :=
  let m := d.dom n
  let gone := m.heldHellos.filter fun s => (coreRevoked m.core).contains s.node
  forEach gone (fun s d => (d.sendDom n s.node s.part (d.domMessage n s.node s.part DomKind.refuse 0 s.id m.id.toNat (natLe 1 0x03))).onDom n
    fun m => m.dropSess s) d

/-- Why a partition does not take a HELLO (R155, R168). -/
def Domain.helloRefused (m : Domain) (msg : DMsg) : Option Nat :=
  if m.st = .none then some 0x07
  else if m.id.toNat ≠ msg.domain then some 0x01
  else if m.st = .member && (coreRevoked m.core).contains msg.srcNode then some 0x03
  else if bitOf msg.flags 0 then
    if 15 ≤ (m.sessions.filter fun s => s.role = .peer).length then some 0x06 else none
  else if 16 ≤ (m.sessions.filter fun s => s.role = .child).length then some 0x05 else none

/-- A HELLO reaches a partition (R155); none: it waits for the DRBG. -/
def Dev.rxHello (d : Dev) (msg : DMsg) : Option Dev :=
  let n := msg.dstPart
  let m := d.dom n
  let nonce := bytesKey msg.body
  match m.sessions.find? fun s => s.role ≠ .parent && s.node = msg.srcNode && s.part = msg.srcPart && s.peerNonce = nonce with
  | some s =>
    if s.stage = .helloHeld then
      some (d.sendDom n s.node s.part (d.domMessage n s.node s.part DomKind.hold 0 s.id m.id.toNat []))
    else some d
  | none =>
    match m.helloRefused msg with
    | some r => some (d.refuseDom msg r)
    | none =>
      if m.st = .member && !d.canDraw then none
      else
        let half := (Config.sessionHalf d.free).toNat
        let d := { d with free := d.free + 1 }
        let s : DSess :=
          { role := if bitOf msg.flags 0 then .peer else .child, stage := .helloHeld, node := msg.srcNode, part := msg.srcPart,
            id := BitVec.ofNat 32 (msg.id.toNat % 65536 + half * 65536), peerNonce := nonce, transcript := msg.head ++ msg.body }
        let d := d.onDom n fun m => { m with sessions := m.sessions ++ [s] }
        some (if m.st = .member then d.answerHellos n [s] else d)

/-- A PROOF_C reaches a responder (R157); none: it waits for the DRBG. -/
def Dev.rxProofC (d : Dev) (msg : DMsg) : Option Dev :=
  let n := msg.dstPart
  let m := d.dom n
  match m.sess msg (fun s => s.role ≠ .parent), d.domKey n with
  | some s, some key =>
    if s.stage = .keySent then
      some ((d.sendDom n s.node s.part s.lastMsg))
    else if s.stage ≠ .proofPSent then some d
    else
      let p := Proof.of msg.body
      let reason := if msg.body.length ≠ 736 + 2689 + 8384 then some 0x08
        else proofRefused m.core s.node s.part (keyBytes s.ownNonce) p
      match reason with
      | some r => some ((d.refuseDom msg r).onDom n fun m => m.dropSess s)
      | none =>
        let tr := s.transcript ++ msg.head ++ msg.body
        if s.role = .peer then
          let th := sha384 tr
          let out := d.domMessage n s.node s.part DomKind.confirm 0 s.id m.id.toNat (confirmation key th 1)
          some (d.sendSess n s { s with stage := .confirmSent, transcript := [], th := th } out)
        else
          let ip := slice p.rep 0x7A0 97
          let ik := slice p.rep 0x808 1568
          if !recipientOk ip ik then some ((d.refuseDom msg 0x08).onDom n fun m => m.dropSess s)
          else if !d.canDraw then none
          else
          let blob := encapsulate (some n) d.larder.drbg.draws ip ik (wrapLabel s.node s.part) key
          let out := d.domMessage n s.node s.part DomKind.key 48 s.id m.id.toNat (natLe 2 m.epoch ++ natLe 2 0 ++ blob)
          let th := sha384 (tr ++ out)
          some ((d.drew.pkeUse n).sendSess n s { s with stage := .keySent, transcript := [], th := th, importP := ip, importK := ik }
            (out ++ confirmation key th 1))
  | _, _ => some d

/-- A KEY_ACK reaches the parent (R157): the child counts from now on; a change under way, or one committed since the KEY, reaches it too
(R168). None: waits for the DRBG. -/
def Dev.rxKeyAck (d : Dev) (msg : DMsg) : Option Dev :=
  let n := msg.dstPart
  let m := d.dom n
  match m.sess msg (fun s => s.role = .child && s.stage = .keySent) with
  | some s =>
    match (d.domKeys n).find? fun k => confirmation k.1 s.th 2 = msg.body with
    | none => some d
    | some (held, e) =>
    let behind := decide (e < m.epoch)
    if (m.pending.isSome || behind) && !d.canDraw then none
    else
      let t := { s with stage := .keyed, commits := 0, reported := false }
      let d := d.onDom n fun m =>
        let m := m.setSess s t
        { m with sessions := m.sessions.filter fun x => x = t || !(x.role = .child && x.node = s.node && x.part = s.part && x.live) }
      some (match behind, d.domKey n with
        | true, some key => d.sayNew n t key held m.epoch m.core
        | _, _ => if m.pending.isSome then d.sendNew n t else d)
  | none => some d

/-- A CONFIRM reaches the responder of an attest-only session (R157). The spec names no step or request that makes a partition the
requester of one, nor one that sends a REPORT_REQ: Kerre is only ever the responder (DESIGN CHOICE, notes/assumptions/82.md). -/
def Dev.rxConfirm (d : Dev) (msg : DMsg) : Dev :=
  let n := msg.dstPart
  match (d.dom n).sess msg (fun s => s.role = .peer && s.stage = .confirmSent) with
  | some s =>
    if (d.domKeys n).any fun k => confirmation k.1 s.th 2 = msg.body then
      d.onDom n fun m => m.setSess s { s with stage := .keyed, commits := 0, reported := false }
    else d
  | none => d

/-! ## Epoch messages (R162, R163) -/

/-- A member takes an EPOCH_NEW of a parent under its checks (R162); none: it waits for the DRBG. -/
def Dev.takeNew (d : Dev) (msg : DMsg) : Option Dev :=
  let n := msg.dstPart
  let m := d.dom n
  match m.sessions.find? (fun s => s.role = .parent && s.live), d.domKey n with
  | some s, some cur =>
    let e := leAt msg.body 0 2
    let rest := msg.body.drop 4
    let c := rest.take (coreLength rest)
    let blob := slice rest (coreLength rest) 1792
    let signed := msg.body.take (4 + coreLength rest + 1792)
    if msg.body.length ≠ 4 + coreLength rest + 1792 + 48
        || hmac (keyBytes cur) (msg.head ++ signed) ≠ msg.body.drop signed.length then some d
    else if m.pending.isSome then
      some (if s.stage = .readySent && m.pending.any (fun p => p.2 = e) then d.sendDom n s.node s.part s.lastMsg else d)
    else if !(coreLayout c && coreVerifier c = m.verifier && coreSigned c && coreDomain c = m.id.toNat && coreFollows m.core c
        && decide (m.epoch < 0xFFFE) && e = m.epoch + 1 && !(coreRevoked c).contains d.hall.node.toNat) then some d
    else match decapsulate (some n) (d.importPair n) (wrapLabel d.hall.node.toNat n) blob with
      | none => some (d.pkeUse n)
      | some key =>
        let d := d.pkeUse n
        if d.limit n 0 ≤ d.keyUse n then some d
        else if !d.canDraw then none
        else match d.takeSlot n 0 0 0 with
          | none => some d
          | some (slot, d) => some ((d.storePending n slot key Origin.imported e c).forwardNew n)
  | _, _ => some d

/-- An EPOCH_NEW reaches a member in a session with its parent; one that comes while the member joins another parent is held, and
processed once that join's KEY_ACK is sent (R162, R168). -/
def Dev.rxEpochNew (d : Dev) (msg : DMsg) : Option Dev :=
  let m := d.dom msg.dstPart
  if m.joinRow.isSome then some (d.onDom msg.dstPart fun m => { m with heldNew := m.heldNew ++ [msg.head ++ msg.body] })
  else if (m.sess msg fun s => s.role = .parent && s.live).isSome then d.takeNew msg
  else some d

/-- An EPOCH_READY reaches a parent (R162); once it has committed, a child that asks again is told again. -/
def Dev.rxEpochReady (d : Dev) (msg : DMsg) : Dev :=
  let n := msg.dstPart
  let m := d.dom n
  let e := leAt msg.body 0 2
  let signed := msg.head ++ slice msg.body 0 6
  let mac := msg.body.drop 6
  match m.sess msg (fun s => s.role = .child && s.live) with
  | none => d
  | some s =>
    match m.pending with
    | some (slot, pe) =>
      if e = pe && s.stage = .epochNewSent && hmac (keyBytes (d.slot slot).key) signed = mac then
        (d.onDom n fun m => m.setSess s { s with stage := .keyed, ready := some (leAt msg.body 2 4) }).domProgress n
      else d
    | none =>
      match d.domKey n with
      | some key =>
        if e = m.epoch && hmac (keyBytes key) signed = mac then
          (d.onDom n fun m => m.setSess s { s with stage := .keyed }).sendCommit n s key e
        else d
      | none => d

/-- An EPOCH_COMMIT reaches a member (R163). -/
def Dev.rxEpochCommit (d : Dev) (msg : DMsg) : Dev :=
  let n := msg.dstPart
  let m := d.dom n
  match m.sess msg (fun s => s.role = .parent && s.live), m.pending with
  | some _, some (slot, e) =>
    if msg.body.length = 50 && leAt msg.body 0 2 = e
        && hmac (keyBytes (d.slot slot).key) (msg.head ++ slice msg.body 0 2) = msg.body.drop 2 then d.domCommit n
    else d
  | _, _ => d

/-! ## The KEY (R157, R165) -/

/-- What a KEY does to a partition that takes it. The key is recorded as imported (DESIGN CHOICE, notes/assumptions/83.md). A member that
takes a later key than its own has lost the old one without a commit: its squares are GONE (R240, notes/assumptions/81.md). One that takes
a parent leads no more (notes/assumptions/80.md). -/
def Dev.takeKey (d : Dev) (n row : Nat) (s : DSess) (msg : DMsg) (key : Key) (th : Bytes) : Dev :=
  let m := d.dom n
  let e := leAt msg.body 0 2
  let t := tget m.tickets [] row
  let same := m.st = .member && d.domKey n = some key
  match if same then some d else d.installDom n key Origin.imported e (ticketDomain t) with
  | none => d.endJoin n Status.noSlot
  | some d =>
    let d := if m.st = .member && !same then
        let d := forEach m.old (fun o d => d.eraseOld n o) d
        match m.pending with
        | some (slot, _) => (d.freeSlot slot).onDom n fun m => { m with pending := none, pendingCore := [] }
        | none => d
      else d
    let s' := { s with stage := .keyed, th := th, transcript := [], commits := 0, reported := false }
    let d := d.onDom n fun m => { m with
      st := .member, parentNode := s.node, parentPart := s.part, epoch := e, orphan := false, leader := false, former := none,
      core := m.joinCore, joinCore := [], version := BitVec.ofNat 32 (coreVersion m.joinCore),
      verifier := if m.st = .member then m.verifier else ticketVerifier t, entry := ticketEntry t, joinRow := none, tickets := tdel m.tickets row, heldNew := [],
      sessions := (m.sessions.filter fun x => x = s || x.role ≠ .parent).map fun x => if x = s then s' else x }
    let d := if m.st = .member && !same then (d.followKey n key false).squaresGone n else d
    let d := d.sendSess n s' s' (d.domMessage n s.node s.part DomKind.keyAck 0 s.id (d.dom n).id.toNat (confirmation key th 2))
    let d := (d.finish n row Status.done).refuseHeld n
    let d := d.answerHellos n (d.dom n).heldHellos
    forEach m.heldNew (fun b d => (d.takeNew (DMsg.of b)).getD d) d

/-- A KEY reaches the child (R157, R159); none: it waits for the DRBG. -/
def Dev.rxKey (d : Dev) (msg : DMsg) : Option Dev :=
  let n := msg.dstPart
  let m := d.dom n
  match m.sess msg (fun s => s.role = .parent) with
  | none => some d
  | some s =>
    if s.stage = .keyed && leAt s.lastMsg 0 1 = DomKind.keyAck then some (d.sendDom n s.node s.part s.lastMsg)
    else match m.joinRow with
      | none => some d
      | some row =>
        if s.stage ≠ .proofCSent || msg.body.length ≠ 1844 then some d
        else if !m.heldHellos.isEmpty && !d.canDraw then none
        else
          match decapsulate (some n) (d.importPair n) (wrapLabel d.hall.node.toNat n) (slice msg.body 4 1792) with
          | none => some (d.endJoin n Status.unwrapFail)
          | some key =>
            let th := sha384 (s.transcript ++ msg.head ++ slice msg.body 0 1796)
            if confirmation key th 1 ≠ msg.body.drop 1796 then some (d.endJoin n Status.unwrapFail)
            else
              let e := leAt msg.body 0 2
              if m.st = .member && !((e = m.epoch && d.domKey n = some key) || decide (m.epoch < e)) then
                some (d.endJoin n Status.denied)
              else some ((d.pkeUse n).takeKey n row s msg key th)

/-! ## Leave and reports (R158, R164) -/

/-- A LEAVE reaches a member (R154, R164). -/
def Dev.rxLeave (d : Dev) (msg : DMsg) : Dev :=
  let n := msg.dstPart
  let m := d.dom n
  match m.sess msg DSess.live with
  | none => d
  | some s =>
    if (d.domKeys n).any fun k => hmac (keyBytes k.1) msg.head = msg.body then
      (d.onDom n fun m => { m.dropSess s with orphan := m.orphan || s.role = .parent }).domProgress n
    else d

/-- A REPORT_REQ in a session is answered (R132, R133, R158). -/
def Dev.rxReportReq (d : Dev) (msg : DMsg) : Dev :=
  let n := msg.dstPart
  match (d.dom n).sess msg DSess.live with
  | none => d
  | some s =>
    match d.answerKey n msg.srcNode msg.srcPart s.id.toNat s.commits s.th with
    | none => d
    | some ans =>
      let nonce := bytesKey msg.body
      let (r, d) := if s.reported then (d.taggedReport (some n) nonce ans, d) else (d.pkeUse n).signedReport (some n) nonce (some ans)
      let d := d.onDom n fun m => m.setSess s { s with reported := true }
      d.sendDom n s.node s.part (d.domMessage n s.node s.part DomKind.report 0 s.id (d.dom n).id.toNat r)

/-! ## Retransmission and the overlap's end (R159, R163) -/

/-- The channel timeout of a waiting session has passed: its message goes again, or after the fourth the session ends. -/
def Dev.domAgain (d : Dev) (n i : Nat) : Dev :=
  match (d.dom n).sessions[i]? with
  | none => d
  | some s =>
    if !s.waits || decide (d.time < s.lastSent + d.chTimeout) then d
    else if s.sends < 4 then
      (d.onDom n fun m => m.setSess s { s with lastSent := d.time, sends := s.sends + 1 }).sendDom n s.node s.part s.lastMsg
    else if s.role = .parent && !s.live then d.endJoin n Status.peerTimeout
    else (d.onDom n fun m => m.dropSess s).domProgress n

/-- One second after a commit the key it replaced is erased. -/
def Dev.oldKeyEnd (d : Dev) (n : Nat) : Dev :=
  forEach ((d.dom n).old.filter fun o => decide (o.2.2 + 1000000000 ≤ d.time)) (fun o d => d.eraseOld n o) d

/-! ## Fragments (R153, R180) -/

/-- A header that no fragment may have (R11, R153, R154), or one that names others than its packet. -/
def Dev.fragBad (d : Dev) (p : Pkt) : Bool :=
  let m := DMsg.of p.payload
  let src := leAt p.head 8 4
  leAt p.payload 1 1 ≠ 1 || decide (1 < m.flags) || (m.flags = 1 && m.kind ≠ DomKind.hello) || leAt p.payload 3 1 ≠ 0
    || leAt p.payload 15 1 ≠ 0 || leAt p.payload 19 1 ≠ 0 || m.srcNode ≠ fld src 0 14 || m.srcPart ≠ fld src 14 5
    || m.dstNode ≠ d.hall.node.toNat || m.dstPart ≠ p.dstPart || decide (m.total < 32)
    || !([1, 2, 3, 4, 5, 6, 7, 8, 9, 10, 11, 12, 14, 15].contains m.kind)
    || (decide (32 < m.total) && decide (m.total - 32 ≤ m.offset)) || ((p.payload.drop 32).drop (m.total - 32 - m.offset)).any (· ≠ 0)

/-- The body from its parts, as far as they join. -/
def joinParts (l : List (Nat × Bytes)) : Bytes :=
  (l.mergeSort fun a b => decide (a.1 ≤ b.1)).foldl (fun acc x => if x.1 ≤ acc.length then acc ++ x.2.drop (acc.length - x.1) else acc) []

/-- A fragment arrives; a message whose parts are all there waits for its handling. -/
def Dev.rxFragment (d : Dev) (port : Nat) (p : Pkt) : Dev :=
  if d.fragBad p then d.dropMalformed port
  else
    let m := DMsg.of p.payload
    let data := (p.payload.drop 32).take (m.total - 32 - m.offset)
    let is (r : Reassembly) := r.srcNode = m.srcNode && r.srcPart = m.srcPart && r.dstPart = m.dstPart && r.head = m.head
    let (got, since, at_) := match d.assembling.find? is with
      | some r => (r.got ++ [(m.offset, data)], r.since, r.port)
      | none => ([(m.offset, data)], d.time, port)
    let body := joinParts got
    let rest := d.assembling.filter fun r => !is r
    if body.length = m.total - 32 then { d.addGlobal 328 1 with assembling := rest, inbox := d.inbox ++ [(port, m.head ++ body)] }
    else { d with assembling := rest ++ [{ port := at_, srcNode := m.srcNode, srcPart := m.srcPart, dstPart := m.dstPart, head := m.head,
                                           got := got, since := since }] }

/-- Messages of a sender whose parts have not all come within the channel timeout are discarded (R153). -/
def Dev.fragLate (d : Dev) (node part : Nat) : Dev :=
  { d with assembling := d.assembling.filter fun r =>
      !(r.srcNode = node && r.srcPart = part && decide (r.since + d.chTimeout ≤ d.time)) }

/-- Body length a kind of fixed layout has (R154); kinds with a core or a proof check their own. -/
def domLength (kind : Nat) : Option Nat :=
  match kind with
  | 0x01 => some 32
  | 0x03 => some 11809
  | 0x04 => some 1844
  | 0x05 => some 48
  | 0x06 => some 48
  | 0x08 => some 54
  | 0x09 => some 50
  | 0x0A => some 48
  | 0x0B => some 32
  | 0x0E => some 0
  | 0x0F => some 1
  | _ => none

/-- A reserved byte of a body of a kind is set (R11, R153, R154). -/
def domZero (kind : Nat) (body : Bytes) : Bool :=
  if kind = DomKind.proofP then zeroAt body 1 3
  else if kind = DomKind.key || kind = DomKind.epochNew then zeroAt body 2 2
  else true

/-- Handle a whole message of a kind that has arrived: a wrong length or a set reserved byte is malformed; a handler that answers none leaves the message
waiting. -/
def Dev.onDomMsg (d : Dev) (kind : Nat) (msg : Bytes) (h : DMsg → Dev → Option Dev) : Dev :=
  match d.inbox.find? fun x => x.2 = msg with
  | none => d
  | some e =>
    let m := DMsg.of msg
    let d' := { d with inbox := d.inbox.erase e }
    if !d.ready || m.kind ≠ kind then d
    else if ((domLength kind).any fun l => m.body.length ≠ l) || !domZero kind m.body then d'.dropMalformed e.1
    else (h m d').getD d

/-! ## Registers (R166, R167) -/

/-- `HALL.DOMAIN_STATE[n]`. -/
def Dev.domainState (d : Dev) (n : Nat) : Word :=
  let m := d.dom n
  if m.st = .none then 0
  else BitVec.ofNat 64 ((match m.st with
      | .none => 0
      | .joining => 1
      | .member => 2) + b2n m.orphan * 2 ^ 7 + b2n m.leader * 2 ^ 8 + b2n m.pending.isSome * 2 ^ 9 + m.epoch % 65536 * 2 ^ 10
    + (m.sessions.filter DSess.counted).length * 2 ^ 26 + m.parentPart % 32 * 2 ^ 31 + m.parentNode % 2 ^ 14 * 2 ^ 36
    + d.hall.node.toNat * 2 ^ 50)

/-- `HALL.DOMAIN_POLICY[n]`. -/
def Dev.domainPolicy (d : Dev) (n : Nat) : Word :=
  let m := d.dom n
  if m.st = .member then BitVec.ofNat 64 (m.version.toNat + coreRevokedCount m.core * 2 ^ 32) else 0

end Sys2Proof.Machine
end

