-- ==== Sys2Proof/Machine/Settle.lean ====
section
/-! DEFINITION. What follows the end of a memory operation, whatever asked for it, and the settling of all work that may go on
after a command (`Dev.pump`). Steps that run on memory engines: `SEAL`, `UNSEAL`, `PAGEOUT`, `PAGEIN` (R307 to R310, R344 to
R346). -/

namespace Sys2Proof.Machine

/-! ## SEAL and UNSEAL (R307 to R310, R330) -/

/-- Segments of a step: first and one past the last, as protected address div 2048. -/
def Dev.sealRange (d : Dev) (region : Nat) (s : Step) : Nat × Nat :=
  let first := ((d.reg region).base + fld s.d 0 40) / 2048
  (first, first + if s.c = 0 then 65536 else s.c)

/-- LENGTH of R307: the run leaves the region. -/
def sealLong (log2 : Nat) (s : Step) : Bool :=
  decide (2 ^ log2 < fld s.d 0 40 + 2048 * (if s.c = 0 then 65536 else s.c))

/-- An engine of a sealing step is done: the lowest stopping offset is kept, and the last engine ends the step. In the flight
`markers` counts engines at work, `acked` the lowest offset + 1, `timedOut` the status met there. -/
def Dev.sealEnd (d : Dev) (thread row : Nat) (op : MemOp) (r : MemRes) : Dev :=
  match d.flight thread row with
  | none => d
  | some x =>
    let at_ := r.version * 2048 - (d.reg op.region).base
    let stops := r.status ≠ Status.done && (x.acked = 0 || decide (at_ + 1 < x.acked))
    let d := if stops then
        (d.onFlight thread row fun x => { x with acked := at_ + 1, timedOut := r.status.toNat }).onTh thread fun t =>
          let low := match t.sealStop with
            | some (w, o) => if w = row then min o at_ else at_
            | none => at_
          { t with sealStop := some (row, low), sealLast := (row, low) }
      else d
    let d := d.onFlight thread row fun x => { x with markers := x.markers - 1 }
    match d.flight thread row with
    | some y => if y.markers = 0 then d.finish thread row (if y.acked = 0 then Status.done else BitVec.ofNat 8 y.timedOut) else d
    | none => d

/-- `SEAL` and `UNSEAL` at their engines, which take a region's in dispatch order (R326, `Thread.turnBefore`). -/
def Dev.sealStep (d : Dev) (thread row : Nat) (x : Flight) (unsealing : Bool) : Dev :=
  let s := Step.of x.step
  let r := d.reg x.slot
  if sealLong r.log2 s then d.finish thread row Status.length
  else if r.kind = 2 || (r.kind = 1 && r.share ≠ 0) then d.finish thread row Status.denied
  else if r.loadLocked then d.finish thread row Status.regionFault
  else
    let (first, stop) := d.sealRange x.slot s
    let runs := (List.range (Kind.engines d.kind)).filterMap fun m =>
      let n := d.segOn m first
      if n < stop then some (m, n) else none
    let d := (d.onFlight thread row fun x => { x with markers := runs.length, acked := 0, timedOut := 0 }).working thread row
    forEach runs (fun e d => d.enqueue e.1
      { origin := .row thread row, act := .segs e.2 stop unsealing, addr := 16 * e.2, part := r.thread, region := x.slot }) d

/-! ## PAGEOUT and PAGEIN (R344 to R346) -/

/-- The host slot of a paging step (R343). -/
def pageSlot (s : Step) : Nat := s.c + fld s.d 48 16 * 65536

/-- Why a paging step is refused before it reads its page. -/
def Dev.pageRefusal (d : Dev) (thread region : Nat) (s : Step) (read : Bool) : Option Byte :=
  let r := d.reg region
  let table := d.tableRegion thread
  let blank := read && pageSlot s = 0xFFFFFFFF
  if 2 ^ r.log2 ≤ fld s.d 13 27 * 8192 then some Status.badField
  else if !blank && (match table with
      | none => true
      | some t => decide (2 ^ (d.reg t).log2 < 8 * pageSlot s + 8) || (d.th thread).pageBase = 0) then some Status.badField
  else if r.kind ≠ 0 || r.square.isSome || (r.exportLocked && !d.unlocked region (r.base / 128 + 64 * fld s.d 13 27)) || table = some region then
    some Status.denied
  else none

/-- `PAGEOUT` and `PAGEIN` at their engine. -/
def Dev.pageStep (d : Dev) (thread row : Nat) (x : Flight) (read : Bool) : Dev :=
  let s := Step.of x.step
  match d.pageRefusal thread x.slot s read with
  | some st => d.finish thread row st
  | none =>
    let addr := (d.reg x.slot).base / 128 + 64 * fld s.d 13 27
    (d.working thread row).enqueue (d.engineOf addr)
      { origin := .row thread row, act := if read then .pageIn (pageSlot s) [] 0 else .pageOut (pageSlot s) 0 0, addr := addr,
        part := (d.reg x.slot).thread, region := x.slot }

/-! ## Ends of operations -/

/-- A write by another master than the Vault's clears a region's Vault origin (R403). -/
def Dev.writtenTo (d : Dev) (region : Nat) : Dev :=
  if (d.reg region).vault.isSome then d.onReg region fun r => { r with vault := none } else d

/-- What follows the end of an operation of engine m. -/
def Dev.opEnd : OnEnd := fun m op r d =>
  match op.origin with
  | .stream tag granules =>
    let d := match op.act with
      | .write _ _ => if r.status = Status.done then d.writtenTo op.region else d
      | _ => d
    d.streamEnd m op tag granules r
  | .drain port => (if r.status = Status.done then d.writtenTo op.region else d).drainEnd op port r
  | .square id => d.squareEnd id op r
  | .row thread row =>
    match op.act with
    | .segs _ _ _ => d.sealEnd thread row op r
    | _ => d.finish thread row r.status
  | .job i => d.jobPageEnd m op i r
  | .vault | .engine => d

/-- All that may go on goes on: memory operations, merge entries whose page is free again, evicted channels, withdrawn regions, the
running load, Vault commands whose turn it is, responses, reads and
requests that wait, budgets of region keys, policies that have come. -/
def Dev.settle (d : Dev) : Dev :=
  (((((((((d.drainDue).reapEvicted).reapRegions).loadSettle).vaultTurn).sendResps).sendReads).unpark).budgetWatch).leadNext

def Dev.pump (d : Dev) : Dev := ((d.pumpWith Dev.opEnd).settle).pumpWith Dev.opEnd

end Sys2Proof.Machine
end

