-- ==== Sys2Proof/Machine/KeySteps.lean ====
section
/-! DEFINITION. The key steps (R91 to R99), retiring slots and what that leads to (R86 to R89), the DRBG's reseeds and entropy
tests (R79, R80), the public-key engine's queue (R105). -/

namespace Sys2Proof.Machine

/-! ## Deadlines (R63, R445, R466) -/

/-- Deadline of class k in ns. -/
def Dev.deadline (d : Dev) (k : Nat) : Nat :=
  tget d.hall.deadline (deadlineReset k) k * 1000 + (if k = 4 then d.chTimeout else 0)

/-- The deadline that a step of an opcode takes as it dispatches: a later write of HALL.DEADLINE does not change it (R445). -/
def Dev.limitOf (d : Dev) (op : Opc) : Nat := (op.deadline.map d.deadline).getD 0

/-! ## Retiring a slot (R87, R89, R510) -/

/-- The reserved slot number that a slot stands for, when it does. -/
def Dev.reservedOf (d : Dev) (slot : Nat) : Option Nat := findBelow 96 fun i => d.resSlot i = slot && (slot < 96 || (d.slot slot).st = 3)

/-- The key of reserved slot i derived again (R89): 0 to 2 from the UDS, 4 and 5 from the sealing key under the epoch they had. -/
def Dev.derivedAgain (d : Dev) (i epoch : Nat) : Option Key :=
  match i with
  | 0 => some (identitySeed d.fuses.uds)
  | 1 => some (deviceKey d.fuses.uds Purpose.sealing)
  | 2 => some (deviceKey d.fuses.uds Purpose.atrt)
  | 4 => (d.resKey 1).map fun s => managementKey s epoch
  | 5 => d.pairingKey epoch
  | _ => none

/-- What the loss of reserved slot i brings (R89). Where no pool slot is left to derive slots 0 to 2, 4 or 5 into, which the spec leaves
open, the key is lost (DESIGN CHOICE, notes/assumptions/84.md). -/
def Dev.reservedLost (d : Dev) (i : Nat) (l : LSlot) : Dev :=
  if i = 3 then d.critical 0x07 0 0
  else if i = 6 then if d.vault.st = .closed then d else d.vfail Status.vaultAuth
  else if decide (8 ≤ i) && decide (i < 40) then d.domLost (i - 8)
  else if decide (i < 6) && l.st = 3 then ((d.derivedAgain i l.epoch).bind fun k => d.setReserved i k Origin.derived l.epoch).getD d
  else d

/-- Retire a slot: zeroised, out of the pool until cold boot, recorded in the Cellar; a reserved one has its consequences. -/
def Dev.retireSlot (d : Dev) (slot : Nat) : Dev :=
  let l := d.slot slot
  if l.retired then d
  else
    let res := d.reservedOf slot
    let t := l.thread
    let d := d.setSlot slot
      { l.zeroised with
        primaryBad := true, shadowBad := Kind.invoker d.kind, retired := true, st := if res.isSome then 0 else l.st,
        heldBy := if res.isSome then none else some l.holder }
    let d := d.onLarder fun x => { x with retiredCount := x.retiredCount + 1 }
    let d := d.record 0x0C 0 Status.keySlotBad.toNat (some t) (if t < d.nparts then some t else none) 0 slot
      (l.owner.toNat + l.purpose * 2 ^ 64)
    match res with
    | some i => d.reservedLost i l
    | none => d

/-- Reserved slots whose keys an engine is to load are verified (R86): one that fails is retired first. -/
def Dev.verifyReserved (d : Dev) (l : List Nat) : Dev :=
  forEach l (fun i d =>
    let s := d.resSlot i
    if (d.slot s).st = 3 && !d.slotPasses s then d.retireSlot s else d) d

/-! ## Checks at an engine (R56, R91) -/

/-- What an engine finds in the slot of a handle: not filled yet, a status that ends the step, or a key. -/
inductive KeyLook where
  | wait
  | stop (st : Byte)
  | ok
  deriving DecidableEq, Repr

/-- The slot of a key handle of a thread: a retired slot, a creating step that failed, one that has not filled it yet. -/
def Dev.keyLook (d : Dev) (thread h slot : Nat) : KeyLook :=
  let l := d.slot slot
  if l.retired then .stop Status.keySlotBad
  else if l.thread ≠ thread || fld l.owner.toNat 40 12 ≠ hIndex h || fld l.owner.toNat 52 4 ≠ hGen h || l.st = 0 then .stop Status.staleHandle
  else if l.usage = 0 then .wait
  else .ok

/-- Check 8 on a slot: the slot check; one that fails retires the slot (R87). -/
def Dev.check8 (d : Dev) (slot : Nat) : Option Byte := if d.slotPasses slot then none else some Status.keySlotBad

/-- Owner word of a key of a handle. -/
def ownerOf (thread h purpose : Nat) : Word := ownerWord thread (hIndex h) (hGen h) purpose

/-! ## Field rules (check 3) -/

/-- Kerre 32's masks in `GENKEY`'s d: bits that may be set (R93). -/
def genMaskBits : Nat := 0x1F + 0x7 * 2 ^ 8 + 0x1F * 2 ^ 16
/-- Kerre 32's masks in `IMPORT`'s d (R93). -/
def impMaskBits : Nat := 0x1F * 2 ^ 32 + 0x7 * 2 ^ 40 + 0x1F * 2 ^ 48

/-- Only bits of `allowed` are set. -/
def only (v allowed : Nat) : Bool := v &&& allowed = v

/-- BAD_FIELD of the key steps (R93 to R96, R99); an `IMPORT` whose first buffer leaves fewer than seven, for which R99 gives no outcome, is
one (DESIGN CHOICE, notes/assumptions/88.md). -/
def Dev.keyBad (d : Dev) (op : Opc) (s : Step) : Bool :=
  let masks (b : Nat) := if Kind.invoker d.kind then b else 0
  match op with
  | .genkey => fld s.c 0 4 = 0 || decide (32 ≤ s.c) || !only s.d (masks genMaskBits)
  | .derive => fld s.d 0 32 ≠ Purpose.wrap || fld s.c 0 4 = 0 || !only s.c 12
  | .wrap => decide (16 ≤ s.c) || s.d ≠ 0
  | .unwrap => fld s.c 0 4 = 0 || decide (16 ≤ s.c) || decide (16 ≤ s.d)
  | .import => fld s.c 0 4 = 0 || decide (32 ≤ s.c) || fld s.d 4 4 ≠ 6 || decide (9 < fld s.d 0 4)
      || !only (fld s.d 8 56 * 256) (masks impMaskBits)
  | .erase => s.c ≠ 0 || s.d ≠ 0
  | _ => false

/-! ## The steps -/

/-- `GENKEY` at its engine (R93, R94). -/
def Dev.genkey (d : Dev) (thread row : Nat) (x : Flight) : Dev :=
  let s := Step.of x.step
  if !d.canDraw then d.awaitDrbg thread row
  else
    let key := d.drawn (drawLabel (d.partOf thread) x.slot)
    let m := masksFrom (fld s.d 0 5) (fld s.d 8 3) (fld s.d 16 5)
    (d.drew.fillSlot x.slot key (attrWord d.kind (fld s.c 0 4) (bitOf s.c 4) Origin.generated 2 0 m) (ownerOf thread s.a 0) 1).finish thread row
      Status.done

/-- The implied parent of `DERIVE` (R95): the domain key, or the manager's management key. -/
def Dev.impliedParent (d : Dev) (thread : Nat) : Option Nat :=
  let i := if thread < d.nparts then 8 + thread else 4
  if (d.resKey i).isSome && (decide (d.nparts ≤ thread) || (d.domKey thread).isSome) then some (d.resSlot i) else none

/-- `DERIVE` from the key in slot p (R95): slot check, attribute check, epoch. -/
def Dev.deriveFrom (d : Dev) (thread row p : Nat) (x : Flight) : Dev :=
  let s := Step.of x.step
  match d.check8 p with
  | some st => (d.retireSlot p).finish thread row st
  | none =>
    if !d.keyMay p useDerive .seq (d.worldOf thread p) then d.finish thread row Status.keyAttr
    else if fld s.d 32 16 = 0xFFFF then d.finish thread row Status.keyEpoch
    else
      let key := kdfKey (d.slot p).key (label (fld s.d 0 32) 0 (partForm (d.partOf thread)) 0 0x80 (fld s.d 48 16) (fld s.d 32 16))
      let m := if s.b = 0 then defaultMasks else (d.slot p).masks
      (d.fillSlot x.slot key (attrWord d.kind (fld s.c 0 4) false Origin.derived 2 (fld s.d 32 16) m)
        (ownerOf thread s.a Purpose.wrap) 1).finish thread row Status.done

/-- `DERIVE` at its engine (R95): a missing parent first. The management key, should it fail its check, is derived again before the step
uses it, which sees no status of it (R89). -/
def Dev.derive (d : Dev) (thread row : Nat) (x : Flight) : Dev :=
  let s := Step.of x.step
  if s.b = 0 then
    let d := if thread = d.mgr then d.verifyReserved [4] else d
    match d.impliedParent thread with
    | none => d.finish thread row Status.denied
    | some p => d.deriveFrom thread row p x
  else match x.bSlot with
    | none => d.finish thread row Status.denied
    | some p => match d.keyLook thread s.b p with
      | .wait => d
      | .stop st => d.finish thread row st
      | .ok => d.deriveFrom thread row p x

/-- `WRAP` at its engine (R91, R96). -/
def Dev.wrap (d : Dev) (thread row : Nat) (x : Flight) : Dev :=
  let s := Step.of x.step
  match x.bSlot with
  | none => d.finish thread row Status.staleHandle
  | some b =>
    match d.keyLook thread s.b b, d.keyLook thread s.a x.slot with
    | .stop st, _ => d.finish thread row st
    | .ok, .stop st => d.finish thread row st
    | .wait, _ => d
    | _, .wait => d
    | .ok, .ok =>
      match d.check8 b, d.check8 x.slot with
      | some st, _ => (d.retireSlot b).finish thread row st
      | none, some st => (d.retireSlot x.slot).finish thread row st
      | none, none =>
        if !d.keyMay b useWrap .seq (d.worldOf thread b) || !(d.slot x.slot).wrappable then d.finish thread row Status.keyAttr
        else
          let out := kwWrap (d.slot b).key (keyBytes (d.slot x.slot).key)
          (d.onTh thread fun t => t.putXfer (256 * fld s.c 0 4) (padTo 256 out)).finish thread row Status.done

/-- `UNWRAP` at its engine (R96). -/
def Dev.unwrap (d : Dev) (thread row : Nat) (x : Flight) : Dev :=
  let s := Step.of x.step
  match x.bSlot with
  | none => d.finish thread row Status.staleHandle
  | some b =>
    match d.keyLook thread s.b b with
    | .stop st => d.finish thread row st
    | .wait => d
    | .ok =>
      match d.check8 b with
      | some st => (d.retireSlot b).finish thread row st
      | none =>
        if !d.keyMay b useWrap .seq (d.worldOf thread b) then d.finish thread row Status.keyAttr
        else match kwUnwrap (d.slot b).key ((d.th thread).xferBytes (256 * fld s.d 0 4) 40) with
          | none => d.finish thread row Status.unwrapFail
          | some k =>
            (d.fillSlot x.slot (bytesKey k) (attrWord d.kind (fld s.c 0 4) false Origin.unwrapped 2 0 (d.slot b).masks)
              (ownerOf thread s.a 0) 1).finish thread row Status.done

/-- `IMPORT` at its engine (R93, R99). -/
def Dev.import (d : Dev) (thread row : Nat) (x : Flight) : Dev :=
  let s := Step.of x.step
  let blob := (d.th thread).xferBytes (256 * fld s.d 0 4) 1792
  let part := d.partOf thread
  match if d.importPair thread = 0 then none else decapsulate part (d.importPair thread) (wrapLabel d.hall.node.toNat (partForm part)) blob with
  | none => d.finish thread row Status.unwrapFail
  | some key =>
    let m := masksFrom (fld s.d 32 5) (fld s.d 40 3) (fld s.d 48 5)
    (d.fillSlot x.slot key (attrWord d.kind (fld s.c 0 4) (bitOf s.c 4) Origin.imported 2 0 m) (ownerOf thread s.a 0) 1).finish thread row
      Status.done

/-- A flight is still using its operands. -/
def Flight.uses (x : Flight) (slot : Nat) : Bool :=
  (match x.stage with
    | .dispatched => true
    | .running => true
    | .checked => true
    | _ => false)
    && (x.bSlot = some slot || ((Step.of x.step).op = some .wrap && x.slot = slot))

/-- Uses of a key already issued have drained (R97): steps in flight, and an export job that works under it. -/
def Dev.keyDrained (d : Dev) (slot : Nat) : Bool :=
  !d.threads.any (fun t => t.2.flights.any fun x => x.uses slot)
    && !d.thresh.jobs.any fun j => j.2.st ≠ JState.free && j.2.export_ && (d.reg j.2.target).newSlot = some slot

/-- `ERASE` at its engine (R97): done once the uses have drained. -/
def Dev.erase (d : Dev) (thread row : Nat) (x : Flight) : Dev :=
  if d.keyDrained x.slot then d.finish thread row Status.done else d.working thread row

/-! ## DRBG and entropy source (R79, R80) -/

/-- A reseed that has fallen due is made. -/
def Dev.reseed (d : Dev) : Dev :=
  let g := d.larder.drbg
  if g.st = .ready && d.reseedDue then
    d.onLarder fun l => { l with drbg := { g with sinceReseed := 0, lastReseed := d.time, reseeds := sat 32 (g.reseeds + 1) } }
  else d

/-- A step's generate request waits: it has met the DRBG not serving, or is a `GENKEY` dispatched. -/
def Flight.awaitsDraw (x : Flight) : Bool := x.drawing || (x.stage = .dispatched && (Step.of x.step).op = some .genkey)

/-- Waiting generate requests end (R80): those of steps with HANG, the others without an answer. -/
def Dev.genkeysHang (d : Dev) : Dev :=
  d.threads.foldl (fun d t => t.2.flights.foldl (fun d x => if x.awaitsDraw then d.finish t.1 x.row Status.hang else d) d)
    { d with drawWait := [] }

/-- An entropy test fails: the DRBG stops serving; the third failure in a row is block-critical error 0x06. -/
def Dev.entropyFail (d : Dev) : Dev :=
  let g := d.larder.drbg
  if g.st = .failed || (!g.seeded && d.reset.phase = .none) then d
  else
    let n := g.fails + 1
    let d := d.onLarder fun l =>
      { l with healthFails := sat 32 (l.healthFails + 1), drbg := { g with fails := n, st := if 3 ≤ n then .failed else .healthHold } }
    if 3 ≤ n then (d.raise 1).genkeysHang.critical 0x06 0 0 else d

/-! ## The scrub (R86 to R88) -/

/-- A slot the scrub finds failing: both copies bad, or the only one, retires it and its owner is told. -/
def Dev.scrubSlot (d : Dev) (f : SlotFailure) : Dev :=
  let l := d.slot f.slot
  let shadowed := Kind.invoker d.kind
  if l.st = 0 || l.retired || decide (Kind.keySlots d.kind ≤ f.slot) then d
  else
    let p := l.primaryBad || f.primary
    let s := l.shadowBad || f.shadow
    if p && (s || !shadowed) then
      let t := l.thread
      (d.retireSlot f.slot).errorOf t
    else if (p && !l.primaryBad) || (shadowed && s && !l.shadowBad) then
      (d.onSlot f.slot fun l => { l with primaryBad := p, shadowBad := shadowed && s }).onLarder fun x =>
        { x with fallbackCount := sat 32 (x.fallbackCount + 1) }
    else d

/-- One pass of the scrub, with the failures it met. -/
def Dev.scrub (d : Dev) (failed : List SlotFailure) : Dev :=
  if !d.ready then d
  else (forEach failed (fun f d => d.scrubSlot f) d).onLarder fun l => { l with scrubTime := d.time }

/-! ## The public-key engine (R105, R411, R415) -/

/-- Let the request at the head start now. -/
def startHead (now : Nat) : List PkeReq → List PkeReq
  | [] => []
  | r :: rest => { r with since := now } :: rest

/-- The running operation ends; the next request starts, and one waiting outside joins the queue: a step's row is then dispatched, so
that its wait does not count toward its deadline. -/
def Dev.pkeDone (d : Dev) : Dev :=
  match d.larder.pke with
  | [] => d
  | r :: rest =>
    let took := d.time - r.since
    let waits := d.larder.pkeWait.head?
    let d := d.onLarder fun l =>
      match l.pkeWait with
      | [] => { l with pke := startHead d.time rest }
      | w :: ws => { l with pke := startHead d.time (rest ++ [{ w with since := d.time }]), pkeWait := ws }
    let d := match waits with
      | some w => (match w.row with
        | some row => d.onFlight w.thread row fun x => if x.stage = Stage.checked then 
              { x with stage := .dispatched, dispatchedAt := d.time, limit := ((Step.of x.step).op.map d.limitOf).getD 0 } else x
        | none => d)
      | none => d
    ((d.addCount r.thread 6 took).addGlobal 321 1).addGlobal 322 took

end Sys2Proof.Machine
end

