-- ==== Sys2Proof/Machine/Resets.lean ====
section
/-! DEFINITION. Partition resets (R448), partition-fatal errors (R443, R457), boot items (R71, R124 to R126, R502), the cold boot
(R73, R501, R509), the block warm reset (R437, R450 to R454, R464, R503) and BOARDED (R454 to R456). -/

namespace Sys2Proof.Machine

/-! ## Partition reset (R448) -/

/-- Change every region. -/
def Dev.eachReg (d : Dev) (f : Region → Region) : Dev := { d with regions := d.regions.map fun e => (e.1, f e.2) }

/-- The pending bits of sources 16 + n and 48 + n are cleared (R437). -/
def Intc.dropPart (c : Intc) (n : Nat) : Intc :=
  { c with pend := c.pend &&& ~~~((1 : BitVec 256) <<< (16 + n) ||| (1 : BitVec 256) <<< (48 + n)) }

/-- Whether a host request belongs to a thread or to one of the jobs given. -/
def HostUse.of (u : HostUse) (n : Nat) (jobs : List Nat) : Bool := match u with
  | .attest t _ | .pageOut t _ _ _ | .pageIn t _ _ | .policy t _ => t = n
  | .save _ _ p _ => p = n
  | .exportRecord j => jobs.contains j
  | .importRecord j _ => jobs.contains j
  | _ => false

/-- Jobs on a partition's regions (R448): abandoned without event. A Sweep of the partition goes on. -/
def Dev.partJobs (d : Dev) (n : Nat) : List Nat :=
  (d.thresh.jobs.filter fun e => e.2.st ≠ .free && e.2.kind = .rekey && (d.reg e.2.target).thread = n).map (·.1)

/-- The engines' work of a partition is withdrawn: operations but the streams' admitted accesses, which complete unless they are in a
Landing slot, whose data is not released (R298, R326), jobs, merge entries, reads and requests that wait, which are answered STALE_HANDLE (R448, R490). -/
def Dev.withdrawPart (d : Dev) (n : Nat) : Dev :=
  let jobs := d.partJobs n
  let mine := d.squares.filter fun e => e.2.st ≠ .free && e.2.thread = n
  let d := { d with merge := d.merge.filter fun e => e.part ≠ n, sqResps := d.sqResps.filter fun r => r.part ≠ n }
  let d := d.withdrawOps fun op => match op.origin with
    | .row t _ => t = n
    | .job i => jobs.contains i
    | .drain _ => op.part = n
    | .square _ => op.part = n
    | .stream _ _ => op.part = n && d.engines.any fun e => e.2.inSlot op
    | _ => false
  let d := forEach jobs (fun i d => d.setJob i {}) d
  let d := d.onHost fun h => { h with reqs := h.reqs.filter fun r => !r.use.of n jobs }
  let reads := d.sqReads.filter fun r => r.part = n
  let d := forEach reads (fun r d => forEach r.tags (fun t d => d.answer r.port t.1 Status.staleHandle) d)
    { d with sqReads := d.sqReads.filter fun r => r.part ≠ n }
  let own (p : Parked) : Bool := match p.built with
    | some b => b.2.1 = n
    | none => (TxReq.of p.hdr).part = n
  let held := d.parked.filter fun p => own p && p.built.isNone
  let d := forEach held (fun p d => d.answer p.port (TxReq.of p.hdr).tag Status.staleHandle)
    { d with parked := d.parked.filter fun p => !own p }
  let d := d.chans.foldl (fun d e => if e.2.st ≠ .free && e.2.thread = n then d.freeChan e.1 else d) d
  let d := d.eachReg fun r => if r.square.any (fun q => mine.any fun m => m.1 = q) then { r with square := none } else r
  forEach mine (fun e d => d.freeSquare e.1) d

/-- What a partition reset leaves of a thread: the handle generations moved on, what its Attic numbering needs until the end. -/
def Thread.stopped (t : Thread) : Thread :=
  let t := t.renewHandles
  { handleBase := t.handleBase, handles := t.handles, atticMask := t.atticMask, atticNext := t.atticNext, atticLost := t.atticLost,
    atticCursor := t.atticCursor, atticFirst := t.atticFirst, errorAt := t.errorAt }

/-- A request that waits for the DRBG is made for partition n. -/
def DrawReq.ofPart (n : Nat) : DrawReq → Bool
  | .challenge p _ _ => p = .interface n
  | .keyExchange p _ _ => p = .interface n
  | .bind k _ => k = n
  | _ => false

/-- Send a TDISP response. -/
def Dev.tdispSay (d : Dev) (n : Nat) (code : Byte) (ok : Bool) (body : Bytes) : Dev := (d.emit (.tdisp n code ok body)).addGlobal 327 1

/-- The TDISP error response. -/
def Dev.tdispError (d : Dev) (n : Nat) : Dev := d.tdispSay n 0x7F false []

/-- Requests of partition n that wait for the DRBG go; a bind among them is abandoned and its request answered with the TDISP error
response (R363). -/
def Dev.dropWaits (d : Dev) (n : Nat) : Dev :=
  let asked := d.drawWait.contains (.bind n false)
  let d := { d with drawWait := d.drawWait.filter fun r => !r.ofPart n }
  if asked then d.tdispError n else d

/-- A partition reset of n starts, with its cause (0 manager, 1 TDISP, 2 transition, 3 partition-fatal) and the record that
triggered it. One already running goes on (R465). -/
def Dev.resetPart (d : Dev) (n cause : Nat) (g : Option Nat) : Dev :=
  let p := d.part n
  if p.st = .resetting then d
  else
    let d := d.setPart n { p with
      st := .resetting, tdi := if cause ≠ 1 && (p.tdi = .locked || p.tdi = .run) then .error else p.tdi, toUnlocked := cause = 1,
      resetCause := cause, resetRecord := g }
    let d := (d.withdrawPart n).onTh n Thread.stopped
    let d := ((d.pkeDrop n).clearDomain n).onHost fun h => { h with sessions := h.sessions.filter fun s => s.port ≠ .interface n }
    let d := d.eachReg fun r => if r.thread = n && r.st = .live then { r with st := .closing } else r
    let d := d.dropWaits n
    (d.onAttic fun a => { a with latch := tdel a.latch (32 + n) }).onIntc fun c => c.dropPart n

/-- What the end of a partition reset leaves of a partition: quotas, shares, bind and restore counts, the masked-sum and channel-id
floors and the multicast sequence, the Attic's era (R448, R181). -/
def Part.fresh (p : Part) : Part :=
  { st := .enabled, tdi := if p.toUnlocked then .unlocked else p.tdi, bindCount := p.bindCount, restoreCount := p.restoreCount,
    quotas := p.quotas, sumFloor := p.sumFloor, multicast := p.multicast, txFloor := p.txFloor, keptFor := p.keptFor }

/-- A new Attic numbering (R419, R422). -/
def Thread.newEra (t : Thread) : Thread :=
  { t with atticFirst := t.atticFirst + 1, atticNext := 0, atticLost := 0, atticCursor := 0 }

/-- Streams' accesses of a partition that are still under way. -/
def Dev.partBusy (d : Dev) (n : Nat) : Bool := d.engines.any fun e => e.2.ops.any fun op =>
  op.part = n && (match op.origin with
    | .stream _ _ => true
    | _ => false)

/-- A partition reset ends once the accesses admitted before it have completed: regions freed, keys zeroised, counters, mailboxes
and Attic numbering restarted; a Cellar record and source 48 + n (R448). -/
def Dev.endReset (d : Dev) (n : Nat) : Dev :=
  let p := d.part n
  if p.st ≠ .resetting || d.partBusy n then d
  else
    let d := d.regions.foldl (fun d e => if e.2.st ≠ .free && e.2.thread = n && !e.2.sweeping then d.freeRegion e.1 else d) d
    let d := ((d.eraseKeys n).clearReserved (8 + n)).clearReserved (40 + n)
    let d := d.record 0x10 8 0 none (some n) 0 p.resetCause (p.resetRecord.getD 0xFFFFFFFF)
    let d := (d.setPart n p.fresh).onTh n fun t => { t.newEra with atticMask := 0x5F }
    let d := d.onAttic fun a => { a with latch := tdel a.latch (32 + n) }
    d.raise (48 + n)

/-- A partition-fatal error of a thread (R443, R457) of a Cellar cause with its object and detail. -/
def Dev.partFatal (d : Dev) (n cause object detail : Nat) : Dev :=
  if n = d.mgr then d.critical 0x0B 0 0
  else if d.reset.status = 2 then d.critical cause 0 0
  else if (d.part n).st = .resetting then d.criticalRec 0x14 0 0 ((d.part n).resetRecord.getD 0xFFFFFFFF)
  else
    let g := d.cellar.head
    ((d.raise (48 + n)).record cause 3 Status.hang.toNat (some n) (some n) 0 object detail).resetPart n 3 (some g)

/-! ## Keys at boot (R73, R78, R109, R509) -/

/-- The UDS that boot may read: fused and intact, in PROVISIONED, DEPLOYED and DEBUG (R110, R498, R509); not while a cold boot is awaited (R114). -/
def Dev.bootUds (d : Dev) : Option Key :=
  if d.lc = .manufacture || d.lc = .retired || d.mgmt.coldNeeded || d.fuses.udsCheck.toNat ≠ crc32 (keyBytes d.fuses.uds) then none else some d.fuses.uds

/-- A reserved slot's key at boot; where no slot is left for it, the reset ends in BOARDED (R510). -/
def Dev.bootSlot (d : Dev) (i : Nat) (key : Key) (origin epoch : Nat) : Dev :=
  match d.setReserved i key origin epoch with
  | some d => d
  | none => d.onReset fun r => { r with boardedEnd := true }

/-- The device keys (R73 step 1). -/
def Dev.deviceKeys (d : Dev) : Dev :=
  match d.bootUds with
  | none => d.onLarder fun l => { l with slotKey := none, identity := none }
  | some u =>
    let d := d.onLarder fun l => { l with slotKey := some (deviceKey u Purpose.slot), identity := some (identityOf (identitySeed u)) }
    ((d.bootSlot 0 (identitySeed u) Origin.derived 0).bootSlot 1 (deviceKey u Purpose.sealing) Origin.derived 0).bootSlot 2
      (deviceKey u Purpose.atrt) Origin.derived 0

/-- The management key under the credential epoch in the fuses (R73 step 3); none before `PROVISION` (R122, R509). -/
def Dev.bootManagement (d : Dev) : Dev :=
  match if d.fuses.credCount = 0 then none else d.bootUds with
  | none => d
  | some u => d.bootSlot 4 (managementKey (deviceKey u Purpose.sealing) d.fuses.credCount) Origin.derived d.fuses.credCount

/-- Every island clock but the always-on island's is seeded from the DRBG (R476). -/
def Dev.seedClock (d : Dev) (n : Nat) : Dev :=
  if n = 7 then d else d.drew.onPdom n fun p => { p with seed := d.larder.drbg.draws, walk := 0, offset := 200 }

/-- The clocks of every island are seeded. -/
def Dev.seedClocks (d : Dev) : Dev := forBelow (Kind.domains d.kind) (fun n d => d.seedClock n) d

/-- The fuses are read and the device keys derived; the DRBG's start-up test begins (R73 step 1, R80). -/
def Dev.bootFuses (d : Dev) : Dev :=
  let d := d.onLarder fun l => { l with pool := d.larderPool, drbg := { draws := max 1 l.drbg.draws, lastReseed := d.time } }
  let d := d.onMgmt fun m => { m with lcWord := d.fuses.lc, readOk := true }
  (d.onMgmt fun m => { m with udsValid := d.bootUds.isSome }).deviceKeys

/-- The start-up test has passed: the DRBG serves; the session root, the manager's paging key and import pair and the management key are
made and the clocks seeded (R73 steps 2 and 3, R80). -/
def Dev.bootDrbg (d : Dev) : Dev :=
  let d := d.onLarder fun l => { l with drbg := { l.drbg with st := .ready, seeded := true, fails := 0, lastReseed := d.time } }
  let root := d.drawn (drawLabel none 3)
  let d := d.drew.bootSlot 3 root Origin.generated 0
  let d := (d.onLarder fun l => { l with managerPaging := kdfKey root (label Purpose.page 0 0x80 0 0 0 0) }).bootManagement
  (d.drew.onLarder fun l => { l with managerPair := d.larder.drbg.draws }).seedClocks

/-! ## Boot items (R71, R124 to R126, R502) -/

/-- The items of a delivery, up to its end: type and content; and whether an item of type 0 ends it. -/
def bootItems (n : Nat) (b : Bytes) : List (Nat × Bytes) × Bool :=
  match n with
  | 0 => ([], false)
  | k + 1 =>
    if b.length < 8 then ([], false)
    else
      let ty := leAt b 0 4
      let len := leAt b 4 4
      if ty = 0 then ([], len = 0)
      else if b.length < 8 + len then ([], false)
      else
        let (r, e) := bootItems k (b.drop (8 + len))
        ((ty, slice b 8 len) :: r, e)

/-- A patch image that Kerre runs (R71, R125). R125 names no context string for its ML-DSA-87 signature, taken as empty; bytes 12 to 15 that
are not zero and bytes after the signatures have the image rejected (DESIGN CHOICE, notes/assumptions/89.md). -/
def patchOk (b : Bytes) : Bool :=
  let l := leAt b 8 4
  slice b 0 4 = [0x4B, 0x50, 0x41, 0x54] && leAt b 4 2 = 1 && leAt b 7 1 = Config.romVersion.toNat && decide (l ≤ 131072) && l % 16 = 0
    && zeroAt b 12 4 && b.length = 16 + l + 96 + 4627
    && Config.p384Verify Config.patchP384 (slice b 0 (16 + l)) (slice b (16 + l) 96)
    && Config.mldsaVerify Config.patchMldsa [] (slice b 0 (16 + l)) (slice b (112 + l) 4627)

/-- A device measurement register takes a value. -/
def Mgmt.measured (m : Mgmt) (i : Nat) (v : Digest) : Mgmt := { m with measure := tset m.measure 0 i v }

/-- One boot item: the patch image is measured and, once verified, runs; a chain is kept when its leaf carries the device's own
identity key (R124). Items of other types are passed over. -/
def Dev.bootItem (d : Dev) (ty : Nat) (b : Bytes) : Dev :=
  if ty = 1 then
    if d.mgmt.patch ≠ 0 then d
    else if patchOk b then
      (d.onMgmt fun m => { (m.measured 1 (sha384d b)).measured 2 (Config.dispatchDigest (some b)) with patch := 1, svn := BitVec.ofNat 8 (leAt b 6 1) }).onReset
        fun r => { r with patchTaken := some b }
    else d.onMgmt fun m => { m.measured 1 (sha384d b) with patch := 2 }
  else if ty = 2 || ty = 3 then
    match d.identityKeys with
    | none => d
    | some (p, q) =>
      if b.length ≤ 16384 && Config.leafKey b = (if ty = 2 then p else q) then
        d.onMgmt fun m => { m with chains := tset m.chains [] (ty - 2) b }
      else d
  else d

/-- The non-secret fuses, M3's content (R126, R498): life-cycle word, credential slots, configuration word. -/
def Dev.fuseBytes (d : Dev) : Bytes :=
  let slots : Bytes := (List.range 4).flatMap fun k => digestBytes (tget d.fuses.creds 0 k)
  let cfg : Bytes := natLe 8 (Kind.num d.kind + Config.stepping.toNat * 2 ^ 8 + Config.fuseConfig.toNat * 2 ^ 16)
  natLe 8 d.fuses.lc.toNat ++ slots ++ cfg

/-- What boot measures before the patch comes (R126). -/
def Dev.bootMeasure (d : Dev) : Dev :=
  d.onMgmt fun m =>
    ((({ m with measure := [], patch := 0, svn := 0, chains := [], fallback := false }.measured 0 Config.romDigest).measured 2
      (Config.dispatchDigest none)).measured 3 (sha384d d.fuseBytes)).measured 4 (sha384d (floorTable d.kind))

/-- The end of the boot stage: every engine draws its tree key and its stack reads as fresh (R278). -/
def Dev.treeKeys (d : Dev) : Dev :=
  forBelow (Kind.engines d.kind) (fun m d => (d.drew.onEng m fun e => { e with treeKey := d.drawn (drawLabel none 0) })) d

/-- The stage is over and every key made: a cold boot reaches READY, in RETIRED it stays BOOTING (R110, R451, R501). -/
def Dev.stageOver (d : Dev) : Dev :=
  match d.reset.phase with
  | .cold =>
    d.treeKeys.onReset fun r => { r with phase := .none, staged := false, status := if d.lc = .retired then 0 else 1 }
  | .warm => d.onReset fun r => { r with phase := .warmDone, staged := false }
  | _ => d

/-- BOOT_REQ is answered, or its time is over. The start-up test of R80 has passed by then unless a failure was reported
(notes/assumptions/85.md); after one the stage ends when the test run again has passed. -/
def Dev.bootStage (d : Dev) : Dev :=
  if d.larder.drbg.seeded then d.stageOver
  else if d.larder.drbg.st = .instantiating then d.bootDrbg.stageOver
  else d.onReset fun r => { r with staged := true }

/-- A start-up test has passed: requests are served again; that of a boot makes the boot's keys (R80). -/
def Dev.entropyDone (d : Dev) : Dev :=
  let g := d.larder.drbg
  if g.st ≠ .healthHold && g.st ≠ .instantiating then d
  else if g.seeded then d.onLarder fun l => { l with drbg := { g with fails := 0, st := .ready } }
  else if d.reset.phase ≠ .cold && d.reset.phase ≠ .warm then d
  else if d.reset.staged then d.bootDrbg.stageOver
  else d.bootDrbg

/-- Kerre waits for boot items. -/
def Dev.awaitsBoot (d : Dev) : Bool := (d.reset.phase = .cold || d.reset.phase = .warm) && !d.reset.staged && !d.reset.frozen

/-- A delivery of boot items; what comes after the stage is discarded (R502). -/
def Dev.bootDeliver (d : Dev) (b : Bytes) : Dev :=
  if !d.awaitsBoot then d
  else
    let (l, e) := bootItems (b.length + 1) b
    let d := forEach l (fun i d => d.bootItem i.1 i.2) d
    if e then d.bootStage else d

/-- The delivery has not ended within its time: what has come stands. -/
def Dev.bootLate (d : Dev) : Dev := if d.awaitsBoot then d.bootStage else d

/-! ## Cold boot (R501) -/

/-- An engine after a cold boot: spare lanes and ways as built. -/
def coldEngine (k : Kind) : Engine :=
  { lanes := 60, sparesLeft := BitVec.ofNat 3 (Kind.memSpares k), spareWays := match k with
      | .k8 => 0
      | .k16 => 1
      | .k32 => 2 }

/-- A port after a cold boot: eight lanes in service each way, spares as built. -/
def coldPort (k : Kind) : Port :=
  { txLanes := 0xFF, rxLanes := 0xFF, txSpare := decide (0 < Kind.portSpares k), rxSpare := decide (0 < Kind.portSpares k) }

/-- Pools of global slots as a boot or block warm reset leaves them (R58). -/
def Dev.fullPools (d : Dev) : Dev :=
  { d with regionPool := Pool.ofRange 0 (Kind.regionSlots d.kind), chanPool := Pool.ofRange 0 (Kind.chanSlots d.kind),
           squarePool := Pool.ofRange 0 (Kind.squareSlots d.kind) }

/-- COLD_RST_N is released: house time starts at zero, every SRAM is cleared, straps sampled, fuses read, keys made, boot items
requested. What the seal line and the presence line read, the outputs so far and the draws made are no SRAM of Kerre's. -/
def Dev.coldBoot (d : Dev) (i3c : Bool) (addr : BitVec 7) : Dev :=
  let c : Dev := { kind := d.kind, fuses := d.fuses, out := d.out, free := d.free }
  let c := { c with reset := { phase := .cold }, larder := { drbg := { draws := d.larder.drbg.draws } },
                    mgmt := { i3c := i3c, address := addr, lineLow := d.mgmt.lineLow },
                    vault := { sealOpen := d.vault.sealOpen } }
  let c := forBelow (Kind.engines d.kind) (fun m c => c.setEng m (coldEngine d.kind)) c
  let c := forBelow (Kind.ports d.kind) (fun p c => c.onPort p fun _ => coldPort d.kind) c
  (c.fullPools.bootFuses.bootMeasure).emit .bootRequest

/-! ## Block warm reset (R450 to R454) -/

/-- Source numbers of the external inputs (R427). -/
def externalMask : BitVec 256 := BitVec.allOnes 256 <<< 128

/-- The controller after a block warm reset (R437). -/
def Intc.warm (c : Intc) : Intc :=
  { c with stuckTime := 0x3E8, stormTrips := 0, stuckTrips := 0, eoiMismatch := 0, lockedWrites := 0, mask := BitVec.allOnes 256, serving := [], freeing := [], asserted := [], pend := c.pend &&& externalMask,
           pendAt := c.pendAt.filter fun e => decide (128 ≤ e.1) }

/-- What a block warm reset keeps of the Larder (R109, R510): the bad marks, and which pool slots stand for retired reserved slots. R510
says of such a slot both that it serves until the next cold boot and that the reset frees every pool slot that is not retired: it stays
(DESIGN CHOICE, notes/assumptions/78.md). -/
def Larder.warm (l : Larder) : Larder :=
  { slots := (l.slots.map fun e => (e.1, e.2.zeroised)).filter fun e => e.2 ≠ {}, subst := l.subst, retiredCount := l.retiredCount,
    fallbackCount := l.fallbackCount, drbg := { draws := l.drbg.draws } }

/-- An engine after a block warm reset: lane and way maps stay (R452). -/
def Engine.warm (e : Engine) : Engine :=
  (List.range (29 - e.workingWays.toNat + e.leavingWays)).foldl (fun e _ => e.loseWay)
    { lanes := e.lanes, sparesLeft := e.sparesLeft, spareWays := e.spareWays, interval := e.interval }

/-- K_SET_STOP for every key set, direction and sub-stream of every programmed stream (R139, R495). -/
def Dev.ideStops (d : Dev) : List IdeOp :=
  (d.host.streams.filter fun e => e.2.programmed).flatMap fun e =>
    [false, true].flatMap fun k => [false, true].flatMap fun t => [0, 1, 2].map fun u =>
      { op := 3, stream := e.1, keySet := k, tx := t, sub := u, since := d.time, own := true }

/-- A port after a block warm reset: its lane maps stay. -/
def Port.warm (p : Port) : Port := { degraded := p.degraded, txLanes := p.txLanes, rxLanes := p.rxLanes, txSpare := p.txSpare, rxSpare := p.rxSpare }

/-- Entry of a block warm reset of a class with the cause that started it: RECOVERING, the dump captured, keys zeroised, islands
reset, keys made again, boot items requested; a third RECOVERY reset within 600 s ends in BOARDED (R454). -/
def Dev.warmEntry (d : Dev) (cls : BitVec 2) (cause : Byte) (trigger : Option Nat) : Dev :=
  let last := d.cellar.escTimes.drop (d.cellar.escTimes.length - 2)
  let counted := cls = 3 && !d.cellar.boarded
  let third := counted && decide (last.length = 2) && decide (d.time ≤ last.headD 0 + 600000000000)
  let cel := d.cellar
  let cel := if counted then { cel with escTimes := last ++ [d.time] } else cel
  let cel := match if cls = 3 then cel.dump else none with
    | some (t, x) =>
      { cel with dump := none, dumpValid := true, dumpCause := BitVec.ofNat 8 (x / 256), dumpIsland := BitVec.ofNat 8 x, dumpTime := t }
    | none => { cel with dump := none }
  let keep := cls ≠ 0
  let stops := d.ideStops
  let w : Dev := { kind := d.kind, time := d.time, fuses := d.fuses, out := d.out, free := d.free, cellar := cel, intc := d.intc.warm }
  let w := { w with
    reset := { d.reset with
      status := 2, phase := .warm, patchTaken := none, cls := cls, cause := cause, warmResets := d.reset.warmResets + 1, entry := d.time,
      trigger := trigger, request := none, frozen := false, staged := false, boardedEnd := third || d.cellar.boarded },
    hall := if keep then { node := d.hall.node, nodeValid := d.hall.nodeValid, steer := d.hall.steer } else {},
    larder := d.larder.warm,
    mgmt := { i3c := d.mgmt.i3c, address := d.mgmt.address, lineLow := d.mgmt.lineLow, blowFail := d.mgmt.blowFail,
              coldNeeded := d.mgmt.coldNeeded, boardedSince := d.mgmt.boardedSince },
    vault := { sealOpen := d.vault.sealOpen, sealEvent := d.vault.sealEvent },
    host := { nextTag := d.host.nextTag, ide := stops },
    power := { linkState := if keep then d.power.linkState else [], sharedLost := d.power.sharedLost },
    ports := (d.ports.map fun e => (e.1, e.2.warm)).filter fun e => e.2 ≠ {} }
  let w := forBelow (Kind.engines d.kind) (fun m w => w.setEng m (d.eng m).warm) w
  let w := forEach stops (fun o w => w.emit (.ideKey o)) w
  let w := forEach ((List.range (Kind.domains d.kind)).filter fun n => !d.powered n) (fun n w => w.emit (.power n true)) w
  (w.fullPools.bootFuses.bootMeasure).emit .bootRequest

/-- WARM_RST_N is asserted with a class: one that meets Kerre's own RECOVERY request counts as RECOVERY (R503). -/
def Dev.warmReset (d : Dev) (cls : BitVec 2) : Dev :=
  if d.reset.phase = .cold then d
  else
    let own := d.reset.request = some 3
    d.warmEntry (if own then 3 else cls) (if own then d.reset.cause else 0) (if own then d.reset.trigger else none)

/-- A block-critical error inside a block warm reset restarts it from entry as a new RECOVERY reset (R457). -/
def Dev.restart (d : Dev) : Dev :=
  if d.reset.status = 2 && d.reset.frozen then d.warmEntry 3 0x14 d.reset.trigger else d

/-- A block warm reset ends: in the limited service of R114 again, RETIRED's BOOTING, BOARDED or READY; records 0x11 and 0x12 (R110, R451,
R454). -/
def Dev.warmEnd (d : Dev) : Dev :=
  if d.reset.phase ≠ .warmDone || d.reset.frozen then d
  else
    let r := d.reset
    let d := d.treeKeys.record 0x11 8 0 none none 0 r.cls.toNat (r.trigger.getD 0xFFFFFFFF)
    let d := d.onReset fun x => { x with lastCls := r.cls, lastCause := r.cause, phase := .none, trigger := none }
    let lim := d.mgmt.coldNeeded || d.lc = .retired
    let ends := r.boardedEnd && !lim
    let enter := ends && !d.cellar.boarded
    let d :=
      if enter then
        let t := d.cellar.escTimes
        let det := (t.getD 0 0) % 2 ^ 64 + (t.getD 1 0) % 2 ^ 64 * 2 ^ 64 + (t.getD 2 0) % 2 ^ 64 * 2 ^ 128
        ((d.raise 7).record 0x12 5 0 none none 0 0 det).onCellar fun c => { c with boarded := true }
      else d
    (d.onReset fun x => { x with boardedEnd := false, status := if lim then 0 else if ends then 3 else 1 }).onMgmt fun m =>
      { m with boardedSince := m.boardedSince || ends }

/-! ## BOARDED's management commands (R456) -/

/-- `LEAVE_BOARDED`: the escalation history is cleared, the response sent, a record written, a SERVICE reset requested. -/
def Dev.leaveBoarded (d : Dev) (sess : Option Nat) (msg : Bytes) : Dev :=
  -- a block-critical error has come first: its reset ends in BOARDED (R465)
  if d.reset.status = 3 && d.reset.frozen then
    match MgmtMsg.of msg with
    | some m => if m.code = 9 && !m.reserved && d.mgmtSession sess then d.mgmtReply sess m.code m.seq Status.denied [] else d
    | none => d
  else d.mgmtRun sess msg 0x09 false true true
    (fun _ d => if d.reset.status = 3 then none else some Status.denied)
    fun m d =>
      let d := d.onCellar fun c => { c with escTimes := [], boarded := false }
      ((d.mgmtReply sess m.code m.seq Status.done []).record 0x13 8 0 none none 0 0 0).requestReset 0

/-- Byte i of the crash dump: words without a given layout (notes/assumptions/17.md). -/
def Dev.dumpBytes (d : Dev) (at_ n : Nat) : Bytes :=
  (List.range (n / 8)).flatMap fun i => natLe 8 (Config.dumpWord d.cellar.dumpTime d.cellar.dumpCause.toNat (at_ / 8 + i)).toNat

/-- `CELLAR_READ` (R456). -/
def Dev.cellarRead (d : Dev) (sess : Option Nat) (msg : Bytes) : Dev :=
  d.mgmtRun sess msg 0x30 false true false (fun _ _ => none) fun m d =>
    let sel := leAt m.body 0 1
    let i := leAt m.body 4 4
    if m.body.length ≠ 8 || !zeroAt m.body 1 3 || decide (1 < sel) || decide ((if sel = 0 then 256 else 512) ≤ i) then
      d.mgmtReply sess m.code m.seq Status.badField []
    else if sel = 0 then d.mgmtReply sess m.code m.seq Status.done (natLe 64 (tget d.cellar.log 0 i).toNat)
    else
      let out := if d.cellar.dumpValid then d.dumpBytes (1024 * i) 1024 else List.replicate 1024 0
      d.mgmtReply sess m.code m.seq Status.done out

/-- The dump is released (R456, R463). -/
def Dev.dumpFree (d : Dev) : Dev := d.onCellar fun c => { c with dumpValid := false, dumpMissed := 0 }

/-- `DUMP_RELEASE` (R456). -/
def Dev.dumpRelease (d : Dev) (sess : Option Nat) (msg : Bytes) : Dev :=
  d.mgmtRun sess msg 0x31 false true false (fun _ _ => none) fun m d => d.dumpFree.mgmtReply sess m.code m.seq Status.done []

end Sys2Proof.Machine
end

