-- ==== Sys2Proof/Machine/Blob.lean ====
section
/-! DEFINITION. The blob of a migration (R380), composed with the checks of R379 in the cc in which `SAVE` dispatches. -/

namespace Sys2Proof.Machine

/-! ## The blob (R380) -/

/-- Bytes of the fixed sections behind the header: thread, measurements, nonce counters. -/
def blobFixed : Nat := 5184 + 384 + 32

/-- Length of a blob of K keys and R regions. -/
def blobLength (k r : Nat) : Nat := (64 + blobFixed + 64 * k + 32 * r + 63) / 64 * 64

/-- IV of a blob. -/
def blobIv : Bytes := [0x4B, 0x4D, 0x49, 0x47, 0, 0, 0, 0, 0, 0, 0, 0]

/-- Header bytes 0 to 47. -/
def blobHead (srcNode srcPart dstNode dstPart r k n : Nat) : Bytes :=
  padTo 48 ([0x4B, 0x4D, 0x49, 0x47] ++ natLe 2 1 ++ [0, 0] ++ natLe 4 (blobLength k n) ++ natLe 2 srcNode ++ natLe 1 srcPart ++ [0]
    ++ natLe 2 dstNode ++ natLe 1 dstPart ++ [0] ++ natLe 2 r ++ natLe 2 k ++ natLe 2 n)

/-- The key of a blob (R378). -/
def blobKey (key : Key) (srcNode srcPart dstNode dstPart r : Nat) : Key :=
  kdfKey key (label Purpose.migr srcNode srcPart dstNode dstPart 0 r)

/-- Handle of an entry. -/
def handleOf (index gen : Nat) : Nat := index + gen * 4096

/-- Live KEY handles of a thread but the one of a slot: handle and slot, by rising index. -/
def Dev.keyHandles (d : Dev) (n b : Nat) : List (Nat × Nat) :=
  let t := d.th n
  t.handles.filterMap fun e =>
    if e.1 / 4096 = HKind.code .key && e.2.st = .live && e.2.slot ≠ b then
      some (handleOf (e.1 % 4096) (t.handle .key (e.1 % 4096)).gen, e.2.slot)
    else none

/-- Live regions of a thread: slot and region. -/
def Dev.regionsOf (d : Dev) (n : Nat) : List (Nat × Region) := d.regions.filter fun e => e.2.st = .live && e.2.thread = n

/-- The thread section. -/
def Thread.section (t : Thread) : Bytes :=
  let head : Bytes := natLe 1 t.issueRow ++ natLe 1 t.fifo.length ++ natLe 1 (b2n t.halted) ++ natLe 1 t.haltRow ++ natLe 4 t.cookie.toNat
  let rows : Bytes := (List.range 256).flatMap fun i => natLe 16 (tget t.rows 0 i).toNat
  let events : Bytes := t.fifo.flatMap fun e => natLe 16 e.toNat
  padTo 64 head ++ rows ++ padTo 1024 events

/-- The measurements and the nonce counters. -/
def Part.section (p : Part) : Bytes :=
  ((List.range 8).flatMap fun i => digestBytes (tget p.measure 0 i)) ++ natLe 8 p.keptFor.toNat ++ natLe 8 p.sumFloor ++ natLe 8 p.multicast
    ++ natLe 8 p.txFloor

/-- A key entry. -/
def Dev.keyEntry (d : Dev) (e : Nat × Nat) : Bytes :=
  let l := d.slot e.2
  padTo 64 (keyBytes l.key ++ natLe 8 l.attr.toNat ++ natLe 2 e.1)

/-- A region is carried: every page of it is in export form (R380). -/
def Region.carried (r : Region) : Bool := r.keyIsExport

/-- A region entry. -/
def regionEntry (r : Region) : Bytes :=
  padTo 32 (natLe 2 (handleOf r.index r.gen) ++ natLe 1 r.kind.toNat ++ natLe 1 r.log2 ++ natLe 6 r.base
    ++ natLe 1 (r.dma.toNat + r.dbg.toNat * 4) ++ natLe 1 (b2n r.carried) ++ natLe 2 ((r.exportKey.getD 0).toNat) ++ natLe 2 r.epoch)

/-! ## What `SAVE` and `RESTORE` read as they dispatch (R379, R384) -/

/-- A consent, as PORCH.MIGRATE holds it, is armed and names handle b (R379, R381). -/
def consents (v : Word) (h : Nat) : Bool := v.getLsbD 63 && fld v.toNat 0 16 = h

/-- Node and partition a consent names (R388). -/
def peerOf (v : Word) : Nat × Nat := (fld v.toNat 16 14, fld v.toNat 30 5)

/-- A region only some of whose pages are in export form (R379). -/
def Region.partly (r : Region) : Bool := !r.carried && decide (0 < r.exportedPages)

/-- The checks of R379. -/
def Dev.saveRefusal (d : Dev) (n : Nat) (s : Step) : Option Byte :=
  let p := d.part n
  let t := d.th n
  if s.d % 64 ≠ 0 || !d.hall.nodeValid || p.st ≠ .frozen || decide (0xFFFE ≤ p.restoreCount) then some Status.badField
  else if !consents p.migrate s.b then some Status.denied
  else if !t.flights.isEmpty || t.jobs ≠ 0 || t.pageOut ≠ 0 || (d.regionsOf n).any fun e =>
      e.2.square.isSome || e.2.newSlot.isSome || e.2.partly then some Status.badField
  else none

/-- The blob of a partition as it stands: header, body under k_mig, tag apart. -/
def Dev.blob (d : Dev) (n b : Nat) : Bytes × Bytes :=
  let p := d.part n
  let (node, part) := peerOf p.migrate
  let keys := d.keyHandles n b
  let regs := d.regionsOf n
  let r := p.restoreCount + 1
  let head := blobHead d.hall.node.toNat n node part r keys.length regs.length
  let body : Bytes := (d.th n).section ++ p.section ++ keys.flatMap d.keyEntry ++ regs.flatMap fun e => regionEntry e.2
  let body := padTo (blobLength keys.length regs.length - 64) body
  let (c, tag) := gcmSeal (blobKey (d.slot b).key d.hall.node.toNat n node part r) blobIv head body
  (head ++ List.replicate 16 0 ++ c, tag)

/-- `SAVE` and `RESTORE` use the consent as it stands when they dispatch (R384); `SAVE` is judged by, and composes its blob from, the
partition's state of that cc (R379): the tag behind the rest. -/
def Dev.migrDispatch (d : Dev) (op : Opc) (x : Flight) : Flight :=
  match op with
  | .save =>
    let sealed := (x.bSlot.map fun b => d.blob x.slot b).getD ([], [])
    { x with consent := (d.part x.slot).migrate, ruling := d.saveRefusal x.slot (Step.of x.step), report := sealed.1 ++ sealed.2 }
  | .restore => { x with consent := (d.part x.slot).migrate }
  | _ => x

end Sys2Proof.Machine
end

