-- ==== Sys2Proof/Machine/Sequencer.lean ====
section
/-! DEFINITION. The sequencer (chapter 02): selecting and checking rows, barriers, completion, halting, retirement, events, deadlines
and withdrawals (R445). -/

namespace Sys2Proof.Machine

/-! ## Selection (R59 to R61) -/

/-- A row still in decode, or a barrier that is pending. -/
def Stage.early : Stage → Bool
  | .decoded | .barrier => true
  | _ => false

/-- A row that holds back the selection of its thread's later rows: one in decode, a barrier, or one that waits at dispatch for its
engine's queue. `EVENT` is none (R59, R61). -/
def Flight.holdsBack (x : Flight) : Bool := x.stage.early || (x.stage = .checked && (Step.of x.step).op ≠ some .event)

def Stage.isCompleted : Stage → Bool
  | .completed _ => true
  | _ => false

/-- Row r of a thread. -/
def Thread.row (t : Thread) (r : Nat) : BitVec 128 := tget t.rows 0 r

/-- The thread issues rows at all (R45, R361): the manager's, or a bound partition's. -/
def Dev.issues (d : Dev) (t : Nat) : Bool := t = d.mgr || (d.part t).st = .bound || (d.part t).st = .frozen

/-- The row at a thread's issue pointer may be selected. -/
def Dev.eligible (d : Dev) (t : Nat) : Bool :=
  let th := d.th t
  let s := Step.of (th.row th.issueRow)
  d.issues t && th.halting.isNone && !th.halted && !th.held && decide (th.flights.length < 32) && s.go
    && !(th.flights.any fun x => x.holdsBack)
    && ((!s.order && s.op ≠ some .rfence) || th.flights.all fun x => x.stage.isCompleted)

/-- The thread the round robin selects next: `lastPicked` is where it goes on. -/
def Dev.pick (d : Dev) : Option Nat :=
  ((List.range (d.mgr + 1)).map fun i => (d.lastPicked + i) % (d.mgr + 1)).find? d.eligible

/-! ## Checks 1 to 7 (R53) -/

/-- A flight still on its way to its engine or with it. -/
def Flight.atWork (x : Flight) : Bool := match x.stage with
  | .checked | .dispatched | .running => true
  | _ => false

/-- Steps of a thread that hold a global slot their engine has not filled yet. -/
def Dev.filling (d : Dev) (n : Nat) (op : Opc) : List Flight :=
  (d.th n).flights.filter fun x => x.atWork && (Step.of x.step).op = some op && (match op with
    | .chopen => (d.ch x.slot).st = .free
    | .sqjoin => (d.sq x.slot).st = .free
    | .mapreg => (d.reg x.slot).st = .free
    | _ => false)

/-- What check 6 finds in a "new" handle (R56). -/
inductive NewLook where
  | ok | held | stale
  deriving DecidableEq, Repr

def HEntry.forNew (e : HEntry) (h : Nat) : NewLook :=
  if e.gen ≠ hGen h then .stale
  else match e.st with
    | .free => .ok
    | .closing => .held
    | .live => .stale

/-- The thread a `WAIT` names (R50). -/
def waitThread (own : Nat) (s : Step) : Nat := if fld s.c 0 8 = 0xFF then own else fld s.c 0 8

/-- Check 3: fields that must be zero or in range (R50 and the opcodes' own rules). -/
def Dev.fieldBad (d : Dev) (thread : Nat) (op : Opc) (s : Step) : Bool :=
  match op with
  | .nop | .rfence | .unmapreg | .chclose | .chepoch | .sqleave | .freeze | .thaw | .vopen | .vclose | .snap => s.c ≠ 0 || s.d ≠ 0
  | .fence | .event | .sweep | .sqjoin | .trace => s.c ≠ 0 || decide (2 ^ 32 ≤ s.d)
  | .wait => decide (256 ≤ s.c) || decide (2 ^ 32 ≤ s.d) || decide (d.mgr < waitThread thread s)
  | .genkey | .derive | .wrap | .unwrap | .erase | .import => d.keyBad op s
  | .mapreg => decide (256 ≤ s.c) || fld s.d 0 21 ≠ 0 || fld s.d 52 12 ≠ 0
  | .seal | .unseal => decide (2 ^ 40 ≤ s.d)
  | .rekey => decide (4 ≤ s.c) || decide (2 ^ 32 ≤ s.d)
  | .pageout | .pagein => fld s.d 0 13 ≠ 0 || fld s.d 40 8 ≠ 0
  | .chopen => decide (2 ≤ s.c) || fld s.d 14 2 ≠ 0 || fld s.d 21 11 ≠ 0
  | .sumset => bitOf s.c 14 || decide (2 ^ 62 ≤ s.d) || d.sumsetBad thread s
  | .attest => decide (16 ≤ s.c)
  | .measure => decide (256 ≤ s.c) || decide (16 ≤ s.d) || d.measureBad thread s
  | .domjoin => s.c ≠ 0 || d.domjoinBad s
  | .domlead | .save | .restore => s.c ≠ 0
  | .quota => decide (256 ≤ s.c) || decide (2 ^ 32 ≤ s.d) || d.quotaBad (hIndex s.a) (fld s.c 0 8) (fld s.d 0 32)
  | .vload => decide (2 ^ 33 ≤ s.d)

/-- Refusals at check 3 that look at the object a live handle names (R242, R292). -/
def Dev.objectBad (d : Dev) (thread : Nat) (op : Opc) (s : Step) : Bool :=
  match op with
  | .unmapreg => (d.liveSlot thread .region s.a).any fun r => d.unmapBad r
  | .sqleave => (d.liveSlot thread .square s.a).any fun q => d.squareNamed q
  | _ => false

/-- The log2 size of a region: of one that a `MAPREG` of the thread has still to map, that step's (R56). -/
def Dev.regionLog (d : Dev) (n r : Nat) : Nat :=
  match (d.th n).flights.find? fun x => x.fills .region r with
  | some x => mapLog (Step.of x.step)
  | none => (d.reg r).log2

/-- Check 4. -/
def Dev.alignBad (d : Dev) (thread : Nat) (op : Opc) (s : Step) : Option Byte :=
  match op with
  | .seal | .unseal =>
    if s.d % 2048 ≠ 0 then some Status.align
    else if (d.liveSlot thread .region s.a).any fun r => sealLong (d.regionLog thread r) s then some Status.length else none
  | .attest => if s.d % 64 ≠ 0 then some Status.align else none
  | .mapreg => if mapBase s % 2 ^ mapLog s ≠ 0 then some Status.align else none
  | _ => none

/-- Check 7: quotas, then pools. -/
def Dev.noRoom (d : Dev) (n : Nat) (op : Opc) (s : Step) : Option Byte :=
  let lim (res use : Nat) : Bool := n < d.nparts && decide (d.limit n res ≤ use)
  match op with
  | .genkey | .derive | .unwrap | .import =>
    if lim 0 (d.keyUse n) then some Status.quota else if d.larder.pool.free = 0 then some Status.noSlot else none
  | .mapreg =>
    let k := mapKind s
    let fill := d.filling n .mapreg
    let pend := ((fill.filter fun x => mapKind (Step.of x.step) = 0).map fun x => 2 ^ mapLog (Step.of x.step)).foldl (· + ·) 0
    if lim 2 (d.regionUse n + fill.length) || (k ≠ 2 && lim 0 (d.keyUse n))
        || (k = 0 && n < d.nparts && decide (d.limit n 4 * 2 ^ 21 < d.memoryUse n + pend + 2 ^ mapLog s)) then some Status.quota
    else if d.regionPool.free = 0 || (k ≠ 2 && d.larder.pool.free = 0) || (k = 1 && decide (2 ^ 32 ≤ d.larder.baseSeq)) then
      some Status.noSlot
    else none
  | .chopen =>
    if lim 1 (d.chanUse n + (d.filling n .chopen).length) then some Status.quota
    else if d.chanPool.free = 0 then some Status.noSlot else none
  | .sqjoin =>
    if lim 3 (d.squareUse n + (d.filling n .sqjoin).length) then some Status.quota
    else if d.squarePool.free = 0 then some Status.noSlot else none
  | _ => none

/-- Take from a pool that has a free slot. -/
def Pool.got (p : Pool) : Nat × Pool := p.take.getD (0, p)

/-- The effects of a creating step at check 7 (R508): the block, the global slot and, for a region, its key's slot; a BASE region's
`MAPREG` takes the next base sequence value (R78). -/
def Dev.hold (d : Dev) (n : Nat) (op : Opc) (s : Step) : Dev × Nat × Nat :=
  let live (k : HKind) (slot : Nat) (d : Dev) : Dev :=
    d.onTh n fun t => t.setHandle k (hIndex s.a) { gen := hGen s.a, st := .live, slot := slot }
  match op with
  | .genkey | .derive | .unwrap | .import =>
    match d.takeSlot n (hIndex s.a) (hGen s.a) 0 with
    | some (i, d) => (live .key i d, i, 0)
    | none => (d, 0, 0)
  | .mapreg =>
    let (r, p) := d.regionPool.got
    let d := live .region r { d with regionPool := p }
    if mapKind s = 2 then (d, r, 0)
    else
      let d := if mapKind s = 1 then d.onLarder fun l => { l with baseSeq := l.baseSeq + 1 } else d
      match d.takeSlot n r (hGen s.a) 0 with
      | some (i, d) => (d, r, i)
      | none => (d, r, 0)
  | .chopen =>
    let (c, p) := d.chanPool.got
    (live .channel c { d with chanPool := p }, c, 0)
  | .sqjoin =>
    let (q, p) := d.squarePool.got
    (live .square q { d with squarePool := p }, q, 0)
  | _ => (d, 0, 0)

/-- The effects of a freeing step at check 7 (R55, R508): the next generation, the closing state, for the object too. -/
def Dev.closeEntry (d : Dev) (n : Nat) (k : HKind) (s : Step) (slot : Nat) : Dev :=
  let d := d.onTh n fun t =>
    let e := t.handle k (hIndex s.a)
    t.setHandle k (hIndex s.a) { e with gen := nextGen e.gen, st := .closing }
  match k with
  | .key => d.onSlot slot fun l => { l with st := 2 }
  | .region => d.onReg slot fun r => { r with st := .closing }
  | _ => d

/-- Outcome of the checks at issue: held (R56, R216, R290), a status, or passed with the block and the flight's slots. -/
inductive Verdict where
  | held
  | fail (st : Byte)
  | pass (d : Dev) (slot keySlot : Nat) (bSlot : Option Nat) (oldGen : Nat)

/-- The thread whose handle space handle b is in: for `SAVE` and `RESTORE` the partition a names (R378). -/
def Dev.bThread (d : Dev) (n : Nat) (op : Opc) (s : Step) : Nat :=
  if op = .save ∨ op = .restore then (d.liveSlot n .part s.a).getD n else n

/-- The slot of handle b; none for a handle that is not live. -/
def Dev.lookB (d : Dev) (n : Nat) (op : Opc) (s : Step) : Option (Option Nat) :=
  let n := d.bThread n op s
  match op.useB with
  | .live k => (d.liveSlot n k s.b).map some
  | .opt k => if s.b = 0 then some none else (d.liveSlot n k s.b).map some
  | _ => some none

/-- Checks 6 and 7 with their effects. -/
def Dev.checkObjects (d : Dev) (n : Nat) (op : Opc) (s : Step) : Verdict :=
  match d.lookB n op s with
  | none => .fail Status.staleHandle
  | some b =>
    match op.useA with
    | .new k =>
      (match (d.entry n k s.a).forNew s.a with
        | .stale => .fail Status.staleHandle
        | .held => .held
        | .ok =>
          match d.noRoom n op s with
          | some st => .fail st
          | none => let (d, slot, key) := d.hold n op s; .pass d slot key b 0)
    | .live k =>
      (match d.liveSlot n k s.a with
        | none => .fail Status.staleHandle
        | some slot => if op = .sumset && decide (16 ≤ (d.sq slot).ctxs.length) then .held else .pass d slot 0 b 0)
    | .frees k =>
      (match d.liveSlot n k s.a with
        | none => .fail Status.staleHandle
        | some slot => .pass (d.closeEntry n k s slot) slot 0 b (hGen s.a))
    | _ => .pass d 0 0 b 0

/-- Checks 2 and 3: the first failing status. -/
def Dev.checkEarly (d : Dev) (n : Nat) (op : Opc) (s : Step) : Option Byte :=
  let isMgr := n = d.mgr
  if (isMgr && !op.byManager) || (!isMgr && !op.byPartition) || (op = .mapreg && mapKindDenied isMgr s) then some Status.denied
  else if s.reserved ≠ 0 || (op.useA = .none && s.a ≠ 0) || (op.useB = .none && s.b ≠ 0) || d.fieldBad n op s || d.objectBad n op s then
    some Status.badField
  else
    match if op = .mapreg then d.mapBad n s else none with
    | some st => some st
    | none => if op = .wait && !isMgr && waitThread n s ≠ n && waitThread n s ≠ d.mgr then some Status.denied else none

/-- Checks 4 and 5. -/
def Dev.checkLate (d : Dev) (n : Nat) (op : Opc) (s : Step) : Option Byte :=
  match d.alignBad n op s with
  | some st => some st
  | none => if n ≠ d.mgr && (d.part n).st = .frozen then some Status.frozen else none

/-- Checks 2 to 5: the first failing status. -/
def Dev.checkFields (d : Dev) (n : Nat) (op : Opc) (s : Step) : Option Byte := (d.checkEarly n op s).or (d.checkLate n op s)

/-- Checks 2 to 7 of a step (R53); a `MAPREG` over a CLOSING region is held in the position of check 3 (R290). -/
def Dev.check (d : Dev) (n : Nat) (op : Opc) (s : Step) : Verdict :=
  if op = .mapreg && (d.checkEarly n op s).isNone && d.mapHeld n s then .held
  else match d.checkFields n op s with
    | some st => .fail st
    | none => d.checkObjects n op s

/-! ## Completion (R55, R62, R508) -/

/-- The kind of object a step's handle a creates or frees. -/
def Opc.madeKind (op : Opc) : Option HKind := match op.useA with
  | .new k | .frees k => some k
  | _ => none

/-- The base sequence value a BASE region's `MAPREG` holds is given back where it is still the latest (R508; notes/assumptions/75.md). -/
def Dev.giveSeq (d : Dev) (x : Flight) : Dev :=
  d.onLarder fun l => if x.baseSeq ≠ 0 && l.baseSeq = x.baseSeq + 1 then { l with baseSeq := x.baseSeq } else l

/-- The steps of a thread that name the object a failed step was to make (R56). -/
def Thread.orphan (t : Thread) (k : HKind) (slot : Nat) : Thread :=
  { t with flights := t.flights.map fun y => if y.names.contains (k, slot) then { y with orphaned := true } else y }

/-- The object of a creating or freeing step is gone: its slots return to their pools, its entry is free. -/
def Dev.release (d : Dev) (n : Nat) (k : HKind) (x : Flight) (failed : Bool) : Dev :=
  let i := hIndex (Step.of x.step).a
  let d := if failed then (d.giveSeq x).onTh n fun t => t.orphan k x.slot else d
  let d := match k with
    | .key => d.freeSlot x.slot
    | .region =>
      if failed then
        let d := if mapKind (Step.of x.step) = 2 then d else d.freeSlot x.keySlot
        { (d.setReg x.slot {}) with regionPool := d.regionPool.put x.slot }
      else d.freeRegion x.slot
    | .channel => d.freeChan x.slot
    | .square => d.freeSquare x.slot
    | .part => d
  d.onTh n fun t => t.setHandle k i { t.handle k i with st := .free, slot := 0 }

/-- Place of a row behind the retire pointer. -/
def Thread.place (t : Thread) (row : Nat) : Nat := (row + 256 - t.retireRow) % 256

/-- A row selected and not dispatched. -/
def Stage.undispatched (s : Stage) : Bool := s.early || s = .checked

/-- A halting completion (R62): halt_row is the earliest failing row; a row behind it that is not dispatched yet returns to eligible,
and no creating step is held any more. -/
def Thread.halt (t : Thread) (row : Nat) : Thread :=
  let h := match t.halting with
    | some r => if t.place row < t.place r then row else r
    | none => row
  let t := { t with halting := some h, held := false }
  match t.flights.getLast? with
  | some x => if x.stage.undispatched && decide (t.place row < t.place x.row) then { t with flights := t.flights.dropLast, issueRow := x.row } else t
  | none => t

/-- The check effects of a row that returns to eligible are undone, its request leaves the public-key engine's door (R105, R508). -/
def Dev.undo (d : Dev) (n : Nat) (x : Flight) : Dev :=
  let s := Step.of x.step
  let d := d.onLarder fun l => { l with pkeWait := l.pkeWait.filter fun r => !(r.thread = n && r.row = some x.row) }
  if x.stage = .checked && (s.op.map Opc.useA = some (.new .key)) then
    let d := (d.setSlot x.slot (d.slot x.slot).zeroised).onLarder fun l => { l with pool := l.pool.undo x.slot }
    d.onTh n fun t => t.setHandle .key (hIndex s.a) { t.handle .key (hIndex s.a) with st := .free, slot := 0 }
  else d

/-- A row's status halts its thread. -/
def Dev.halt (d : Dev) (n row : Nat) : Dev :=
  let t := (d.th n).halt row
  let d' := match (d.th n).flights.getLast? with
    | some x => if t.flights.length < (d.th n).flights.length then d.undo n x else d
    | none => d
  d'.onTh n fun t => t.halt row

/-- A `SAVE` or `RESTORE` that names a partition clears its consent when it completes (R377). -/
def Dev.consentUsed (d : Dev) (n h : Nat) : Dev :=
  match d.liveSlot n .part h with
  | some p => d.onPart p fun x => { x with migrate := 0 }
  | none => d

/-- A row completes with a status: what it held or freed, the FENCE it releases, halting. -/
def Dev.complete (d : Dev) (n row : Nat) (st : Byte) : Dev :=
  match d.flight n row with
  | none => d
  | some x =>
    if x.stage.isCompleted then d
    else
      let s := Step.of x.step
      let d := if s.op = some .save ∨ s.op = some .restore then d.consentUsed n s.a else d
      let d := d.onTh n fun t => { t with flights := t.flights.map fun y =>
        if y.row = row then { y with stage := .completed st } else if y.stage = .barrier then { y with markers := row + 1 } else y }
      let d := match s.op with
        | some op =>
          (match op.madeKind with
            | some k =>
              if x.atWork || (match x.stage with
                | .finished _ => true
                | _ => false) then
                if op.freeing then if st = Status.hang || x.orphaned then d else d.release n k x false
                else if statusOk st then d else d.release n k x true
              else d
            | none => d)
        | none => d
      if statusOk st || s.cont then d else d.halt n row

/-! ## Issue (R59) -/

/-- Put a row in flight at the issue pointer. -/
def Dev.push (d : Dev) (n : Nat) (x : Flight) : Dev :=
  d.onTh n fun t => { t with flights := t.flights ++ [{ x with decodedAt := d.time, depth := t.flights.length }], issueRow := (x.row + 1) % 256 }

/-- A checked `EVENT` of a thread completes: its dispatch comes before that of any later row (R59). -/
def Dev.eventFirst (d : Dev) (n : Nat) : Dev :=
  match (d.th n).flights.find? fun x => x.stage = .checked && (Step.of x.step).op = some .event with
  | some x => d.complete n x.row Status.done
  | none => d

/-- A row that passed its checks is dispatched: to the public-key engine's queue, or it waits at dispatch while that is full; `ATTEST`
composes its report, `SAVE` its blob; `SEAL` and `UNSEAL` clear what PORCH.SEAL_STOP holds (R59, R105, R129, R330). -/
def Dev.dispatch (d : Dev) (n : Nat) (op : Opc) (x : Flight) : Dev :=
  let x := { x with stage := if op = .event || (op.onPke && d.pkeFull) then .checked else .dispatched, dispatchedAt := d.time, limit := d.limitOf op }
  let x := if op = .attest then
      { x with report := d.reportBody (d.partOf n) (bytesKey ((d.th n).xferBytes (256 * fld (Step.of x.step).c 0 4) 32)) none false }
    else d.migrDispatch op x
  let d := if op = .seal || op = .unseal then d.onTh n fun t => { t with sealStop := none } else d
  (if op.onPke then d.pkeAdd n (some x.row) else d).push n x

/-- The row at a thread's issue pointer goes through select, decode, check and dispatch. -/
def Dev.issue (d : Dev) (n : Nat) : Dev :=
  let d := d.eventFirst n
  let t := d.th n
  let row := t.issueRow
  let w := t.row row
  let s := Step.of w
  let d := { d with lastPicked := (n + 1) % (d.mgr + 1) }
  match s.op with
  | none | some .nop | some .fence | some .wait => d.push n { row := row, step := w, stage := .decoded }
  | some op =>
    match d.check n op s with
    | .held => d.onTh n fun t => { t with held := true }
    | .fail st => (d.push n { row := row, step := w, stage := .decoded }).complete n row st
    | .pass e slot key b old =>
      e.dispatch n op { row := row, step := w, stage := .decoded, slot := slot, keySlot := key, bSlot := b, oldGen := old,
                        baseSeq := if op = .mapreg && mapKind s = 1 then d.larder.baseSeq else 0 }

/-- One selection of the sequencer. -/
def Dev.rowIssue (d : Dev) : Dev :=
  if d.ready then
    match d.pick with
    | some n => d.issue n
    | none => d
  else d

/-- A held creating step whose entry or region has come free is selectable again (R56, R216, R290). -/
def Dev.releaseHeld (d : Dev) (n : Nat) : Dev :=
  let t := d.th n
  if !t.held then d
  else
    let s := Step.of (t.row t.issueRow)
    let still := match s.op with
      | some op => (match d.check n op s with
        | .held => true
        | _ => false)
      | none => false
    if still then d else d.onTh n fun t => { t with held := false }

/-! ## Rows that complete in the sequencer -/

/-- Run the sequencer's own part of a decoded row of an opcode. -/
def Dev.atDecode (d : Dev) (n row : Nat) (op : Option Opc) (f : Step → Flight → Dev → Dev) : Dev :=
  if d.ready then
    match d.flight n row with
    | some x => if x.stage = .decoded && (Step.of x.step).op = op then f (Step.of x.step) x d else d
    | none => d
  else d

/-- An unencoded opcode (R50, R53). -/
def Dev.badOpcode (d : Dev) (n row : Nat) : Dev := d.atDecode n row none fun _ _ d => d.complete n row Status.badOpcode

/-- `NOP` at decode. -/
def Dev.nop (d : Dev) (n row : Nat) : Dev :=
  d.atDecode n row (some .nop) fun s _ d => d.complete n row ((d.checkFields n .nop s).getD Status.done)

/-- A `FENCE` completes with a status: its Attic record and the fence-wait counter (R411, R418). -/
def Dev.fenceEnds (d : Dev) (n row : Nat) (x : Flight) (st : Byte) : Dev :=
  let s := Step.of x.step
  let w := d.time - x.decodedAt
  ((d.atticPut 1 n row st (fld s.d 0 32) w 0 ((x.markers - 1) % 256 + x.depth % 256 * 256)).addCount n 12 w).complete n row st

/-- `FENCE` at decode: a barrier. -/
def Dev.fence (d : Dev) (n row : Nat) : Dev :=
  d.atDecode n row (some .fence) fun s x d =>
    match d.checkFields n .fence s with
    | some st => d.fenceEnds n row x st
    | none =>
      let before := (d.th n).flights.filter fun y => y.row ≠ row
      let last := match before.getLast? with
        | some y => if before.all fun y => y.stage.isCompleted then y.row + 1 else 0
        | none => 0
      d.onFlight n row fun x => { x with stage := .barrier, markers := last }

/-- The oldest row in flight is a pending barrier of an opcode. -/
def Dev.barrierOf (d : Dev) (n : Nat) (op : Opc) : Option Flight :=
  match (d.th n).flights.find? fun x => x.stage = .barrier && (Step.of x.step).op = some op with
  | some x => some x
  | none => none

/-- A waiting `FENCE` completes once every earlier row has retired; its record shows RANGE_NEAR where a remote add has passed the guard
band (R231), which its retirement settles. -/
def Dev.fenceComplete (d : Dev) (n : Nat) : Dev :=
  match d.barrierOf n .fence with
  | none => d
  | some x =>
    if !d.ready || (d.th n).flights.head?.map (·.row) ≠ some x.row then d
    else d.fenceEnds n x.row x (if n < d.nparts && (d.part n).addRange then Status.rangeNear else Status.done)

/-- A `WAIT` completes: counter, record, and a TIMEOUT record after HANG (R411, R418). -/
def Dev.waitEnds (d : Dev) (n row : Nat) (x : Flight) (st : Byte) : Dev :=
  let s := Step.of x.step
  let t := waitThread n s
  let w := d.time - x.decodedAt
  let reg := if t ≤ d.mgr then (d.th t).cookie.toNat else 0
  let d := d.atticPut 2 n row st (fld s.d 0 32) w (t % 256 * 2 ^ 24) reg
  let d := if st = Status.hang then d.atticPut 7 n row st (fld s.d 0 32) w (t % 256 * 2 ^ 24) 0 else d
  (d.addCount n 12 w).complete n row st

/-- `WAIT` at decode (R68). -/
def Dev.wait (d : Dev) (n row : Nat) : Dev :=
  d.atDecode n row (some .wait) fun s x d =>
    match d.checkFields n .wait s with
    | some st => d.waitEnds n row x st
    | none =>
      let dist := (BitVec.ofNat 32 (fld s.d 0 32) - (d.th (waitThread n s)).cookie).toNat
      if dist = 0 || decide (2 ^ 31 < dist) then d.waitEnds n row x Status.done
      else if dist = 2 ^ 31 then d.waitEnds n row x Status.cookieRange
      else d.onFlight n row fun x => { x with stage := .barrier, limit := d.limitOf .wait }

/-- A pending `WAIT` completes once the register is at or after its cookie. -/
def Dev.waitComplete (d : Dev) (n : Nat) : Dev :=
  match d.barrierOf n .wait with
  | none => d
  | some x =>
    let s := Step.of x.step
    if d.ready && cookieAtOrAfter (d.th (waitThread n s)).cookie (BitVec.ofNat 32 (fld s.d 0 32)) then d.waitEnds n x.row x Status.done
    else d

/-- `EVENT` at dispatch. -/
def Dev.event (d : Dev) (n row : Nat) : Dev :=
  if d.ready then
    match d.flight n row with
    | some x => if x.stage = .checked && (Step.of x.step).op = some .event then d.complete n row Status.done else d
    | none => d
  else d

/-! ## Engines report (R60) -/

/-- What a freeing step, or `FREEZE`, still waits for has drained. -/
def Dev.drainedNow (d : Dev) (x : Flight) : Bool :=
  match (Step.of x.step).op with
  | some .erase => d.keyDrained x.slot
  | some .unmapreg => d.regionDrained x.slot
  | some .chclose => d.chanDrained x.slot || (d.ch x.slot).st = .down
  | some .sqleave => d.squareDrained x.slot
  | some .freeze => x.markers = 0 || !(d.th x.slot).flights.any fun y => y.row + 1 = x.markers
  | _ => false

/-- An engine reports a dispatched step complete. A finished FREEZE sets the frozen bit of NOTICE (R375). -/
def Dev.engineCompletion (d : Dev) (n row : Nat) : Dev :=
  if !d.ready then d
  else match d.flight n row with
    | none => d
    | some x =>
      match x.stage with
      | .finished st => d.complete n row st
      | .running =>
        if d.drainedNow x then
          let d := if (Step.of x.step).op = some .freeze && (d.part x.slot).st = .frozen then d.notice x.slot 0 else d
          let d := if (Step.of x.step).op = some .chclose then d.markerAck x.slot else d
          d.complete n row Status.done
        else d
      | _ => d

/-! ## Retirement and events (R60, R62, R65 to R69) -/

/-- A row posts an event when it retires (R66). -/
def posts (s : Step) (st : Byte) : Bool := s.notify || st ≠ Status.done || s.op = some .fence || s.op = some .event

/-- A `FENCE` that retires with the partition's add_range bit set ends RANGE_NEAR in place of DONE and clears the bit (R231). -/
def Dev.fenceNear (d : Dev) (n : Nat) (s : Step) (st : Byte) : Bool :=
  s.op = some .fence && statusOk st && decide (n < d.nparts) && (d.part n).addRange

/-- The oldest row of a thread retires. -/
def Dev.rowRetire (d : Dev) (n : Nat) : Dev :=
  let t := d.th n
  match t.flights with
  | [] => d
  | x :: rest =>
    match x.stage with
    | .completed st =>
      if !d.ready then d
      else
        let s := Step.of x.step
        let near := d.fenceNear n s st
        let st := if near then Status.rangeNear else st
        if posts s st && decide (64 ≤ t.fifo.length + t.posts.length) then d.setTh n { t with fifoFull := true }
        else
          let d := if near then d.onPart n fun p => { p with addRange := false } else d
          let own := s.op = some .fence || s.op = some .event
          let p : Post := { row := x.row, opcode := BitVec.ofNat 8 s.opcode, status := st,
                            cookie := if own then some (BitVec.ofNat 32 (fld s.d 0 32)) else none, moves := own }
          let t := { t with
            rows := tmod t.rows 0 x.row clearGo, retireRow := (x.row + 1) % 256, flights := rest,
            posts := if posts s st then t.posts ++ [p] else t.posts }
          let stop := t.halting.isSome && rest.isEmpty
          let t := if stop then { t with halted := true, haltRow := t.halting.getD 0, halting := none } else t
          let d := d.setTh n t
          let d := if n = d.mgr then d.addGlobal 320 1 else d.addCount n 10 1
          let d := if n ≠ d.mgr && !statusOk st then d.addCount n 11 1 else d
          if stop then d.errorOf n else d
    | _ => d

/-- The event of a row that has retired is posted. -/
def Dev.eventPost (d : Dev) (n : Nat) : Dev :=
  match (d.th n).posts with
  | [] => d
  | p :: rest =>
    if d.ready && decide ((d.th n).fifo.length < 64) then (d.onTh n fun t => { t with posts := rest }).postEvent n p else d

/-- A job event is posted behind the row events that wait (R69); none is dropped while the FIFO is full, none moves the cookie register
(R67). -/
def Dev.jobEventPost (d : Dev) (n : Nat) : Dev :=
  match (d.th n).jobEnds with
  | [] => d
  | p :: rest =>
    if d.ready && (d.th n).posts.isEmpty && decide ((d.th n).fifo.length < 64) then
      (d.onTh n fun t => { t with jobEnds := rest }).postEvent n { p with moves := false }
    else d

/-! ## Deadlines and withdrawals (R63, R443, R445) -/

/-- A step's request waits outside the public-key engine's queue: that time does not count (R105). -/
def Dev.pkeOutside (d : Dev) (n row : Nat) : Bool := d.larder.pkeWait.any fun r => r.thread = n && r.row = some row

/-- The deadline class of a flight that has reached the deadline it was given, with the time it counts from. -/
def Dev.late (d : Dev) (n : Nat) (x : Flight) : Option (Nat × Nat) :=
  match (Step.of x.step).op with
  | none => none
  | some op =>
    match op.deadline with
    | none => none
    | some k =>
      let from_ := if op = .wait then x.decodedAt else x.dispatchedAt
      let at_ := x.atWork || (op = .wait && x.stage = .barrier)
      if at_ && decide (from_ + x.limit ≤ d.time) && !d.pkeOutside n x.row then some (k, from_) else none

/-- The work of a hung step is withdrawn from every engine. -/
def Dev.withdrawRow (d : Dev) (n row : Nat) : Dev :=
  let d := d.withdrawOps fun op => op.origin = .row n row
  let d := d.onLarder fun l =>
    let other (r : PkeReq) : Bool := !(r.thread = n && r.row = some row)
    { l with pke := l.pke.filter other, pkeWait := l.pkeWait.filter other }
  let d := d.onHost fun h => { h with reqs := h.reqs.filter fun r => match r.use with
    | .attest t w | .save t w _ _ | .pageOut t w _ _ | .pageIn t w _ | .policy t w | .restore t w => !(t = n && w = row)
    | _ => true }
  let d := if n < d.nparts && (d.dom n).joinRow = some row then
      d.onDom n fun m => m.joinOver row
    else d
  let d := if d.vault.req.row = some (n, row) then d.linkClosed else d
  let d := d.onTh n fun t => if t.snapWait = some row then { t with snapWait := none } else t
  if n < d.nparts then d.onDom n fun m => { m with tickets := tset m.tickets [] row [] } else d

/-- A step at its deadline completes with HANG; its engine is told to withdraw it; a Cellar record of cause 0x03. -/
def Dev.stepDeadline (d : Dev) (n row : Nat) : Dev :=
  if !d.ready then d
  else match d.flight n row with
    | none => d
    | some x =>
      match d.late n x with
      | none => d
      | some (k, from_) =>
        let s := Step.of x.step
        let part := if n < d.nparts then some n else none
        let d := d.record 0x03 1 Status.hang.toNat (some n) part 0 (row + s.opcode * 256) (k + from_ % 2 ^ 64 * 2 ^ 64)
        if s.op = some .wait then d.waitEnds n row x Status.hang
        else
          let d := if s.op = some .rfence then d.rfenceRecord n row x Status.hang else d
          let d := (d.withdrawRow n row).complete n row Status.hang
          d.onTh n fun t => { t with withdrawals := t.withdrawals ++ [{ x with decodedAt := d.time }] }

/-- The engine confirms a withdrawal: a freeing step's unit was finished, or its object stays in use under the generation before
(R445). -/
def Dev.withdrawn (d : Dev) (n row : Nat) (finished : Bool) : Dev :=
  match (d.th n).withdrawals.find? fun x => x.row = row with
  | none => d
  | some x =>
    let d := d.onTh n fun t => { t with withdrawals := t.withdrawals.filter fun y => y ≠ x }
    let s := Step.of x.step
    match s.op with
    | none => d
    | some op =>
      match op.useA with
      | .frees k =>
        if finished then d.release n k x false
        else
          let d := d.onTh n fun t =>
            t.setHandle k (hIndex s.a) { t.handle k (hIndex s.a) with gen := x.oldGen, st := .live, slot := x.slot }
          match k with
          | .key => d.onSlot x.slot fun l => { l with st := 1 }
          | .region => d.onReg x.slot fun r => { r with st := .live }
          | .channel => d.onCh x.slot fun c => if c.st = .closing then { c with st := .open_ } else c
          | .square => d.onSq x.slot fun q => if q.st = .closing then { q with st := .live } else q
          | .part => d
      | _ => d

/-- No confirmation within 100 us of the HANG: partition-fatal (R443). -/
def Dev.withdrawLate (d : Dev) (n row : Nat) : Dev :=
  if !d.ready then d
  else match (d.th n).withdrawals.find? fun x => x.row = row with
    | some x =>
      if x.decodedAt + 100000 ≤ d.time then
        let d := d.onTh n fun t => { t with withdrawals := t.withdrawals.filter fun y => y ≠ x }
        d.partFatal n 0x03 (row + (Step.of x.step).opcode * 256) 0
      else d
    | none => d

/-! ## The driver's side (R30, R44, R46, R49) -/

/-- A 128-bit write of a row. -/
def Dev.rowWrite (d : Dev) (n row : Nat) (v : BitVec 128) : Dev :=
  d.onTh n fun t => if (t.row row).getLsbD 119 then { t with overwrite := true } else { t with rows := tset t.rows 0 row v }

/-- Discard: go cleared in every unissued row of a HALTED thread. -/
def Thread.discard (t : Thread) : Thread :=
  if !t.halted then t
  else { t with held := false, rows := (t.rows.map fun e => (e.1, if t.flights.any fun x => x.row = e.1 then e.2 else clearGo e.2)).filter fun e => e.2 ≠ 0 }

/-- Resume: a HALTED thread issues again. -/
def Thread.resume (t : Thread) : Thread := if t.halted then { t with halted := false, held := false } else t

def Thread.clearOver (t : Thread) : Thread := { t with overwrite := false }

/-- A read of EVENT_LO: the oldest entry, its upper word latched for the requester; a DEBUG read removes nothing (R33). -/
def Dev.eventRead (d : Dev) (n req : Nat) (pop : Bool) : Word × Dev :=
  match (d.th n).fifo with
  | [] => (0, d.onTh n fun t => { t with evHigh := tset t.evHigh 0 req 0 })
  | e :: rest =>
    (e.setWidth 64, d.onTh n fun t =>
      { t with fifo := if pop then rest else t.fifo, fifoFull := !pop && t.fifoFull,
               evHigh := tset t.evHigh 0 req (BitVec.ofNat 64 (e.toNat / 2 ^ 64)) })

/-- THREAD_STATUS.state (R45). -/
def Dev.threadState (d : Dev) (n : Nat) : Nat :=
  let t := d.th n
  if !d.issues n then 4
  else if t.halted then 3
  else
    let s := Step.of (t.row t.issueRow)
    let ordered := s.go && (s.order || s.op = some .rfence) && t.flights.any fun x => !x.stage.isCompleted
    if t.held || (t.flights.any fun x => x.stage = .barrier) || ordered then 2
    else if t.flights.isEmpty && !s.go then 0 else 1

/-- Rows in flight: a pending barrier waits in decode and does not count (R45, R59). -/
def Thread.inFlight (t : Thread) : Nat := (t.flights.filter fun x => x.stage ≠ .barrier).length

/-- The row next to issue (R45): a pending barrier stays in decode, where it issues when it completes, as the cycle table of chapter 02
counts it (notes/assumptions/76.md). -/
def Thread.nextRow (t : Thread) : Nat :=
  match t.flights.find? fun x => x.stage = .barrier with
  | some x => x.row
  | none => t.issueRow

/-- THREAD_STATUS (R45). -/
def Dev.threadStatus (d : Dev) (n : Nat) : Word :=
  let t := d.th n
  BitVec.ofNat 64 (d.threadState n + b2n t.fifoFull * 2 ^ 6 + b2n t.overwrite * 2 ^ 7 + t.haltRow % 256 * 2 ^ 8 + min 15 t.jobs * 2 ^ 16
    + t.inFlight * 2 ^ 20 + t.retireRow % 256 * 2 ^ 32 + t.nextRow % 256 * 2 ^ 40)

/-- HANDLE_INFO (R47). -/
def Dev.handleInfo (d : Dev) (n : Nat) : Word :=
  let q := (d.th n).handleQuery.toNat
  match HKind.ofCode (fld q 16 3) with
  | none => 0
  | some k =>
    if k = .part && n ≠ d.mgr then 0
    else
      let e := (d.th n).handle k (fld q 0 12)
      BitVec.ofNat 64 ((match e.st with
        | .free => 0
        | .live => 1
        | .closing => 2) + e.gen % 16 * 16)

end Sys2Proof.Machine
end

