-- ==== Sys2Proof/Machine/Life.lean ====
section
/-! DEFINITION. Life cycle (R110 to R118), the presence machine, fuse blows (R498), the credential and the management commands of
R121. -/

namespace Sys2Proof.Machine

/-! ## Registers of life cycle and boot (R38, R141 to R143) -/

/-- `SIDE.LC` (R141). -/
def Dev.sideLc (d : Dev) : Word :=
  BitVec.ofNat 64 (LcState.code d.lc + d.fuses.credCount % 16 * 2 ^ 8 + debugExits d.mgmt.lcWord * 2 ^ 12 + d.mgmt.lcWord.toNat * 2 ^ 15)

/-- `SIDE.FUSE_STATUS` (R143). -/
def Dev.fuseStatus (d : Dev) : Word :=
  BitVec.ofNat 64 (b2n d.mgmt.readOk + b2n d.mgmt.udsValid * 2 + b2n (!lcLegal d.mgmt.lcWord) * 4 + b2n d.mgmt.blowFail * 8)

/-- `HALL.STATUS` (R38). -/
def Dev.hallStatus (d : Dev) : Word := BitVec.ofNat 64 (d.reset.status.toNat + d.mgmt.patch.toNat * 2 ^ 8)

/-! ## Presence (R116, R117) -/

/-- A count of 16 bits that saturates. -/
def sat1 (n : Nat) : Nat := sat 16 (n + 1)

/-- The machine enters LOCKOUT: counted, source 128 pends (R116, R118). -/
def Dev.lockout (d : Dev) : Dev :=
  (d.onMgmt fun m => { m with presence := .lockout, lockouts := sat1 m.lockouts }).edge 128

/-- A filtered falling edge. -/
def Dev.press (d : Dev) : Dev :=
  if d.mgmt.lineLow then d
  else
    (d.level 129 true).onMgmt fun m =>
      { m with lineLow := true, lowSince := d.time, presence := if m.presence = .idle then .held else m.presence }

/-- A filtered rising edge: a low period of 2 s to 30 s arms a token. -/
def Dev.letGo (d : Dev) : Dev :=
  if !d.mgmt.lineLow then d
  else
    let h := d.time - d.mgmt.lowSince
    let held := d.mgmt.presence = .held
    let d := if held && decide (30000000000 < h) then d.lockout else d
    let d := (d.level 129 false).onMgmt fun m => { m with lineLow := false, presence := .idle }
    if held && decide (2000000000 ≤ h) && decide (h ≤ 30000000000) then
      (d.onMgmt fun m => { m with armed := some d.time, armedAt := d.time, armedCount := sat1 m.armedCount }).edge 128
    else d

/-- The line has been low for over 30 s; a release at exactly 30 s still arms a token (R145). -/
def Dev.lockoutTime (d : Dev) : Dev :=
  if d.mgmt.lineLow && d.mgmt.presence = .held && decide (d.mgmt.lowSince + 30000000000 < d.time) then d.lockout else d

/-- A token is no longer live 600 s after it armed (R117). -/
def Dev.tokenEnd (d : Dev) : Dev :=
  match d.mgmt.armed with
  | some t => if t + 600000000000 ≤ d.time then d.onMgmt fun m => { m with armed := none } else d
  | none => d

/-! ## Fuse blows (R114, R115, R498) -/

/-- The bits of a number's low w bits that are set, as blow requests of words from `word` on. -/
def blowBits (word w v : Nat) : List Out :=
  ((List.range w).filter fun i => bitOf v i).map fun i => Out.blow (word + i / 64) (i % 64)

/-- The life-cycle bit a transition blows (R113): the next entry bit, the matching exit bit. -/
def lcBit (code : Byte) (w : BitVec 9) : Nat :=
  if code = 0x03 then 0 else if code = 0x04 then 1 else if code = 0x05 then 2 + 2 * debugEntries w
  else if code = 0x06 then 1 + 2 * debugEntries w else 8

/-- The digest of a credential's keys (R122). -/
def credDigest (keys : Bytes) : Digest := sha384d (slice keys 0 2689)

/-- The blows a waiting command asks the fuse port for. -/
def Dev.blows (d : Dev) (b : Blow) : List Out :=
  let cred (keys : Bytes) : List Out := blowBits (6 + 6 * d.fuses.credCount) 384 (credDigest keys).toNat
  let lc := [Out.blow 5 (lcBit b.code d.fuses.lc)]
  if b.code = 0x08 then cred b.data
  else if b.code = 0x03 then
    let uds := slice b.data 0 32
    blowBits 0 256 (leAt uds 0 32) ++ blowBits 4 32 (crc32 uds) ++ cred (b.data.drop 32) ++ lc
  else lc

/-- Start a blow; the response follows it. -/
def Dev.startBlow (d : Dev) (b : Blow) : Dev :=
  forEach (d.blows b) (fun o d => d.emit o) (d.onMgmt fun m => { m with blow := some b })

/-- The fuses after a command's bits are blown; `take` says which bits of each value hold (R498). -/
def Dev.burnt (d : Dev) (b : Blow) (take : Nat → Nat → Nat) : Fuses :=
  let f := d.fuses
  let cred (keys : Bytes) (f : Fuses) : Fuses :=
    let v := take 0 (credDigest keys).toNat
    if v = 0 then f else { f with creds := tset f.creds 0 f.credCount (BitVec.ofNat 384 v), credCount := f.credCount + 1 }
  let lc (f : Fuses) : Fuses := { f with lc := f.lc ||| BitVec.ofNat 9 (take 1 (2 ^ lcBit b.code d.fuses.lc)) }
  if b.code = 0x08 then cred b.data f
  else if b.code = 0x03 then
    let uds := slice b.data 0 32
    lc (cred (b.data.drop 32)
      { f with uds := f.uds ||| BitVec.ofNat 256 (take 2 (leAt uds 0 32)), udsCheck := f.udsCheck ||| BitVec.ofNat 32 (take 3 (crc32 uds)) })
  else lc f

/-- The ending action of a transition (R113, R115), whether or not its bits read back: a SERVICE reset is requested, RETIRED behaviour
begins, or a cold boot is awaited (R114); the next boot decodes what the fuses hold. -/
def Dev.blowEnds (d : Dev) (code : Byte) : Dev :=
  if code = 0x08 then d
  else if code = 0x03 then (d.onMgmt fun m => { m with coldNeeded := true }).onReset fun r => { r with status := 0 }
  else if code = 0x07 then
    (d.onMgmt fun m => { m with lcWord := d.fuses.lc ||| 0x100 }).onReset fun r => { r with status := 0 }
  else d.requestReset 0

/-- The fuse port reports a blow complete; Kerre has read the words back. A first failure blows again; a second answers HANG and
sets blow_fail (source 4). -/
def Dev.blowDone (d : Dev) (readsBack : Bool) : Dev :=
  match d.mgmt.blow with
  | none => d
  | some b =>
    if !readsBack && !b.failed then d.startBlow { b with failed := true }
    else
      let take (i v : Nat) : Nat := if readsBack then v else v &&& Config.blownBits (d.free + i)
      let f := d.burnt b take
      let d := { d with fuses := f, free := if readsBack then d.free else d.free + 4 }
      let d := d.onMgmt fun m => { m with blow := none, blowFail := m.blowFail || !readsBack }
      let d := if readsBack then d else d.raise 4
      let d := if readsBack && b.code = 0x08 then d.onMgmt fun m => { m with cred := some b.data } else d
      let d := if readsBack then d.mgmtReply b.sess b.code.toNat b.seq.toNat Status.done b.body
        else d.mgmtReply b.sess b.code.toNat b.seq.toNat Status.hang []
      d.blowEnds b.code

/-! ## Transitions (R113 to R115) -/

/-- A partition reset of every partition that can take one (R115, R362). -/
def Dev.resetParts (d : Dev) : Dev :=
  forBelow d.nparts (fun n d => match (d.part n).st with
    | .disabled => d
    | _ => d.resetPart n 2 none) d

/-- Every slot, every channel and square key and the private store are zeroised (R109, R115). The model zeroises the memory engines' loaded
copies of region keys too, and keeps the SPDM sessions of the physical function and the management port until the warm reset, so that the
response can be sent (DESIGN CHOICE, notes/assumptions/87.md). -/
def Dev.eraseAll (d : Dev) : Dev :=
  let d := (d.endLoads Status.vaultAuth).linkClosed
  let d := d.onLarder fun l =>
    { l with slots := (l.slots.map fun e => (e.1, e.2.zeroised)).filter fun e => e.2 ≠ {}, slotKey := none, identity := none, managerPair := 0,
             managerPaging := 0 }
  let d := (d.eachChan fun c => { c with keys := [] }).eachSq fun q => { q with key := 0, other := none }
  let d := d.eachReg fun r => { r with loaded := 0, loadedNew := 0 }
  forBelow d.nparts (fun n d => d.onPart n fun p => { p with importPair := 0 }) d

/-- Whether R113 allows a transition from the current state. -/
def Dev.mayMove (d : Dev) (code : Byte) : Bool :=
  match d.lc with
  | .manufacture => code = 0x03 || code = 0x07
  | .provisioned => code = 0x04 || code = 0x07
  | .deployed => (code = 0x05 && decide (debugEntries d.fuses.lc < 3)) || code = 0x07
  | .debug => code = 0x06 || code = 0x07
  | .retired => false

/-- Refusals before the credential: the transition (DENIED), then a body of the wrong length. -/
def Dev.moveRefusal (d : Dev) (code : Byte) (len : Nat) (m : MgmtMsg) : Option Byte :=
  if !d.mayMove code then some Status.denied else if m.body.length ≠ len then some Status.length else none

/-- A transition but `PROVISION` (R115). -/
def Dev.transition (d : Dev) (sess : Option Nat) (msg : Bytes) (code : Byte) (outside signed erase : Bool) : Dev :=
  d.mgmtRun sess msg code.toNat outside signed true (fun m d => d.moveRefusal code 0 m) fun m d =>
    let d := d.resetParts
    let d := if erase then d.eraseAll else d
    d.startBlow { code := code, seq := BitVec.ofNat 32 m.seq, sess := sess }

/-- `PROVISION` (R114): the UDS is the next draw; the response carries the identity keys derived from it. It waits while the DRBG does not
serve (R79, R80). -/
def Dev.provision (d : Dev) (sess : Option Nat) (msg : Bytes) : Dev :=
  if !d.canDraw then d.drawLater (.provision sess msg)
  else d.mgmtRun sess msg 0x03 true false true (fun m d => d.moveRefusal 0x03 2689 m) fun m d =>
    let uds := d.drawn (drawLabel none 0)
    let id := identityOf (identitySeed uds)
    let keys : Bytes := padTo 97 (Config.p384Public id.1) ++ padTo 2592 (Config.mldsaPublic id.2)
    d.drew.resetParts.startBlow { code := 0x03, seq := BitVec.ofNat 32 m.seq, sess := sess, body := keys, data := keyBytes uds ++ m.body }

/-! ## The other commands of R121, R122 -/

/-- `GET_NONCE`. -/
def Dev.getNonce (d : Dev) (sess : Option Nat) (msg : Bytes) : Dev :=
  d.mgmtRun sess msg 0x00 true false false (fun _ _ => none) fun m d => d.mgmtReply sess m.code m.seq Status.done []

/-- `GET_STATE`. -/
def Dev.getState (d : Dev) (sess : Option Nat) (msg : Bytes) : Dev :=
  d.mgmtRun sess msg 0x01 true false false (fun _ _ => none) fun m d =>
    d.mgmtReply sess m.code m.seq Status.done (natLe 8 d.sideLc.toNat ++ natLe 8 d.fuseStatus.toNat ++ natLe 8 d.hallStatus.toNat)

/-- `CRED_PRESENT`: accepted when the digest equals the newest blown slot. -/
def Dev.credPresent (d : Dev) (sess : Option Nat) (msg : Bytes) : Dev :=
  d.mgmtRun sess msg 0x02 true false false (fun m _ => if m.body.length ≠ 2689 then some Status.length else none) fun m d =>
    let n := d.fuses.credCount
    if n = 0 || credDigest m.body ≠ tget d.fuses.creds 0 (n - 1) then d.mgmtReply sess m.code m.seq Status.denied []
    else (d.onMgmt fun x => { x with cred := some m.body }).mgmtReply sess m.code m.seq Status.done []

/-- `CRED_INSTALL`: the next slot is blown. -/
def Dev.credInstall (d : Dev) (sess : Option Nat) (msg : Bytes) : Dev :=
  d.mgmtRun sess msg 0x08 false true true
    (fun m d => if d.fuses.credCount = 0 || decide (4 ≤ d.fuses.credCount) then some Status.denied
      else if m.body.length ≠ 2689 then some Status.length else none)
    fun m d => d.startBlow { code := 0x08, seq := BitVec.ofNat 32 m.seq, sess := sess, data := m.body }

/-- The command codes that this manual defines (R121, R365, R396, R406, R456). -/
def mgmtCodes : List Nat := [0x00, 0x01, 0x02, 0x03, 0x04, 0x05, 0x06, 0x07, 0x08, 0x09, 0x10, 0x11, 0x20, 0x21, 0x22, 0x23, 0x30, 0x31]

/-- A code that is not defined (R121). -/
def Dev.mgmtUnknown (d : Dev) (sess : Option Nat) (msg : Bytes) : Dev :=
  match MgmtMsg.of msg with
  | none => d
  | some m => if !d.mgmtUp || mgmtCodes.contains m.code then d else d.mgmtReply sess m.code m.seq Status.badOpcode []

/-- An MCTP message of another type is discarded (R119). -/
def Dev.mctpOther (d : Dev) (ty : Byte) : Dev :=
  if ty = 0x05 || ty = 0x06 || ty = 0x7F then d else d.onMgmt fun m => { m with discarded := m.discarded + 1 }

end Sys2Proof.Machine
end

