-- ==== Sys2Proof/Machine/Spdm.lean ====
section
/-! DEFINITION. The SPDM responder (R132 to R137), TDISP with the bind of a partition (R138, R361 to R363), IDE_KM and the IDE key
port (R139, R495). Message codes are those of SPDM 1.3, TDISP 1.0 and IDE_KM; a message's bytes beyond what this spec gives are
the standard's (notes/assumptions/13.md). -/

namespace Sys2Proof.Machine

/-! ## Answers -/

/-- The responder answers at all (R110, R114, R455). -/
def Dev.spdmUp (d : Dev) : Bool := d.serving || d.limited

/-- It answers requests after `NEGOTIATE_ALGORITHMS` (R110, R114). -/
def Dev.spdmFull (d : Dev) : Bool := d.serving && d.lc ≠ .manufacture && d.lc ≠ .retired && !d.mgmt.coldNeeded

/-- Send an SPDM response whose contents the standard frames: in a live session as a record under its keys (R13, R132). -/
def Dev.spdmSay (d : Dev) (at_ : SpdmPort) (sess : Option Nat) (code : Byte) (content : Bytes) : Dev :=
  let body := Config.spdmBody code.toNat content
  (match sess.bind fun i => (d.session at_ i).map fun s => (i, s) with
    | some (i, s) => d.sayIn at_ i s ([0x13, code] ++ body)
    | none => d.emit (.spdm at_ sess code body)).addGlobal 327 1

namespace SpdmErr
abbrev invalidRequest : Byte := 0x01
abbrev busy : Byte := 0x03
abbrev decryptError : Byte := 0x06
abbrev unsupported : Byte := 0x07
abbrev sessionLimit : Byte := 0x0A
end SpdmErr

/-- Send ERROR with an error code. -/
def Dev.spdmError (d : Dev) (at_ : SpdmPort) (sess : Option Nat) (e : Byte) : Dev := d.spdmSay at_ sess 0x7F [e]

/-- Answer a request after `NEGOTIATE_ALGORITHMS`: UnsupportedRequest where there is no identity; Busy where the public-key engine is
needed and its queue is full (R110, R135). -/
def Dev.spdmRun (d : Dev) (at_ : SpdmPort) (sess : Option Nat) (pke : Bool) (f : Dev → Dev) : Dev :=
  if !d.spdmUp then d
  else if !d.spdmFull then d.spdmError at_ sess SpdmErr.unsupported
  else if pke && d.pkeFull then d.spdmError at_ sess SpdmErr.busy
  else f d

/-! ## Sessions (R136) -/

/-- The partition an instance speaks for. -/
def spdmPart : SpdmPort → Option Nat
  | .interface n => some n
  | _ => none

/-- An operation of the public-key engine for an instance. -/
def Dev.spdmPke (d : Dev) (at_ : SpdmPort) : Dev := d.pkeUse ((spdmPart at_).getD d.mgr)

/-- An instance exists in the configuration. -/
def spdmPresent (k : Kind) : SpdmPort → Bool
  | .interface n => decide (n < Kind.parts k)
  | _ => true

/-- Answer a request inside a session, or outside where none is named; a session that is not live is none of Kerre's (R136). -/
def Dev.inSession (d : Dev) (at_ : SpdmPort) (sess : Option Nat) (pke : Bool) (f : Option Session → Dev → Dev) : Dev :=
  d.spdmRun at_ sess pke fun d =>
    match sess with
    | none => f none d
    | some i => match d.session at_ i with
      | some s => if s.established then f (some s) (d.heard i) else d.spdmError at_ sess SpdmErr.invalidRequest
      | none => d.spdmError at_ sess SpdmErr.invalidRequest

/-! ## Requests (R134, R135) -/

/-- `GET_VERSION`: 1.3 only. -/
def Dev.getVersion (d : Dev) (at_ : SpdmPort) : Dev := if d.spdmUp then d.spdmSay at_ none 0x04 [0x13] else d

/-- `GET_CAPABILITIES`: CTExponent 20, the flags of R134, the two sizes. -/
def Dev.getCapabilities (d : Dev) (at_ : SpdmPort) : Dev :=
  -- CERT_CAP, CHAL_CAP, MEAS_CAP signed, ENCRYPT_CAP, MAC_CAP, KEY_EX_CAP, HBEAT_CAP, KEY_UPD_CAP
  let flags := 2 ^ 1 + 2 ^ 2 + 2 * 2 ^ 3 + 2 ^ 6 + 2 ^ 7 + 2 ^ 9 + 2 ^ 13 + 2 ^ 14
  if d.spdmUp then d.spdmSay at_ none 0x61 ([20] ++ natLe 4 flags ++ natLe 4 12288 ++ natLe 4 12288) else d

/-- `NEGOTIATE_ALGORITHMS`: MeasurementHashAlgo SHA-384, ECDSA P-384, SHA-384, secp384r1, AES-256-GCM, the SPDM key schedule, DMTF. -/
def Dev.negotiate (d : Dev) (at_ : SpdmPort) : Dev :=
  if d.spdmUp then d.spdmSay at_ none 0x63 (natLe 4 0x04 ++ natLe 4 0x80 ++ natLe 4 0x02 ++ natLe 2 0x10 ++ natLe 2 0x02 ++ natLe 2 0x01 ++ [0x01])
  else d

/-- A chain slot's bytes; none for an empty slot. -/
def Dev.chain (d : Dev) (slot : Nat) : Option Bytes :=
  let c := tget d.mgmt.chains [] slot
  if 2 ≤ slot || c.isEmpty then none else some c

/-- `GET_DIGESTS`: the digests of the stored chains behind a mask of the slots that hold one. -/
def Dev.getDigests (d : Dev) (at_ : SpdmPort) (sess : Option Nat) : Dev :=
  d.inSession at_ sess true fun _ d =>
    let have_ (i : Nat) : Bytes := match d.chain i with
      | some c => sha384 c
      | none => []
    d.spdmSay at_ sess 0x01 (natLe 1 (b2n (d.chain 0).isSome + 2 * b2n (d.chain 1).isSome) ++ have_ 0 ++ have_ 1)

/-- `GET_CERTIFICATE`: a part of a stored chain and how much remains (R124). -/
def Dev.getCertificate (d : Dev) (at_ : SpdmPort) (sess : Option Nat) (slot off len : Nat) : Dev :=
  d.inSession at_ sess false fun _ d =>
    match d.chain slot with
    | none => d.spdmError at_ sess SpdmErr.invalidRequest
    | some c =>
      if c.length ≤ off then d.spdmError at_ sess SpdmErr.invalidRequest
      else
        let n := min len (c.length - off)
        d.spdmSay at_ sess 0x02 (natLe 1 slot ++ natLe 2 n ++ natLe 2 (c.length - off - n) ++ slice c off n)

/-- `CHALLENGE`: chain digest, a fresh nonce and a signature under the P-384 identity key over what the standard signs. -/
def Dev.challenge (d : Dev) (at_ : SpdmPort) (slot : Nat) (nonce : Key) : Dev :=
  d.inSession at_ none true fun _ d =>
    match d.chain slot, d.larder.identity with
    | some c, some (k, _) =>
      if !d.canDraw then d.drawLater (.challenge at_ slot nonce)
      else
        let own := d.drawn (drawLabel (spdmPart at_) 0)
        let d := d.drew.spdmPke at_
        let m := sha384 c ++ keyBytes nonce ++ keyBytes own
        let sig := padTo 96 (Config.p384Sign k d.free (Config.spdmBody 0x83 m))
        { d with free := d.free + 1 }.spdmSay at_ none 0x03 (natLe 1 slot ++ sha384 c ++ keyBytes own ++ sig)
    | _, _ => d.spdmError at_ none SpdmErr.invalidRequest

/-- The measurement blocks of an instance (R137): M0 to M15, then the partition's P0 to P7. -/
def Dev.block (d : Dev) (part : Option Nat) (i : Nat) : Option Bytes :=
  if 1 ≤ i ∧ i ≤ 16 then some (digestBytes (tget d.mgmt.measure 0 (i - 1)))
  else if 17 ≤ i ∧ i ≤ 24 then part.map fun n => digestBytes (tget (d.part n).measure 0 (i - 17))
  else none

/-- The report of block 0x20 (R132, R133, R137): outside a session signed without an answer key; in a session the first since it opened
or its keys were updated is signed and carries the answer key, every other is tagged. -/
def Dev.report (d : Dev) (at_ : SpdmPort) (sess : Option Nat) (s : Option Session) (nonce : Key) : Bytes × Dev :=
  match sess, s with
  | some i, some s =>
    match d.answerKey (partForm (spdmPart at_)) 0 0x80 s.id.toNat s.updates s.th1 with
    | some k =>
      if s.reported then (d.taggedReport (spdmPart at_) nonce k, d)
      else
        let (r, d) := d.signedReport (spdmPart at_) nonce (some k)
        (r, d.onSession i fun s => { s with reported := true })
    | none => d.signedReport (spdmPart at_) nonce none
  | _, _ => d.signedReport (spdmPart at_) nonce none

/-- `GET_MEASUREMENTS` (R137). -/
def Dev.getMeasurements (d : Dev) (at_ : SpdmPort) (sess : Option Nat) (index : Nat) (nonce : Key) : Dev :=
  d.inSession at_ sess true fun s d =>
    if index = 0x20 then
      let (r, d) := (d.spdmPke at_).report at_ sess s nonce
      d.spdmSay at_ sess 0x60 (natLe 1 0x20 ++ natLe 4 r.length ++ r)
    else if index = 0xFF then
      let blocks := (List.range 24).flatMap fun i => match d.block (spdmPart at_) (i + 1) with
        | some b => natLe 1 (i + 1) ++ natLe 4 48 ++ b
        | none => []
      let (r, d) := (d.spdmPke at_).report at_ sess s nonce
      d.spdmSay at_ sess 0x60 (blocks ++ natLe 1 0x20 ++ natLe 4 r.length ++ r)
    else match d.block (spdmPart at_) index with
      | some b => d.spdmSay at_ sess 0x60 (natLe 1 index ++ natLe 4 48 ++ b)
      | none => d.spdmError at_ sess SpdmErr.invalidRequest

/-- A responder session id from draws: not 0x0000, not 0xFFFF, not live (R136). -/
def Dev.drawSession (part : Option Nat) (n : Nat) (d : Dev) : Option (Nat × Dev) :=
  match n with
  | 0 => none
  | k + 1 =>
    if !d.canDraw then none
    else
      let x := fld (d.drawn (drawLabel part 0)).toNat 0 16
      let d := d.drew
      if x = 0 || x = 0xFFFF || d.host.sessions.any (fun s => fld s.id.toNat 16 16 = x) then Dev.drawSession part k d else some (x, d)

/-- The answer to `KEY_EXCHANGE` for a new session id (R13, R132, R136): its random bytes and Kerre's share are the next two draws, the
secret is agreed with the requester's point, TH1 signed under the identity key and verified under the handshake keys. -/
def Dev.keyAgree (d : Dev) (at_ : SpdmPort) (reqId : BitVec 16) (transcript : Bytes) (r : Nat) (identity : Nat) : Dev :=
  let part := spdmPart at_
  let random := keyBytes (d.drawn (drawLabel part 0))
  let d := d.drew
  let n := d.larder.drbg.draws
  let own := padTo 97 (importPoint part n)
  let th1 := Config.spdmTh1 (transcript ++ natLe 2 r ++ random ++ own)
  let secret := Config.p384Ecdh (importScalar part n) (Config.spdmShare transcript)
  let sig := padTo 96 (Config.p384Sign identity d.free (Config.spdmBody 0xE4 th1))
  let s : Session :=
    { port := at_, id := BitVec.ofNat 32 (reqId.toNat + r * 65536), th1 := th1, secret := secret, lastHeard := d.time }
  let d := ({ d.drew with free := d.free + 1 }.spdmPke at_).onHost fun h => { h with sessions := h.sessions ++ [s] }
  d.spdmSay at_ none 0x64 (natLe 2 r ++ natLe 1 60 ++ random ++ own ++ sig ++ Config.spdmVerify secret th1)

/-- `KEY_EXCHANGE` (R136): a session of the instance's two, of the management port's four; a point that is not on the curve is an invalid
request (R105). -/
def Dev.keyExchange (d : Dev) (at_ : SpdmPort) (reqId : BitVec 16) (transcript : Bytes) : Dev :=
  d.inSession at_ none true fun _ d =>
    let most := if at_ = .management then 4 else 2
    if most ≤ (d.host.sessions.filter fun s => s.port = at_).length then d.spdmError at_ none SpdmErr.sessionLimit
    else match d.larder.identity with
      | none => d.spdmError at_ none SpdmErr.invalidRequest
      | some (k, _) =>
        if !Config.p384OnCurve (Config.spdmShare transcript) then d.spdmError at_ none SpdmErr.invalidRequest
        else match Dev.drawSession (spdmPart at_) 70000 d with
          | none => d.drawLater (.keyExchange at_ reqId transcript)
          | some (r, d') => if d'.canDraws 2 then d'.keyAgree at_ reqId transcript r k else d'.drawLater (.keyExchange at_ reqId transcript)

/-- `FINISH`: the session is open once its verify data hold, its keys those of the data phase after the answer; else it ends. -/
def Dev.finishSession (d : Dev) (at_ : SpdmPort) (i : Nat) (transcript : Bytes) : Dev :=
  d.spdmRun at_ (some i) true fun d =>
    match d.session at_ i with
    | none => d.spdmError at_ (some i) SpdmErr.invalidRequest
    | some s =>
      if s.established then d.spdmError at_ (some i) SpdmErr.invalidRequest
      else if Config.spdmFinishOk s.th1 transcript then
        ((d.heard i).spdmSay at_ (some i) 0x65 []).onSession i fun s =>
          { s with established := true, th2 := Config.spdmTh2 s.th1 transcript, sent := 0 }
      else (d.dropSession i).spdmError at_ none SpdmErr.decryptError

/-- `HEARTBEAT`. -/
def Dev.heartbeat (d : Dev) (at_ : SpdmPort) (i : Nat) : Dev := d.inSession at_ (some i) false fun _ d => d.spdmSay at_ (some i) 0x68 []

/-- `KEY_UPDATE`: one that would bring the count to 0xFFFF is refused; the next report is signed again (R132, R133). -/
def Dev.keyUpdate (d : Dev) (at_ : SpdmPort) (i : Nat) : Dev :=
  d.inSession at_ (some i) false fun s d =>
    if s.any fun s => decide (0xFFFE ≤ s.updates) then d.spdmError at_ (some i) SpdmErr.invalidRequest
    else (d.onSession i fun s => { s with updates := s.updates + 1, reported := false, sent := 0 }).spdmSay at_ (some i) 0x69 []

/-- `END_SESSION`. -/
def Dev.endSession (d : Dev) (at_ : SpdmPort) (i : Nat) : Dev :=
  d.inSession at_ (some i) false fun _ d => (d.spdmSay at_ (some i) 0x6C []).dropSession i

/-- Any other request (R135). -/
def Dev.spdmOther (d : Dev) (at_ : SpdmPort) : Dev := if d.spdmUp then d.spdmError at_ none SpdmErr.unsupported else d

/-- No message within two heartbeat periods: the session ends (R136). -/
def Dev.sessionLate (d : Dev) (at_ : SpdmPort) (i : Nat) : Dev :=
  match d.session at_ i with
  | some s => if s.lastHeard + 120000000000 ≤ d.time then d.dropSession i else d
  | none => d

/-! ## TDISP (R138, R361 to R363) -/

/-- Answer a TDISP request; without identity the VENDOR_DEFINED request is answered UnsupportedRequest (R110). -/
def Dev.tdispRun (d : Dev) (n : Nat) (f : Dev → Dev) : Dev := d.spdmRun (.interface n) none false f

def TdiState.code : TdiState → Nat
  | .unlocked => 0
  | .locked => 1
  | .run => 2
  | .error => 3

def Dev.tdispVersion (d : Dev) (n : Nat) : Dev := d.tdispRun n fun d => d.tdispSay n 0x01 true [0x10]

def Dev.tdispCaps (d : Dev) (n : Nat) : Dev := d.tdispRun n fun d => d.tdispSay n 0x02 true (Config.spdmBody 0x102 [])

/-- `LOCK_INTERFACE_REQUEST`: an ENABLED partition with its interface unlocked (R138, R362, R455). -/
def Dev.lockInterface (d : Dev) (n : Nat) : Dev :=
  d.tdispRun n fun d =>
    let p := d.part n
    if d.ready && p.st = .enabled && p.tdi = .unlocked then
      (d.onPart n fun p => { p with tdi := .locked }).tdispSay n 0x03 true []
    else d.tdispError n

/-- The bind of R363 with its paging key and import pair; none where the bind count is spent (the partition stays ENABLED). -/
def Dev.bind (d : Dev) (n : Nat) : Option Dev :=
  let c := (d.part n).bindCount + 1
  match d.resKey 3 with
  | none => none
  | some root =>
    if 0xFFFF ≤ c then none
    else match d.setReserved (40 + n) (kdfKey root (label Purpose.page 0 n 0 0 0 c)) Origin.derived c with
      | none => none
      | some d =>
        let pair := d.larder.drbg.draws
        let d := d.drew.onPart n fun p =>
          { p with bindCount := c, importPair := pair, measure := [], seqOut := 1, seqIn := 1, restoreCount := 0, migrate := 0, notice := 0,
                   mbx := [], counts := [], snap := [], rolled := 0, latched := none, st := .bound, tdi := .run }
        some (d.onTh n fun t => { t.newEra with pageVersion := 1 })

/-- The answer to a START_INTERFACE_REQUEST; none once its mailbox was aborted (R493). -/
def Dev.bindSay (d : Dev) (n : Nat) (quiet ok : Bool) : Dev :=
  if quiet then d else if ok then d.tdispSay n 0x06 true [] else d.tdispError n

/-- Bind a partition and say so; the bind waits while the DRBG does not serve (R80, R362, R363). -/
def Dev.startBind (d : Dev) (n : Nat) (quiet : Bool) : Dev :=
  let p := d.part n
  if !(d.ready && p.st = .enabled && p.tdi = .locked) then d.bindSay n quiet false
  else if !d.canDraw then d.drawLater (.bind n quiet)
  else match d.bind n with
    | some d => d.bindSay n quiet true
    | none => d.bindSay n quiet false

/-- `START_INTERFACE_REQUEST` (R362, R363). -/
def Dev.startInterface (d : Dev) (n : Nat) : Dev := d.tdispRun n fun d => d.startBind n false

/-- `STOP_INTERFACE_REQUEST` (R362). -/
def Dev.stopInterface (d : Dev) (n : Nat) : Dev :=
  d.tdispRun n fun d =>
    let p := d.part n
    if p.st = .enabled && p.tdi = .error then (d.onPart n fun p => { p with tdi := .unlocked }).tdispSay n 0x07 true []
    else if p.st = .bound || p.st = .frozen || (p.st = .enabled && p.tdi = .locked) then (d.resetPart n 1 none).tdispSay n 0x07 true []
    else d.tdispError n

/-- The interface report: one MMIO range, the partition's Porch with its span. -/
def Dev.interfaceReport (d : Dev) (n : Nat) : Dev :=
  d.tdispRun n fun d => d.tdispSay n 0x04 true (natLe 8 (0x1000000 + n * 0x40000) ++ natLe 8 0x40000)

def Dev.interfaceState (d : Dev) (n : Nat) : Dev :=
  d.tdispRun n fun d => d.tdispSay n 0x05 true (natLe 1 (TdiState.code (d.part n).tdi))

/-- P2P-stream and MMIO-attribute requests: an unsupported-request error. -/
def Dev.tdispOther (d : Dev) (n : Nat) : Dev := d.tdispRun n fun d => d.tdispSay n 0x7F false [0x07]

/-! ## IDE_KM and the IDE key port (R139, R495) -/

/-- Answer an IDE_KM request. -/
def Dev.ideSay (d : Dev) (code : Byte) (ok : Bool) (body : Bytes) : Dev := (d.emit (.ideKm code ok body)).addGlobal 327 1

/-- `QUERY`: the IDE capabilities. -/
def Dev.ideQuery (d : Dev) : Dev := d.spdmRun .physical none false fun d => d.ideSay 0x01 true (Config.spdmBody 0x201 [64, 2, 3])

/-- The code of the answer to an operation: KP_ACK, K_GOSTOP_ACK. -/
def IdeOp.answer (o : IdeOp) : Byte := if o.op = 1 then 0x03 else 0x06

/-- Put an operation to the IDE key port; a stream or sub-stream Kerre does not support is answered with the unsupported-value
status. -/
def Dev.ideDo (d : Dev) (o : IdeOp) : Dev :=
  d.spdmRun .physical none false fun d =>
    if 64 ≤ o.stream || o.sub = 3 then d.ideSay o.answer false [0x02]
    else (d.onHost fun h => { h with ide := h.ide ++ [{ o with since := d.time }] }).emit (.ideKey { o with since := d.time })

/-- `KEY_PROG`: the stream is programmed with its id. -/
def Dev.keyProg (d : Dev) (stream : Nat) (id : BitVec 8) (o : IdeOp) : Dev :=
  let d' := d.ideDo o
  if d.spdmFull && decide (stream < 64) && o.sub ≠ 3 then
    d'.onHost fun h => { h with streams := tmod h.streams {} stream fun s => { s with id := id, programmed := true } }
  else d'

/-- What an acknowledged operation leaves of its stream. -/
def IdeStream.after (s : IdeStream) (o : IdeOp) : IdeStream :=
  if o.op = 2 then { s with activeSet := o.keySet, running := true }
  else if o.op = 3 && s.activeSet = o.keySet then { s with running := false, programmed := false }
  else s

/-- The IDE engine acknowledges the oldest operation; Kerre's key copy is gone. -/
def Dev.ideAck (d : Dev) : Dev :=
  match d.host.ide with
  | [] => d
  | o :: rest =>
    if o.own then d.onHost fun h => { h with ide := rest }
    else
      (d.onHost fun h => { h with ide := rest, streams := tmod h.streams {} o.stream fun s => s.after o }).ideSay o.answer true []

/-- No acknowledge within 1 us: counted, the request answered with an error status. -/
def Dev.ideLate (d : Dev) : Dev :=
  match d.host.ide with
  | [] => d
  | o :: rest =>
    if o.since + 1000 ≤ d.time then
      let d := (d.onHost fun h => { h with ide := rest }).onPower fun p => { p with ideLate := sat1 p.ideLate }
      if o.own then d else d.ideSay o.answer false [0x01]
    else d

end Sys2Proof.Machine
end

