-- ==== Sys2Proof/Machine/Partitions.lean ====
section
/-! DEFINITION. Partitions as the manager handles them: actions and states (R361 to R365, R385, R386), quotas (R366, R367), freezing
and thawing (R375, R376), the Porch mailboxes (R371 to R374, R389), what the partition registers show (R385 to R388). -/

namespace Sys2Proof.Machine

/-! ## States and actions (R361, R362, R385) -/

def PState.code : PState → Nat
  | .disabled => 0
  | .enabled => 1
  | .bound => 2
  | .frozen => 3
  | .resetting => 4

/-- A partition is bound while it is BOUND or FROZEN (R361). -/
def Part.bound (p : Part) : Bool := p.st = .bound || p.st = .frozen

/-- HALL.PART_STATE of a partition (R386). -/
def Dev.partState (d : Dev) (n : Nat) : Word :=
  let p := d.part n
  BitVec.ofNat 64 (PState.code p.st + b2n p.refused * 2 ^ 7 + b2n p.saved * 2 ^ 8 + p.restoreCount % 65536 * 2 ^ 32
    + p.bindCount % 65536 * 2 ^ 48)

/-- An action that the state does not allow is ignored and sets `refused`; an accepted one clears it. -/
def Dev.partAct (d : Dev) (n : Nat) (may : Part → Bool) (run : Dev → Dev) : Dev :=
  if may (d.part n) then run (d.onPart n fun p => { p with refused := false })
  else d.onPart n fun p => { p with refused := true }

/-- ENABLE: the manager's PART entry n becomes live, quotas and shares are zero. -/
def Dev.enablePart (d : Dev) (n : Nat) : Dev :=
  d.partAct n (fun p => p.st = .disabled) fun d =>
    (d.onPart n fun p => { p with st := .enabled, quotas := [] }).onTh d.mgr fun t =>
      t.setHandle .part n { t.handle .part n with st := .live, slot := n }

/-- DISABLE: only while the interface is CONFIG_UNLOCKED; the PART entry is freed, its generation advances. -/
def Dev.disablePart (d : Dev) (n : Nat) : Dev :=
  d.partAct n (fun p => p.st = .enabled && p.tdi = .unlocked) fun d =>
    (d.onPart n fun p => { p with st := .disabled, quotas := [] }).onTh d.mgr fun t =>
      t.setHandle .part n { gen := nextGen (t.handle .part n).gen }

/-- RESET: a partition reset of an enabled, bound or frozen partition (R448). -/
def Dev.managerReset (d : Dev) (n : Nat) : Dev :=
  d.partAct n (fun p => p.st = .enabled || p.bound) fun d => d.resetPart n 0 none

/-- Action a of HALL.PART_CTRL: 1 ENABLE, 2 DISABLE, 3 RESET; another action, or a partition that is absent, is ignored. -/
def Dev.partAction (d : Dev) (n a : Nat) : Dev :=
  if d.nparts ≤ n then d
  else if a = 1 then d.enablePart n
  else if a = 2 then d.disablePart n
  else if a = 3 then d.managerReset n
  else d

/-- A write of HALL.PART_CTRL acts with go set. -/
def Dev.partCtrlWrite (d : Dev) (v : Word) : Dev :=
  if v.getLsbD 63 then d.partAction (fld v.toNat 0 5) (fld v.toNat 8 3) else d

/-! ## Quotas (R366, R367) -/

/-- Set one limit; a change sets the quota bit of NOTICE. -/
def Dev.setQuota (d : Dev) (n res v : Nat) : Dev :=
  if d.limit n res = v then d else (d.onPart n fun p => { p with quotas := tset p.quotas 0 res v }).notice n 2

/-- `QUOTA` at dispatch: the range was checked at issue; the sum of the shares is taken as it stands now. -/
def Dev.quota (d : Dev) (thread row : Nat) (x : Flight) : Dev :=
  let s := Step.of x.step
  let res := fld s.c 0 8
  let v := fld s.d 0 32
  if d.quotaBad x.slot res v then d.finish thread row Status.badField
  else (d.setQuota x.slot res v).finish thread row Status.done

/-! ## Management commands (R365) -/

/-- Answer with the partition's HALL.PART_STATE. -/
def Dev.partReply (d : Dev) (sess : Option Nat) (m : MgmtMsg) (n : Nat) (st : Byte) : Dev :=
  d.mgmtReply sess m.code m.seq st (natLe 8 (if n < d.nparts then (d.partState n).toNat else 0))

/-- `PART_CTRL`: a HALL.PART_CTRL word; BAD_FIELD where the word names no partition or no action. -/
def Dev.partCtrl (d : Dev) (sess : Option Nat) (msg : Bytes) : Dev :=
  d.mgmtRun sess msg 0x10 false true false (fun _ _ => none) fun m d =>
      let v := leAt m.body 0 8
      let n := fld v 0 5
      let a := fld v 8 3
      if m.body.length ≠ 8 || !bitOf v 63 || decide (d.nparts ≤ n) || a = 0 || decide (3 < a) then d.partReply sess m n Status.badField
      else (d.partAction n a).partReply sess m n Status.done

/-- `PART_QUOTA`. -/
def Dev.partQuota (d : Dev) (sess : Option Nat) (msg : Bytes) : Dev :=
  d.mgmtRun sess msg 0x11 false true false (fun _ _ => none) fun m d =>
      let n := leAt m.body 0 1
      let res := leAt m.body 1 1
      let v := leAt m.body 4 4
      if m.body.length ≠ 8 || decide (d.nparts ≤ n) || !zeroAt m.body 2 2 || (d.part n).st = .disabled || d.quotaBad n res v then d.partReply sess m n Status.badField
      else (d.setQuota n res v).partReply sess m n Status.done

/-! ## FREEZE and THAW (R375, R376) -/

/-- `FREEZE` at dispatch: `markers` of the flight holds the last row issued before it + 1. -/
def Dev.freeze (d : Dev) (thread row : Nat) (x : Flight) : Dev :=
  let p := d.part x.slot
  if p.st = .frozen then d.finish thread row Status.done
  else if p.st ≠ .bound then d.finish thread row Status.badField
  else
    let last := ((d.th x.slot).flights.filter fun y => y.stage ≠ .decoded).getLast?
    let m := match last with
      | some y => y.row + 1
      | none => 0
    ((d.onPart x.slot fun p => { p with st := .frozen }).onFlight thread row fun y => { y with markers := m }).working thread row

/-- `THAW` at dispatch. -/
def Dev.thaw (d : Dev) (thread row : Nat) (x : Flight) : Dev :=
  let p := d.part x.slot
  if p.st = .bound then d.finish thread row Status.done
  else if p.st ≠ .frozen then d.finish thread row Status.badField
  else ((d.onPart x.slot fun p => { p with st := .bound }).notice x.slot 1).finish thread row Status.done

/-! ## Mailboxes (R371 to R374, R389) -/

/-- Where the mailbox words of a partition hold word w of a slot: outbound slots first. -/
def mbxKey (outbound : Bool) (slot w : Nat) : Nat := (if outbound then 0 else 512) + 32 * slot + w

def Part.mbxWord (p : Part) (outbound : Bool) (slot w : Nat) : Word := tget p.mbx 0 (mbxKey outbound slot w)

/-- A slot is full: bit 63 of its header. -/
def Part.mbxFull (p : Part) (outbound : Bool) (slot : Nat) : Bool := (p.mbxWord outbound slot 0).getLsbD 63

/-- The full bits of a mailbox. -/
def Part.mbxBits (p : Part) (outbound : Bool) : Nat :=
  ((List.range 16).filter fun k => p.mbxFull outbound k).foldl (fun a k => a + 2 ^ k) 0

/-- MBX_PENDING: partitions with a full outbound slot. -/
def Dev.mbxPending (d : Dev) : Nat :=
  ((List.range d.nparts).filter fun n => (d.part n).mbxBits true ≠ 0).foldl (fun a n => a + 2 ^ n) 0

/-- Sequence after s (R372). -/
def nextSeq (s : Nat) : Nat := if s = 0xFFFFFFFF then 1 else s + 1

/-- Count a bad post, or a write to a full slot, in the sender's MBX_FAULT. -/
def Dev.mbxBad (d : Dev) (outbound : Bool) (n : Nat) : Dev :=
  if outbound then d.onPart n fun p => { p with badPosts := sat 16 (p.badPosts + 1) }
  else d.onHall fun h => { h with mbxBad := sat 16 (h.mbxBad + 1) }

def Dev.mbxToFull (d : Dev) (outbound : Bool) (n : Nat) : Dev :=
  if outbound then d.onPart n fun p => { p with fullWrites := sat 16 (p.fullWrites + 1) }
  else d.onHall fun h => { h with mbxFull := sat 16 (h.mbxFull + 1) }

/-- A header that may be posted: length at most 240, reserved fields zero (R371, R372). -/
def headerOk (h : Nat) : Bool := decide (fld h 48 8 ≤ 240) && fld h 56 7 = 0 && fld h 32 8 = 0

/-- A 128-bit write of a slot's header by its sender. -/
def Dev.mbxPost (d : Dev) (outbound : Bool) (n slot : Nat) (header : BitVec 128) : Dev :=
  let p := d.part n
  let h := header.toNat
  if !p.bound then d
  else if p.mbxFull outbound slot then d.mbxToFull outbound n
  else if !bitOf h 63 then d
  else if !headerOk h then d.mbxBad outbound n
  else
    let seq := if outbound then p.seqOut else p.seqIn
    let w0 : Word := BitVec.ofNat 64 (seq % 2 ^ 32 + fld h 40 16 * 2 ^ 40 + 2 ^ 63)
    let p := { p with mbx := tset (tset p.mbx 0 (mbxKey outbound slot 0) w0) 0 (mbxKey outbound slot 1) (BitVec.ofNat 64 d.time) }
    let d := d.setPart n (if outbound then { p with seqOut := nextSeq seq } else { p with seqIn := nextSeq seq })
    d.raise (if outbound then 82 else 16 + n)

/-- A write of a body word by the sender. -/
def Dev.mbxBody (d : Dev) (outbound : Bool) (n slot w : Nat) (v : Word) : Dev :=
  let p := d.part n
  if !p.bound then d
  else if p.mbxFull outbound slot then d.mbxToFull outbound n
  else d.onPart n fun p => { p with mbx := tset p.mbx 0 (mbxKey outbound slot w) v }

/-- The receiver takes the full slots whose bits it writes: all 256 bytes are zeroed (R373). -/
def Dev.mbxTake (d : Dev) (outbound : Bool) (n bits : Nat) : Dev :=
  if !(d.part n).bound then d
  else d.onPart n fun p =>
    { p with mbx := p.mbx.filter fun e =>
        let k := (e.1 - mbxKey outbound 0 0) / 32
        !(decide (mbxKey outbound 0 0 ≤ e.1) && decide (e.1 < mbxKey outbound 16 0) && bitOf bits k && p.mbxFull outbound k) }

/-! ## Partition registers (R387, R388) -/

/-- PORCH.UTIL of the last whole 1 ms: four percentages the spec leaves to the load (notes/assumptions/16.md). -/
def Dev.util (d : Dev) (n : Nat) : Nat :=
  let u := (Config.utilisation n (d.time / 1000000)).toNat
  min 100 (fld u 0 8) + min 100 (fld u 8 8) * 2 ^ 8 + min 100 (fld u 16 8) * 2 ^ 16 + min 100 (fld u 24 8) * 2 ^ 24

/-- Register k at PORCH offset 0x3500 + 8 k. -/
def Dev.partWord (d : Dev) (n k : Nat) : Word :=
  let p := d.part n
  BitVec.ofNat 64 (match k with
    | 0 => n + PState.code p.st * 2 ^ 8 + b2n p.saved * 2 ^ 11 + p.bindCount % 65536 * 2 ^ 16 + p.restoreCount % 65536 * 2 ^ 32
    | 1 => p.notice.toNat
    | 2 => p.migrate.toNat
    | 3 => d.util n
    | 4 => d.keyUse n % 65536 + d.chanUse n % 65536 * 2 ^ 16 + d.regionUse n % 65536 * 2 ^ 32 + d.squareUse n % 65536 * 2 ^ 48
    | 5 => d.limit n 0 + d.limit n 1 * 2 ^ 16 + d.limit n 2 * 2 ^ 32 + d.limit n 3 * 2 ^ 48
    | 6 => d.memoryUse n
    | 7 => d.limit n 4 % 2 ^ 32 + d.limit n 5 * 2 ^ 32 + d.limit n 6 * 2 ^ 40
    | _ => 0)

/-- A write of PORCH.MIGRATE; one with a reserved bit set is ignored (R388). -/
def Dev.migrateWrite (d : Dev) (n : Nat) (v : Word) : Dev :=
  if fld v.toNat 35 28 ≠ 0 then d else d.onPart n fun p => { p with migrate := v }

end Sys2Proof.Machine
end

