-- ==== Sys2Proof/Machine/Migrate.lean ====
section
/-! DEFINITION. Migration (R377 to R383): `SAVE` and `RESTORE`. -/

namespace Sys2Proof.Machine

/-! ## SAVE (R378, R379) -/

/-- The slot and attribute checks of key b (R91), its handle being of the partition's space. -/
def Dev.migrKey (d : Dev) (thread n b : Nat) (h u : Nat) (fresh : Bool) : KeyLook :=
  match d.keyLook n h b with
  | .stop st => .stop st
  | .wait => .wait
  | .ok =>
    if !d.slotPasses b then .stop Status.keySlotBad
    else if !d.keyMay b u .seq (d.worldOf thread b) || (fresh && (d.slot b).spent) then .stop Status.keyAttr
    else .ok

/-- `SAVE` at dispatch: the blob is written with its tag zero, the tag behind it. -/
def Dev.save (d : Dev) (thread row : Nat) (x : Flight) : Dev :=
  let s := Step.of x.step
  let n := x.slot
  match x.bSlot with
  | none => d.finish thread row Status.staleHandle
  | some b =>
    match d.migrKey thread n b s.b useEncrypt true with
    | .wait => d
    | .stop st => (if st = Status.keySlotBad then d.retireSlot b else d).finish thread row st
    | .ok =>
      match x.ruling with
      | some st => d.finish thread row st
      | none =>
        let bytes := x.report.take (x.report.length - 16)
        let tag := x.report.drop (x.report.length - 16)
        ((d.spend b).hostStart true (d.hostInst thread) s.d bytes.length bytes (.save thread row n tag)).working thread row

/-- A write of a blob has completed: the tag follows the rest; behind it the partition is saved. -/
def Dev.saveWritten (d : Dev) (thread row n : Nat) (tag : Bytes) : Dev :=
  match d.flight thread row with
  | none => d
  | some x =>
    if !tag.isEmpty then d.hostStart true (d.hostInst thread) ((Step.of x.step).d + 48) 16 tag (.save thread row n [])
    else ((d.onPart n fun p => { p with saved := true }).notice n 4).finish thread row Status.done

/-! ## RESTORE (R381, R382) -/

/-- Check 1 of R381. -/
def Dev.restoreBad (d : Dev) (n b : Nat) (s : Step) : Bool :=
  let p := d.part n
  let t := d.th n
  s.d % 64 ≠ 0 || !d.hall.nodeValid || p.st ≠ .frozen || p.saved
    || t.handles.any (fun e => e.2.st = .live && !(e.1 / 4096 = HKind.code .key && e.2.slot = b))
    || t.rows.any (fun e => e.2.getLsbD 119) || !t.fifo.isEmpty || (d.domKey n).isSome

/-- `RESTORE` at dispatch: after checks 1 and 2 the header is read. -/
def Dev.restore (d : Dev) (thread row : Nat) (x : Flight) : Dev :=
  let s := Step.of x.step
  let n := x.slot
  match x.bSlot with
  | none => d.finish thread row Status.staleHandle
  | some b =>
    match d.migrKey thread n b s.b useDecrypt false with
    | .wait => d
    | .stop st => (if st = Status.keySlotBad then d.retireSlot b else d).finish thread row st
    | .ok =>
      if d.restoreBad n b s then d.finish thread row Status.badField
      else if !consents x.consent s.b then d.finish thread row Status.denied
      else
        (d.hostStart false (d.hostInst thread) s.d 64 [] (.restore thread row)).working thread row

/-- Check 3 of R381. -/
def Dev.blobHeadOk (d : Dev) (n : Nat) (peer : Nat × Nat) (h : Bytes) : Bool :=
  let k := leAt h 22 2
  let r := leAt h 24 2
  slice h 0 4 = [0x4B, 0x4D, 0x49, 0x47] && leAt h 4 2 = 1 && zeroAt h 6 2 && zeroAt h 15 1 && zeroAt h 19 1 && zeroAt h 26 22
    && leAt h 8 4 = blobLength k r && leAt h 16 2 = d.hall.node.toNat && leAt h 18 1 = n
    && leAt h 12 2 = peer.1 && leAt h 14 1 = peer.2 && decide (1 ≤ leAt h 20 2) && decide (leAt h 20 2 ≤ 0xFFFE)

/-- A key of a blob. -/
structure SavedKey where
  key : Key
  attr : Word
  handle : Nat
  deriving DecidableEq, Repr

/-- A region of a blob. -/
structure SavedRegion where
  handle : Nat
  kind : Nat
  log : Nat
  base : Nat
  rights : Nat
  carried : Bool
  exportKey : Nat
  epoch : Nat
  deriving DecidableEq, Repr

def savedKeys (body : Bytes) (k : Nat) : List SavedKey := (List.range k).map fun i =>
  let at_ := blobFixed + 64 * i
  { key := bytesKey (slice body at_ 32), attr := BitVec.ofNat 64 (leAt body (at_ + 32) 8), handle := leAt body (at_ + 40) 2 }

def savedRegions (body : Bytes) (k r : Nat) : List SavedRegion := (List.range r).map fun i =>
  let at_ := blobFixed + 64 * k + 32 * i
  { handle := leAt body at_ 2, kind := leAt body (at_ + 2) 1, log := leAt body (at_ + 3) 1, base := leAt body (at_ + 4) 6,
    rights := leAt body (at_ + 10) 1, carried := leAt body (at_ + 11) 1 = 1, exportKey := leAt body (at_ + 12) 2,
    epoch := leAt body (at_ + 14) 2 }

/-- No two of a list are the same. -/
def allDiffer : List Nat → Bool
  | [] => true
  | x :: r => !r.contains x && allDiffer r

/-- No two regions of a blob lie over each other. -/
def apart : List SavedRegion → Bool
  | [] => true
  | x :: r => r.all (fun y => !meet x.base x.log y.base y.log) && apart r

/-- A region of a blob can be mapped (check 5 of R381). -/
def Dev.placeable (d : Dev) (n : Nat) (keys : List SavedKey) (r : SavedRegion) : Bool :=
  (r.kind = 0 || r.kind = 2) && decide (21 ≤ r.log) && decide (r.log ≤ 40) && r.base % 2 ^ r.log = 0
    && decide (r.base + 2 ^ r.log ≤ Kind.capacity d.kind * 2 ^ 30) && !d.engineOff r.base r.log
    && !(d.regions.any fun e => e.2.st ≠ .free && mapBlocks n r.kind r.base r.log e.2.thread e.2.kind.toNat e.2.base e.2.log2)
    && !(d.mapping.any fun x => mapBlocks n r.kind r.base r.log x.1 x.2.1 x.2.2.1 x.2.2.2)
    && (r.kind ≠ 2 || (d.baseOf r.base r.log).any fun b => (d.reg b).share.getLsbD n)
    && (!r.carried || (r.kind = 0 && keys.any fun k => k.handle = r.exportKey))

/-- Check 5 of R381: everything fits. -/
def Dev.blobFits (d : Dev) (n h : Nat) (keys : List SavedKey) (regs : List SavedRegion) : Bool :=
  let own := regs.filter fun r => r.kind = 0 && !r.carried
  let bytes := ((regs.filter fun r => r.kind = 0).map fun r => 2 ^ r.log).foldl (· + ·) 0
  let need := keys.length + own.length
  decide (d.keyUse n + need ≤ d.limit n 0) && decide (need ≤ d.larder.pool.free)
    && decide (d.regionUse n + regs.length ≤ d.limit n 2) && decide (regs.length ≤ d.regionPool.free)
    && decide (d.memoryUse n + bytes ≤ d.limit n 4 * 2 ^ 21)
    && keys.all (fun k => hIndex k.handle ≠ hIndex h && hGen k.handle ≠ 0) && allDiffer (keys.map fun k => hIndex k.handle)
    && regs.all (fun r => hGen r.handle ≠ 0 && d.placeable n keys r) && allDiffer (regs.map fun r => hIndex r.handle) && apart regs
    && (!regs.any (fun r => r.carried) || (d.th n).exportBase ≠ 0)

/-- A saved handle is live again under its generation. -/
def Dev.liveAgain (d : Dev) (n : Nat) (k : HKind) (h slot : Nat) : Dev :=
  d.onTh n fun t => t.setHandle k (hIndex h) { gen := hGen h, st := .live, slot := slot }

/-- A key goes into a pool slot under its saved handle; the owner word is the destination thread's. -/
def Dev.restoreKey (d : Dev) (n : Nat) (k : SavedKey) : Dev :=
  match d.takeSlot n (hIndex k.handle) (hGen k.handle) 0 with
  | none => d
  | some (i, d) =>
    -- the purpose value of a derived key is that of `DERIVE`
    let purpose := if fld k.attr.toNat 8 2 = Origin.derived then Purpose.wrap else 0
    (d.fillSlot i k.key (k.attr &&& attrBits d.kind) (ownerOf n k.handle purpose) 1).liveAgain n .key k.handle i

/-- A region is mapped: carried under its export key, with every page exported and paged out, fresh under a new key, or onto its
BASE. -/
def Dev.restoreRegion (d : Dev) (n : Nat) (s : SavedRegion) : Dev :=
  let (slot, pool) := d.regionPool.got
  let d := ({ d with regionPool := pool }).liveAgain n .region s.handle slot
  let r : Region :=
    { st := .live, kind := BitVec.ofNat 2 s.kind, thread := n, index := hIndex s.handle, gen := hGen s.handle, base := s.base, log2 := s.log,
      dma := BitVec.ofNat 2 (fld s.rights 0 2), dbg := BitVec.ofNat 2 (fld s.rights 2 2) }
  if s.kind = 2 then d.setReg slot r
  else if s.carried then
    let k := (d.liveSlot n .key s.exportKey).getD 0
    (d.setReg slot { r with keySlot := k, loaded := (d.slot k).key, epoch := s.epoch, exportKey := some (BitVec.ofNat 16 s.exportKey), exSlot := k, exLoaded := (d.slot k).key,
                            exportLocked := true, exportedPages := 2 ^ s.log / 8192, importing := true }).freshRange s.base s.log
  else match d.takeSlot n slot r.gen Purpose.regn with
    | none => d
    | some (k, d) =>
      let key := d.drawn (regionLabel (some n) slot (s.epoch + 1))
      let d := d.drew.fillRegionKey k slot n r.gen 0 (s.epoch + 1) key
      (d.setReg slot { r with keySlot := k, loaded := key, epoch := s.epoch + 1 }).freshRange s.base s.log

/-- The thread section is restored. -/
def Thread.restored (t : Thread) (b : Bytes) : Thread :=
  let rows := (List.range 256).foldl (fun m i => tset m 0 i (BitVec.ofNat 128 (leAt b (64 + 16 * i) 16))) []
  { t with
    rows := rows, issueRow := leAt b 0 1, retireRow := leAt b 0 1, halted := bitOf (leAt b 2 1) 0, haltRow := leAt b 3 1,
    cookie := BitVec.ofNat 32 (leAt b 4 4), flights := [], halting := none,
    fifo := (List.range (min 64 (leAt b 1 1))).map fun i => BitVec.ofNat 128 (leAt b (4160 + 16 * i) 16) }

/-- Everything of a blob in one pass; the restored bit of NOTICE; the step is done. -/
def Dev.restoreAll (d : Dev) (thread row n r : Nat) (body : Bytes) (keys : List SavedKey) (regs : List SavedRegion) : Dev :=
  let d := forEach keys (fun k d => d.restoreKey n k) d
  let d := forEach regs (fun g d => d.restoreRegion n g) d
  let d := d.onTh n fun t => t.restored body
  let d := d.onPart n fun p =>
    { p with
      measure := (List.range 8).foldl (fun m i => tset m 0 i (bytesDigest (slice body (5184 + 48 * i) 48))) [],
      keptFor := BitVec.ofNat 64 (leAt body 5568 8), sumFloor := leAt body 5576 8, multicast := leAt body 5584 8, txFloor := leAt body 5592 8,
      restoreCount := r }
  (d.notice n 5).finish thread row Status.done

/-- A read of a blob has completed: the header says how long the whole is, then tag and contents are judged. A read that fails
brings no bytes. -/
def Dev.blobRead (d : Dev) (thread row : Nat) (data : Bytes) (whole : Bool) : Dev :=
  match d.flight thread row with
  | none => d
  | some x =>
    let s := Step.of x.step
    let n := x.slot
    match x.bSlot with
    | none => d
    | some b =>
      if !d.blobHeadOk n (peerOf x.consent) data then d.finish thread row Status.unwrapFail
      else if !whole then d.hostStart false (d.hostInst thread) s.d (leAt data 8 4) [] (.restore thread row)
      else
        let k := leAt data 22 2
        let g := leAt data 24 2
        let key := blobKey (d.slot b).key (leAt data 12 2) (leAt data 14 1) d.hall.node.toNat n (leAt data 20 2)
        match gcmOpen key blobIv (slice data 0 48) (data.drop 64) (slice data 48 16) with
        | none => d.finish thread row Status.tagFail
        | some body =>
          let keys := savedKeys body k
          let regs := savedRegions body k g
          if (d.part n).st ≠ .frozen || !d.blobFits n s.b keys regs then d.finish thread row Status.denied
          else if !d.canDraws (regs.filter fun r => r.kind ≠ 2 && !r.carried).length then
            (d.drawLater (.restore thread row data)).awaitDrbg thread row
          else d.restoreAll thread row n (leAt data 20 2) body keys regs

end Sys2Proof.Machine
end

