-- ==== Sys2Proof/Machine/HostSide.lean ====
section
/-! DEFINITION. The host-path stream's inbound side (R344, R348, R493): read and write completions, translations, invalidations, a
DOE abort. -/

namespace Sys2Proof.Machine

/-- The partition on whose account a request runs, one of a page record, an export record or a report (R411). -/
def HostReq.part (r : HostReq) : Option Nat :=
  match r.use with
  | .policy _ _ => none
  | _ => if r.inst = 0 then none else some (r.inst - 1)

/-- Bytes that a completed request moved (R411, R415). -/
def Dev.hostBytes (d : Dev) (r : HostReq) : Dev :=
  let d := match r.part with
    | some n => d.addCount n 5 r.length
    | none => d
  d.addGlobal (if r.write then 324 else 325) r.length

/-- The issued request of a tag and direction. -/
def Dev.hostReq (d : Dev) (tag : Nat) (write : Bool) : Option HostReq :=
  d.host.reqs.find? fun r => r.tag = tag && r.write = write && r.issued

def Dev.hostDrop (d : Dev) (tag : Nat) : Dev := d.onHost fun h => { h with reqs := h.reqs.filter fun r => r.tag ≠ tag }

/-- Change the parked operations of an engine that a condition picks. -/
def Dev.wake (d : Dev) (p : MemOp → Bool) (f : MemOp → MemOp) : Dev :=
  forBelow (Kind.engines d.kind) (fun m d => d.onEng m fun e =>
    { e with ops := e.ops.map fun op => if op.parkedOp && p op then { f op with parkedOp := false } else op }) d

/-- The line of the page that a record of an import job carries (R382). -/
def Dev.importAddr (d : Dev) (i : Nat) (r : HostReq) : Nat :=
  let g := d.reg (d.job i).target
  g.base / 128 + 64 * ((r.addr - (d.th g.thread).exportBase.toNat) / recordBytes)

/-- What a read's data does. Data of a read that failed are no bytes. -/
def Dev.hostData (d : Dev) (r : HostReq) (ok : Bool) (data : Bytes) : Dev :=
  match r.use with
  | .policy t w => d.policyRead t w ok data
  | .image o => d.imageRead o ok data
  | .restore t w => d.blobRead t w data (r.length ≠ 64)
  | .pageIn t w s => d.wake (fun op => op.origin = .row t w) fun op => { op with act := .pageIn s data 1 }
  | .importRecord i _ => d.wake (fun op => op.origin = .job i && op.addr = d.importAddr i r) fun op => { op with act := .convert (some data) }
  | _ => d

/-- `MEM_CPL`: a read's data, or its failure. -/
def Dev.memCpl (d : Dev) (tag : Nat) (ok : Bool) (payload : Bytes) : Dev :=
  match d.hostReq tag false with
  | none => d
  | some r =>
    let d := (d.hostDrop tag).hostBytes r
    d.hostData r ok (if ok then padTo r.length payload else [])

/-- `HOST_WRITE_COMPLETE`. -/
def Dev.hostWritten (d : Dev) (tag : Nat) : Dev :=
  match d.hostReq tag true with
  | none => d
  | some r =>
    let d := (d.hostDrop tag).hostBytes r
    match r.use with
    | .attest t w => d.finish t w Status.done
    | .save t w p tag => d.saveWritten t w p tag
    | .pageOut t w _ _ => d.wake (fun op => op.origin = .row t w) id
    | .exportRecord _ => d.onHost fun h => { h with pagesOut := sat 32 (h.pagesOut + 1) }
    | .attic => d.onAttic fun a => { a with blocks := a.blocks + 1 }
    | _ => d

/-- Put a translation into the lookup cache, which holds 256 (R348). -/
def HostPath.cache (h : HostPath) (page : Nat) : HostPath :=
  { h with xlat := h.xlat.filter (· ≠ page),
           lookup := if h.lookup.contains page then h.lookup else h.lookup.drop (h.lookup.length - 255) ++ [page] }

/-- `XLAT_CPL`: the translation serves the requests that waited; where there is none, the reads that need it fail and the writes
stay unissued. -/
def Dev.xlatCpl (d : Dev) (page : Nat) (ok : Bool) : Dev :=
  if !d.host.xlat.contains page then d
  else if ok then (d.onHost fun h => h.cache page).hostIssue
  else
    let hit (r : HostReq) : Bool := !r.issued && !r.write && (hostPages r.addr r.length).contains page
    let lost := d.host.reqs.filter hit
    let d := d.onHost fun h => { h with reqs := h.reqs.filter fun r => !hit r }
    let d := if d.host.reqs.any fun r => !r.issued && (hostPages r.addr r.length).contains page then d
      else d.onHost fun h => { h with xlat := h.xlat.filter (· ≠ page) }
    forEach lost (fun r d => d.hostData r false []) d

/-- `INVAL`: no new use of the page's entry begins; while the block does not serve no use is outstanding, and the completion is sent at
once (R348, R507). -/
def Dev.inval (d : Dev) (page : Nat) : Dev :=
  if d.reset.frozen then d
  else if !d.ready then d.emit (.host 0x0A 0 0 (page * 4096) [])
  else d.onHost fun h => if h.invalidating.contains page then h else { h with invalidating := h.invalidating ++ [page] }

/-- A request issued under the page's old translation is under way. -/
def Dev.pageInUse (d : Dev) (page : Nat) : Bool := d.host.reqs.any fun r => r.issued && (hostPages r.addr r.length).contains page

/-- `INVAL_DONE`: the entries go, the completion is sent, waiting uses ask anew. -/
def Dev.invalDone (d : Dev) (page : Nat) : Dev :=
  if !d.host.invalidating.contains page || d.pageInUse page then d
  else
    let d := d.onHost fun h =>
      { h with lookup := h.lookup.filter (· ≠ page), invalidating := h.invalidating.filter (· ≠ page), invals := sat 32 (h.invals + 1) }
    (d.emit (.host 0x0A 0 0 (page * 4096) [])).hostIssue

/-- A wait for the DRBG after its mailbox was aborted: an SPDM answer is no longer wanted, a bind goes on unanswered. -/
def DrawReq.aborted (at_ : SpdmPort) (r : DrawReq) : Option DrawReq :=
  match r with
  | .challenge p _ _ | .keyExchange p _ _ => if p = at_ then none else some r
  | .bind n _ => if at_ = .interface n then some (.bind n true) else some r
  | _ => some r

/-- `DOE_ABORT`: no answer leaves to the aborted object (R493). The objects whose answer can still wait are those that wait for the
DRBG, and at the physical function an IDE_KM request whose key-port operation is under way: that operation goes on, unanswered. The
management port has no mailbox. -/
def Dev.doeAbort (d : Dev) (at_ : SpdmPort) : Dev :=
  match at_ with
  | .management => d
  | .interface _ => { d with drawWait := d.drawWait.filterMap (DrawReq.aborted at_) }
  | .physical =>
    let d := { d with drawWait := d.drawWait.filterMap (DrawReq.aborted at_) }
    d.onHost fun h => { h with ide := h.ide.map fun o => { o with own := true } }

end Sys2Proof.Machine
end

