-- ==== Sys2Proof/Machine/Counters.lean ====
section
/-! DEFINITION. Snapshots of the counters (R412 to R416) and the Attic's ring, export and readers (R417 to R421). -/

namespace Sys2Proof.Machine

/-! ## SNAP (R413, R414, R416) -/

/-- `SNAP` waits after dispatch, behind one of the thread that has still to latch. -/
def Dev.snap (d : Dev) (thread row : Nat) (_x : Flight) : Dev :=
  if (d.th thread).snapWait.isSome then d else
  (d.onTh thread fun t => { t with snapWait := some row }).working thread row

/-- Copy a partition's 16 live counters; with step_reset they start again, and the completed values stand for samples taken in the
latch cc. -/
def Part.latch (p : Part) (now : Nat) : Part :=
  { p with
    snap := p.counts, snaps := (p.snaps + 1) % 2 ^ 32, snapTime := now, snapReset := p.stepReset,
    counts := if p.stepReset then [] else p.counts, latched := if p.stepReset then some (now, p.counts) else none }

/-- A live counter as a sample sees it, and whether the sample met the latch cc of a step reset (R414). -/
def Part.sample (p : Part) (now k : Nat) : Nat × Bool :=
  match p.latched with
  | some (t, c) => if t = now then (tget c 0 k, true) else (tget p.counts 0 k, false)
  | none => (tget p.counts 0 k, false)

/-- A manager snapshot: every global counter and every partition's; two in one cc are one (R416). -/
def Dev.latchAll (d : Dev) : Dev :=
  if d.count.snaps ≠ 0 && d.count.time = d.time then d
  else
    let closed (n : Nat) : Bool := match (d.part n).latched with
      | some (t, _) => t = d.time
      | none => false
    let ps := (List.range d.nparts).foldl (fun m n =>
      (List.range 16).foldl (fun m k => tset m 0 (16 * n + k) ((d.part n).sample d.time k).1) m) []
    let r := ((List.range d.nparts).filter closed).foldl (fun a n => a + 2 ^ n) 0
    d.onCount fun c =>
      { c with globalSnap := c.global, partSnap := ps, snaps := (c.snaps + 1) % 2 ^ 32, time := d.time, rolled := BitVec.ofNat 32 r }

/-- The latch of a waiting `SNAP`; with order set it waits until every earlier row has retired. -/
def Dev.snapLatch (d : Dev) (thread : Nat) : Dev :=
  if !d.ready then d
  else match (d.th thread).snapWait with
    | none => d
    | some row =>
      match d.flight thread row with
      | none => d.onTh thread fun t => { t with snapWait := none }
      | some x =>
        let first := (d.th thread).flights.head?.any fun y => y.row = row
        if x.stage ≠ .running || ((Step.of x.step).order && !first) then d
        else
          let d := d.onTh thread fun t => { t with snapWait := none }
          let d := if thread = d.mgr then d.latchAll else d.onPart thread fun p => p.latch d.time
          d.finish thread row Status.done

/-- A read of PORCH.COUNT[k]: one that returns a completed value sets the counter's rolled bit. -/
def Dev.countRead (d : Dev) (n k : Nat) : Word × Dev :=
  let (v, r) := (d.part n).sample d.time k
  (BitVec.ofNat 64 v, if r then d.onPart n fun p => { p with rolled := p.rolled ||| oneBit 16 k } else d)

/-! ## The Attic (R417 to R421) -/

/-- `TRACE`: a marker record. -/
def Dev.trace (d : Dev) (thread row : Nat) (x : Flight) : Dev :=
  let s := Step.of x.step
  (d.atticPut 8 thread row Status.done (fld s.d 0 32) 0 0 x.dispatchedAt).finish thread row Status.done

/-- The record at the head of the queue takes the next global sequence and its place in the ring. -/
def Dev.atticWrite (d : Dev) : Dev :=
  match d.attic.queue with
  | [] => d
  | r :: rest =>
    if d.attic.ctrl.getLsbD 1 || !d.powered 3 then d
    else
      let g := d.attic.head
      (d.onAttic fun a => { a with queue := rest, ring := tput a.ring (g % 65536) { r with g := g }, head := g + 1 }).addGlobal 330 1

/-- The bytes of a block of 128 records. -/
def Attic.block (a : Attic) (j : Nat) : Bytes :=
  (List.range 128).flatMap fun i => natLe 32 (tget a.ring {} ((128 * j + i) % 65536)).bits.toNat

/-- The next complete block goes to host memory as the physical function's; blocks overwritten before are skipped and counted. -/
def Dev.atticExport (d : Dev) : Dev :=
  let a := d.attic
  if !d.ready || !a.ctrl.getLsbD 2 || !d.powered 3 then d
  else
    let first := (a.head - 65536 + 127) / 128
    let gone := first - a.nextBlock
    let j := a.nextBlock + gone
    let d := d.onAttic fun a => { a with nextBlock := j, skipped := sat 32 (a.skipped + gone) }
    if a.head < 128 * (j + 1) then d
    else
      (d.onAttic fun a => { a with nextBlock := j + 1 }).hostStart true 0 (a.base.toNat + 4096 * (j % 2 ^ a.size)) 4096 (a.block j) .attic

/-- A LOST record with a sequence as its key (R418). -/
def lostRecord (key : Nat) : BitVec 256 := BitVec.ofNat 256 (0xFF * 2 ^ 64 + key % 2 ^ 32 * 2 ^ 96)

/-- What the cursor of a partition selects among its own records of the current numbering (R419, R420). -/
def Dev.atticOwn (d : Dev) (n : Nat) : BitVec 256 :=
  let t := d.th n
  let own := (d.attic.ring.filter fun e => e.2.thread = n && e.2.numbering = t.atticFirst).map (·.2)
  match own.find? fun r => r.own = t.atticCursor with
  | some r => r.bits
  | none =>
    if t.atticNext ≤ t.atticCursor || d.attic.queue.any fun r => r.thread = n && r.numbering = t.atticFirst && r.own = t.atticCursor then 0
    else
      -- the oldest own record still held, in the ring or on its way there; with none held, the next number
      let coming := d.attic.queue.filter fun r => r.thread = n && r.numbering = t.atticFirst
      lostRecord (((own ++ coming).map (·.own)).foldl min t.atticNext)

/-- What the manager's cursor selects (R420). -/
def Dev.atticAny (d : Dev) : BitVec 256 :=
  let a := d.attic
  if a.head ≤ a.cursor then 0
  else
    let r := tget a.ring {} (a.cursor % 65536)
    if r.g = a.cursor && r.bits ≠ 0 then r.bits
    else lostRecord ((a.ring.map fun e => e.2.g).foldl min a.head)

/-- Kind of a record. -/
def recKind (r : BitVec 256) : Nat := fld r.toNat 64 8

/-- The cursor after a read of word 3 of a latched record (R420). -/
def cursorAfter (cursor : Nat) (r : BitVec 256) : Nat :=
  if recKind r = 0 then cursor else if recKind r = 0xFF then fld r.toNat 96 32 else cursor + 1

/-- The record latched for a requester. -/
def Dev.latchedRec (d : Dev) (req : Nat) : BitVec 256 := tget d.attic.latch 0 req

/-- A read of word w of a record through a Porch, or through ATTIC where no thread is named: word 0 latches, word 3 advances. -/
def Dev.recRead (d : Dev) (thread : Option Nat) (req w : Nat) : Word × Dev :=
  let d := if w = 0 then
      let r := match thread with
        | some n => d.atticOwn n
        | none => d.atticAny
      d.onAttic fun a => { a with latch := tset a.latch 0 req r }
    else d
  let r := d.latchedRec req
  let v : Word := BitVec.ofNat 64 (fld r.toNat (64 * w) 64)
  let d := if w = 3 then
      match thread with
      | some n => d.onTh n fun t => { t with atticCursor := cursorAfter t.atticCursor r % 2 ^ 32 }
      | none => d.onAttic fun a => { a with cursor := cursorAfter a.cursor r % 2 ^ 64 }
    else d
  (v, d)

end Sys2Proof.Machine
end

