-- ==== Sys2Proof/Machine/Interrupts.lean ====
section
/-! DEFINITION. The interrupt controller (R427 to R440): inputs, delivery, ends of interrupt, masks, pending bits, targets. -/

namespace Sys2Proof.Machine

/-! ## Inputs (R429, R435, R436) -/

/-- A filtered active edge of an integrator input that is an edge source. -/
def Dev.externalEdge (d : Dev) (s : Nat) : Dev := if decide (132 ≤ s) && !d.intc.isLevel s then d.edge s else d

/-- The seal line changes: its fall opens the seal, its rise closes the seal's input (R391). -/
def Dev.sealLine (d : Dev) (low : Bool) : Dev :=
  if !low then (d.onVault fun v => { v with sealOpen := false }).level 131 false
  else if d.vault.sealOpen then d
  else d.sealFell

/-- The level of an external input changes: the presence line's and the seal line's do what those lines do (R116, R391, R427). -/
def Dev.levelInput (d : Dev) (s : Nat) (active : Bool) : Dev :=
  if s < 128 then d
  else if s = 129 then (if active then d.press else d.letGo)
  else if s = 130 || s = 131 then d.sealLine active
  else d.level s active

/-- A new 1 ms interval of the storm guard. -/
def Dev.stormEnd (d : Dev) : Dev := d.onIntc fun c => { c with edges := [], interval := d.time / 1000000 }

/-- An external level source active for STUCK_TIME is guarded. -/
def Dev.stuck (d : Dev) (s : Nat) : Dev :=
  let since := tget d.intc.activeSince 0 s
  if decide (128 ≤ s) && d.intc.isLevel s && since ≠ 0 && decide (since - 1 + d.intc.stuckTime * 1000000 ≤ d.time) then
    (d.guardTrips s).onIntc fun c =>
      { c with stuckTrips := sat 16 (c.stuckTrips + 1), activeSince := tset c.activeSince 0 s (d.time + 1) }
  else d

/-! ## Delivery (R432, R433) -/

/-- Targets (R431). -/
def targets : Nat := 8

/-- A target's mode: MESSAGE or MANUAL (R439). -/
def Intc.message (c : Intc) (t : Nat) : Bool := (tget c.tgtCtrl 0 t).getLsbD 0

/-- A source is a candidate of a target at edge e: pending at the edge before, unmasked, enabled, locked to it. -/
def Intc.candidate (c : Intc) (k : Kind) (t e s : Nat) : Bool :=
  let r := tget c.target 0 s
  srcPresent k s && c.pend.getLsbD s && decide (tget c.pendAt 0 s + 10 ≤ e) && !c.mask.getLsbD s && r.getLsbD 7 && r.getLsbD 3 && fld r.toNat 0 3 = t

/-- A target is free to select at edge e: it serves nothing, and an end of interrupt was sampled before e. -/
def Intc.freeAt (c : Intc) (t e : Nat) : Bool := tget c.serving 0 t = 0 && decide (tget c.freeing 0 t ≤ e)

/-- A target selects the lowest candidate: it enters service, an edge source's pending bit clears, the output presents it. -/
def Dev.deliver1 (d : Dev) (e t : Nat) : Dev :=
  let c := d.intc
  if !c.freeAt t e then d
  else match findBelow 256 fun s => c.candidate d.kind t e s with
    | none => d
    | some s =>
      let d := d.onIntc fun c =>
        { c with serving := tset c.serving 0 t (s + 1), freeing := tset c.freeing 0 t 0,
                 pend := if c.isLevel s then c.pend else c.pend &&& ~~~(oneBit 256 s) }
      (d.emit (.irq t s true)).addGlobal 329 1

/-- A reference edge: every free target selects. -/
def Dev.delivery (d : Dev) : Dev := forBelow targets (fun t d => d.deliver1 (d.time / 10 * 10) t) d

/-! ## Ends of interrupt (R431, R433) -/

/-- The service of a target ends: the next reference edge samples it. -/
def Dev.endService (d : Dev) (t : Nat) : Dev :=
  let s := tget d.intc.serving 0 t - 1
  (d.onIntc fun c => { c with freeing := tset c.freeing 0 t ((d.time / 10 + 1) * 10 + 1) }).emit (.irq t s false)

/-- A target is in service and its end of interrupt has not been given. -/
def Intc.inService (c : Intc) (t : Nat) : Bool := tget c.serving 0 t ≠ 0 && tget c.freeing 0 t = 0

/-- A write of INTC.EOI[t]. -/
def Dev.eoi (d : Dev) (t : Nat) (v : Word) : Dev :=
  if d.intc.message t then d
  else if d.intc.inService t && tget d.intc.serving 0 t = fld v.toNat 0 8 + 1 then d.endService t
  else d.onIntc fun c => { c with eoiMismatch := sat 16 (c.eoiMismatch + 1) }

/-- The host chip acknowledges a MESSAGE target. -/
def Dev.irqAck (d : Dev) (t : Nat) : Dev := if d.intc.message t && d.intc.inService t then d.endService t else d

/-! ## Registers (R429, R430, R439, R440) -/

/-- Word w of a 256-bit register with the bits of v, and nothing elsewhere. -/
def wordBits (w : Nat) (v : Word) : BitVec 256 := (v.setWidth 256) <<< (64 * w)

/-- The sources that exist. -/
def presentBits (k : Kind) : BitVec 256 :=
  BitVec.ofNat 256 ((List.range 256).foldl (fun a s => if srcPresent k s then a + 2 ^ s else a) 0)

/-- The level sources. -/
def Intc.levelBits (c : Intc) : BitVec 256 :=
  BitVec.ofNat 256 ((List.range 256).foldl (fun a s => if c.isLevel s then a + 2 ^ s else a) 0)

def Dev.maskSet (d : Dev) (w : Nat) (v : Word) : Dev := d.onIntc fun c => { c with mask := c.mask ||| wordBits w v }
def Dev.maskClr (d : Dev) (w : Nat) (v : Word) : Dev := d.onIntc fun c => { c with mask := c.mask &&& ~~~(wordBits w v) }

/-- Software pends edge sources. -/
def Dev.pendSet (d : Dev) (w : Nat) (v : Word) : Dev :=
  (List.range 64).foldl (fun d i =>
    if v.getLsbD i && srcPresent d.kind (64 * w + i) && !d.intc.isLevel (64 * w + i) then
      d.onIntc fun c => c.pendAtTime (64 * w + i) d.time
    else d) d

/-- Software clears edge sources' pending bits. -/
def Dev.pendClr (d : Dev) (w : Nat) (v : Word) : Dev :=
  d.onIntc fun c => { c with pend := c.pend &&& ~~~(wordBits w v &&& ~~~c.levelBits) }

/-- A write to a register that is locked is ignored and counted. -/
def Dev.lockedWrite (d : Dev) : Dev := d.onIntc fun c => { c with lockedWrites := sat 16 (c.lockedWrites + 1) }

/-- The first write of INTC.TARGET[s] stores the fields the source has and locks them. -/
def Dev.targetWrite (d : Dev) (s : Nat) (v : Word) : Dev :=
  if !srcPresent d.kind s || decide (256 ≤ s) then d
  else if (tget d.intc.target 0 s).getLsbD 7 then d.lockedWrite
  else
    let keep : Nat := if s < 128 then 0x0F else if s < 132 then 0x2F else 0x3F
    let r : BitVec 8 := (BitVec.ofNat 8 v.toNat &&& BitVec.ofNat 8 keep) ||| 0x80
    let d := d.onIntc fun c => { c with target := tset c.target 0 s r }
    if decide (132 ≤ s) && r.getLsbD 4 then d.level s (d.intc.raw.getLsbD s) else d

/-- INTC.TARGET[s] as read: the kind of sources 0 to 131 is built (R440). -/
def Intc.targetWord (c : Intc) (k : Kind) (s : Nat) : Word :=
  if !srcPresent k s then 0
  else ((tget c.target 0 s).setWidth 64) ||| (if s = 129 ∨ s = 131 then 0x10 else 0)

/-- The first write of INTC.TGT_CTRL[t] sets and locks the mode. -/
def Dev.tgtCtrlWrite (d : Dev) (t : Nat) (v : Word) : Dev :=
  if (tget d.intc.tgtCtrl 0 t).getLsbD 7 then d.lockedWrite
  else d.onIntc fun c => { c with tgtCtrl := tset c.tgtCtrl 0 t ((BitVec.ofNat 8 v.toNat &&& 0x01) ||| 0x80) }

/-- INTC.RAW: levels of level sources, latched state of edge sources. -/
def Intc.rawBits (c : Intc) : BitVec 256 := (c.raw &&& c.levelBits) ||| (c.pend &&& ~~~c.levelBits)

end Sys2Proof.Machine
end

