-- ==== Sys2Proof/Machine/Errors.lean ====
section
/-! DEFINITION. Watchdogs (R446, R447), self-test and sparing (R170, R279, R458, R459, R461), reset requests (R466) and the
Cellar's window (R467, R468). -/

namespace Sys2Proof.Machine

/-! ## Heartbeats (R446) -/

/-- The power domain of an island by its code (R460, R469); none for a code no island of the configuration has. -/
def islandDomain (k : Kind) (i : Nat) : Option Nat :=
  if i < 7 then some i
  else if 0x10 ≤ i ∧ i < 0x10 + Kind.engines k then some (8 + (i - 0x10))
  else if 0x40 ≤ i ∧ i < 0x40 + Kind.ports k / 4 then some (8 + Kind.engines k + (i - 0x40))
  else none

/-- An engine of an island that is on has sent no heartbeat for HEARTBEAT_LIMIT. -/
def Dev.heartbeatMiss (d : Dev) (island : Nat) : Dev :=
  match islandDomain d.kind island with
  | none => d
  | some dom => if d.powered dom then ((d.raise 2).critical 0x01 island 0).restart else d

/-! ## Job stalls (R402, R447) -/

/-- The record of a stalled job. -/
def Dev.stallRecord (d : Dev) (action thread target passed object island : Nat) : Dev :=
  d.record 0x02 action Status.hang.toNat (some thread) (if thread < d.nparts then some thread else none) island object
    (target + passed % 2 ^ 32 * 2 ^ 32)

/-- A stalled REKEY posts HANG to its issuer, once, and goes on as one Kerre started; a stalled Sweep goes on. -/
def Dev.restartJob (d : Dev) (i : Nat) : Dev :=
  let j := d.job i
  let d := d.withdrawOps fun op => op.origin = .job i
  let d := d.onHost fun h => { h with reqs := h.reqs.filter fun r => match r.use with
    | .importRecord k _ => k ≠ i
    | _ => true }
  if j.kind = .sweep then d.setJob i { j with stalled := true, lastReport := d.time }
  else
    let d := if j.silent then d else d.jobEvent j.thread j.row 0x24 Status.hang j.cookie
    d.setJob i { j with stalled := true, silent := true, firmware := true, thread := 0xFF, lastReport := d.time }

/-- A job waits for energy-budget tokens: no engine works for it, and the balance does not reach its unit's cost. It reports meanwhile
(R447). -/
def Dev.starved (d : Dev) (i : Nat) : Bool :=
  let j := d.job i
  (j.st = .queued || j.st = .running) && !j.urgent && !d.power.unlimited
    && decide (d.power.tokens < (if j.kind = .rekey then d.pageCost else d.chunkCost))
    && !d.jobOps i

/-- A job without a report for 3 ms: index 64 is the running load. A restarted job that stalls again is an engine hang. -/
def Dev.jobStall (d : Dev) (i : Nat) : Dev :=
  if !d.ready then d
  else if i = 64 then
    match d.vault.loads with
    | l :: _ =>
      if d.vault.loadRunning then ((d.raise 2).stallRecord 1 l.thread l.region d.vault.shardNext 0 0x04).loadStall else d
    | [] => d
  else
    let j := d.job i
    if j.st = .free || decide (d.time < j.lastReport + 3000000) || d.starved i then d
    else if j.stalled then (d.raise 2).critical 0x01 0x02 0
    else ((d.raise 2).stallRecord 2 j.thread j.target j.passed i 0x02).restartJob i

/-! ## Checks inside Kerre (R271, R296, R324, R443, R444) -/

/-- A parity or code failure inside an island on a path (0 memory, 1 port receive, 2 port transmit, 3 other): source 3, a Cellar record with
the island's failures of the last 1 s; the fourth of them is block-critical error 0x05 (R324, R427, R444, R461). -/
def Dev.internalCheck (d : Dev) (island path : Nat) : Dev :=
  let times := ((tget d.cellar.checkTimes [] island).filter fun t => decide (d.time ≤ t + 1000000000)) ++ [d.time]
  let d := ((d.raise 3).onCellar fun c => { c with checks := sat 32 (c.checks + 1), checkTimes := tset c.checkTimes [] island times }).record
    0x04 0 0 none none island path times.length
  if 4 ≤ times.length then d.critical 0x05 island 0 else d

/-- State that only partition n holds is lost to the code: an internal-check error of the control island and a partition reset (R324,
R443, R457). -/
def Dev.partLost (d : Dev) (n : Nat) : Dev :=
  let g := d.cellar.head
  let d := d.internalCheck 0 3
  if d.reset.frozen then d
  else if d.reset.status = 2 then d.critical 0x04 0 0
  else if (d.part n).st = .resetting then d.criticalRec 0x14 0 0 ((d.part n).resetRecord.getD 0xFFFFFFFF)
  else (d.raise (48 + n)).resetPart n 3 (some g)

/-- What a check inside Kerre finds. A corrected symbol is counted and no more (R271); a granule of a Pantry line is lost until the line is
used (R295, R514); a copy of a node or root register fails at its next use (R296); a failure on a data path discards what passes there
next (R324). -/
def Dev.upset (d : Dev) (u : Upset) : Dev :=
  match u with
  | .symbol m => d.onEng m fun e => { e with corrected := sat 32 (e.corrected + 1) }
  | .granule m line g =>
    if ((d.eng m).entry line).isNone then d
    else (d.onEng m fun e =>
      { e with pantry := e.pantry.map fun x => if x.line = line then { x with bad := x.bad ||| ((1 : BitVec 4) <<< g) } else x }).internalCheck
        (islandEng m) 0
  | .copy m level2 shadow i => d.onEng m fun e => { e with faults := e.faults ++ [{ level2 := level2, index := i, shadow := shadow }] }
  | .memory m => (d.onEng m fun e => { e with spoiled := true }).internalCheck (islandEng m) 0
  | .receive p => (d.onPort p fun x => { x with rxSpoiled := true }).internalCheck (islandPort p) 1
  | .transmit p => (d.onPort p fun x => { x with txSpoiled := true }).internalCheck (islandPort p) 2
  | .other i => d.internalCheck i.toNat 3
  | .partition n => d.partLost n
  | .manager => d.critical 0x0B 0 0
  | .store code i => d.critical 0x0A 0 (code.toNat + i % 2 ^ 24 * 2 ^ 8)

/-! ## Self-test and sparing (R458, R459) -/

/-- A unit has been mapped out: source 6 and its record, 0x0E where a spare took its place, 0x0F where none was left. `left` is the
spares left, or the units left in service. -/
def Dev.mappedOut (d : Dev) (spared : Bool) (island unit kind left : Nat) : Dev :=
  (d.raise 6).record (if spared then 0x0E else 0x0F) (if spared then 6 else 7) 0 none none island (unit + kind * 2 ^ 8)
    (if spared then left % 256 else left % 65536)

/-- The ports of a port's group. -/
def groupPorts (p : Nat) : List Nat := (List.range 4).map fun i => p / 4 * 4 + i

def Port.lanesOf (x : Port) (tx : Bool) : BitVec 9 := if tx then x.txLanes else x.rxLanes
def Port.spareOf (x : Port) (tx : Bool) : Bool := if tx then x.txSpare else x.rxSpare

/-- A port direction with its lanes and its spare. -/
def Port.withLanes (x : Port) (tx : Bool) (lanes : BitVec 9) (spare : Bool) : Port :=
  if tx then { x with txLanes := lanes, txSpare := spare } else { x with rxLanes := lanes, rxSpare := spare }

/-- A lane of a port's direction is mapped out (R170): the spare takes its place, or the direction runs on fewer. An idle spare that
fails is one spare less. -/
def Dev.portLaneOut (d : Dev) (tx : Bool) (p lane : Nat) : Dev :=
  let x := d.port p
  let lanes := x.lanesOf tx
  let kind := if tx then 1 else 2
  let unit := 9 * (p % 4) + lane
  let without := lanes &&& ~~~((1 : BitVec 9) <<< lane)
  let spares (d : Dev) := ((groupPorts p).filter fun q => (d.port q).spareOf tx).length
  let inUse (d : Dev) := ((groupPorts p).map fun q => popcount 9 ((d.port q).lanesOf tx).toNat).foldl (· + ·) 0
  if lanes.getLsbD lane then
    if x.spareOf tx then
      let d := d.onPort p fun x => x.withLanes tx (without ||| oneBit 9 8) false
      d.mappedOut true (islandPort p) unit kind (spares d)
    else
      let d := (d.onPort p fun x => { x.withLanes tx without false with degraded := true }).raise (96 + p)
      d.mappedOut false (islandPort p) unit kind (inUse d)
  else if lane = 8 && x.spareOf tx then
    let d := d.onPort p fun x => x.withLanes tx lanes false
    d.mappedOut false (islandPort p) unit kind (inUse d)
  else d

/-- A memory lane is mapped out. -/
def Dev.memLaneOut (d : Dev) (m lane : Nat) : Dev :=
  let e := d.eng m
  if e.sparesLeft ≠ 0 then
    ((d.onEng m fun e => { e with sparesLeft := e.sparesLeft - 1 }).raise (84 + m)).mappedOut true (islandEng m) lane 3
      (e.sparesLeft.toNat - 1)
  else if e.lanes = 0 then d
  else (d.onEng m fun e => { e with lanes := e.lanes - 1 }).mappedOut false (islandEng m) lane 3 (e.lanes.toNat - 1)

/-- A Pantry way is mapped out: a spare takes its place, or it leaves service once its entries are written back (R279, R298). -/
def Dev.wayOut (d : Dev) (m way : Nat) : Dev :=
  let e := d.eng m
  let left := e.workingWays.toNat - e.leavingWays
  if e.spareWays ≠ 0 then
    (d.onEng m fun e => { e with spareWays := e.spareWays - 1 }).mappedOut true (islandEng m) way 4 (e.spareWays.toNat - 1)
  else if left = 0 then d
  else
    ((d.enqueue m { origin := .engine, act := .wayOut way, addr := d.pageLine m 0, part := d.mgr, region := 0 }).mappedOut false (islandEng m)
      way 4 (left - 1)).pump

/-- Shared lanes of an island (R469). -/
def sharedLanes (k : Kind) (island : Nat) : Nat :=
  match k, island with
  | .k8, 0x05 => 2
  | .k8, 0x04 | .k8, 0x00 => 1
  | _, 0x05 | _, 0x04 => 8
  | _, 0x00 => 4
  | _, _ => 0

/-- A shared lane is mapped out: no spare stands for it. -/
def Dev.sharedOut (d : Dev) (island lane : Nat) : Dev :=
  let n := tget d.power.sharedLost 0 island
  let all := sharedLanes d.kind island
  if all ≤ n then d
  else (d.onPower fun p => { p with sharedLost := tset p.sharedLost 0 island (n + 1) }).mappedOut false island lane 5 (all - n - 1)

/-- What an upset names exists. -/
def upsetPresent (k : Kind) (u : Upset) : Bool := match u with
  | .symbol m | .memory m => decide (m < Kind.engines k)
  | .granule m line g => decide (m < Kind.engines k) && decide (line < 2 ^ 30) && decide (g < 4)
  | .copy m level2 _ i => decide (m < Kind.engines k) && decide (i < if level2 then 3072 else 48)
  | .receive p | .transmit p => decide (p < Kind.ports k)
  | .other i => (islandDomain k i.toNat).isSome
  | .partition n => decide (n < Kind.parts k)
  | .manager => true
  | .store code i => decide (1 ≤ code.toNat) && decide (code.toNat ≤ 8) && decide (i < 2 ^ 24)

/-- A unit exists. -/
def unitPresent (k : Kind) (u : TestUnit) : Bool := match u with
  | .portTx p l | .portRx p l => decide (p < Kind.ports k) && decide (l < 8 + Kind.portSpares k)
  | .memLane m l => decide (m < Kind.engines k) && decide (l < 60 + Kind.memSpares k)
  | .pantryWay m w => decide (m < Kind.engines k) && decide (w < 32)
  | .sharedLane i l => decide (l < sharedLanes k i.toNat)
  | .upset u => upsetPresent k u

/-- The island of a unit is on, so that it tests itself. -/
def Dev.unitOn (d : Dev) (u : TestUnit) : Bool := match u with
  | .portTx p _ | .portRx p _ => d.powered (d.portDomain p)
  | .memLane m _ | .pantryWay m _ => d.powered (d.engDomain m)
  | .sharedLane i _ => (islandDomain d.kind i.toNat).any d.powered
  | .upset u => match u with
    | .symbol m | .memory m | .granule m _ _ | .copy m _ _ _ => d.powered (d.engDomain m)
    | .receive p | .transmit p => d.powered (d.portDomain p)
    | .other i => (islandDomain d.kind i.toNat).any d.powered
    | .partition _ | .manager | .store _ _ => true

/-- A self-test: a unit that fails twice is mapped out. Between tests, what a check finds. -/
def Dev.selfTest (d : Dev) (u : TestUnit) (fails again : Bool) : Dev :=
  if d.reset.frozen || !d.unitOn u then d
  else match u with
    | .upset x => d.upset x
    | _ => if !(fails && again) then d else match u with
      | .portTx p l => d.portLaneOut true p l
      | .portRx p l => d.portLaneOut false p l
      | .memLane m l => d.memLaneOut m l
      | .pantryWay m w => d.wayOut m w
      | .sharedLane i l => d.sharedOut i.toNat l
      | .upset _ => d

/-! ## HALL.BLOCK_RESET (R466) -/

/-- A write of HALL.BLOCK_RESET: classes 0 SERVICE and 2 TEST with go set. -/
def Dev.blockReset (d : Dev) (v : Word) : Dev :=
  let c := fld v.toNat 0 2
  if v.getLsbD 63 && (c = 0 || c = 2) then d.requestReset (BitVec.ofNat 2 c) else d

/-- HALL.RESET_INFO. -/
def Dev.resetInfo (d : Dev) : Word :=
  BitVec.ofNat 64 (d.reset.lastCls.toNat + d.reset.lastCause.toNat * 2 ^ 8 + d.reset.warmResets % 2 ^ 32 * 2 ^ 16)

/-- A write of HALL.DEADLINE[k]. -/
def Dev.deadlineWrite (d : Dev) (k : Nat) (v : Word) : Dev :=
  let n := fld v.toNat 0 32
  if n = 0 ∨ 4000000000 < n then d else d.onHall fun h => { h with deadline := tset h.deadline (deadlineReset k) k n }

/-- HALL.DEADLINE[k] in microseconds. -/
def Dev.deadlineUs (d : Dev) (k : Nat) : Nat := tget d.hall.deadline (deadlineReset k) k

/-! ## The Cellar's window (R467, R468) -/

/-- The counted resets the history holds: the last two, oldest first. -/
def Cellar.lastTwo (c : Cellar) : List Nat := c.escTimes.drop (c.escTimes.length - 2)

/-- A register of CELLAR; a read of CHECK_COUNT clears it. -/
def Dev.cellarReg (d : Dev) (off : Nat) : Nat :=
  let c := d.cellar
  let two := c.lastTwo
  if off = 0x0000 then 256 + 64 * 2 ^ 16 + 512 * 2 ^ 32
  else if off = 0x0008 then c.head % 2 ^ 32
  else if off = 0x0010 then (two.filter fun t => decide (d.time ≤ t + 600000000000)).length + b2n c.boarded * 4
  else if off = 0x0018 then (if two.length = 2 then two.headD 0 else 0)
  else if off = 0x0020 then two.getLastD 0
  else if off = 0x0028 then b2n c.dumpValid * 2 ^ 63 + c.dumpCause.toNat * 2 ^ 40 + c.dumpIsland.toNat * 2 ^ 32 + c.dumpMissed % 2 ^ 16
  else if off = 0x0030 then c.dumpTime
  else if off = 0x0038 then c.checks
  else if 0x10000 ≤ off ∧ off < 0x14000 then fld (tget c.log 0 ((off - 0x10000) / 64)).toNat (8 * (off % 64)) 64
  else if 0x80000 ≤ off ∧ c.dumpValid = true then (Config.dumpWord c.dumpTime c.dumpCause.toNat ((off - 0x80000) / 8)).toNat
  else 0

end Sys2Proof.Machine
end

