-- ==== Sys2Proof/Machine/Power.lean ====
section
/-! DEFINITION. Power domains (R469 to R473), operating points (R474, R475), clock spreading (R476), the energy budget (R478 to
R481), the registers of R484 and R485, the link-state record port (R504). -/

namespace Sys2Proof.Machine

/-! ## Switching a domain (R471 to R473) -/

/-- What must hold for a domain to switch off (R471). -/
def Dev.offAllowed (d : Dev) (n : Nat) : Bool :=
  if n = 3 then true
  else if n = 4 then d.vault.st = .closed && d.vault.loads.isEmpty && !d.vault.progBusy
  else if n < 8 then false
  else if n < 8 + Kind.engines d.kind then
    let m := n - 8
    (d.regions.all fun e => e.2.st = .free || let c := d.regionChunks e.1 m; decide (c.2 ≤ c.1))
      && (d.eng m).slots.isEmpty && (d.eng m).slotWaits.isEmpty && !((d.eng m).ops.any fun op => !op.locked.isEmpty)
  else (List.range 4).all fun i => !(d.port (4 * (n - 8 - Kind.engines d.kind) + i)).up

/-- SIDE.PWR_REQ[n] with another value. -/
def Power.withReq (p : Power) (n : Nat) (on : Bool) : Power :=
  { p with req := if on then p.req ||| oneBit 28 n else p.req &&& ~~~(oneBit 28 n) }

/-- An off request: accepted where the domain is on and its condition holds, and refused otherwise. A domain that is off already, or on
its way there, only notes the request. -/
def Dev.powerOff (d : Dev) (n : Nat) : Dev :=
  if !Kind.switchable d.kind n then d
  else match (d.pdom n).st with
    | .on =>
      if d.offAllowed n then
        ((d.onPower fun p => p.withReq n false).onPdom n fun p => { p with st := .turningOff, aim := none }).emit (.power n false)
      else d.onPower fun p => { p with refused := p.refused ||| oneBit 28 n }
    | .turningOn => d.onPower fun p => { p with refused := p.refused ||| oneBit 28 n }
    | .off | .turningOff => d.onPower fun p => p.withReq n false

/-- An on request: the power request of an off domain is raised; one that comes while the domain turns off waits for that. -/
def Dev.powerOn (d : Dev) (n : Nat) : Dev :=
  if !Kind.switchable d.kind n then d
  else
    let d := d.onPower fun p => p.withReq n true
    if (d.pdom n).st = .off then (d.onPdom n fun p => { p with st := .turningOn }).emit (.power n true) else d

/-- A write of SIDE.PWR_REQ: every switchable domain whose bit the value changes. -/
def Dev.pwrReqWrite (d : Dev) (v : Word) : Dev :=
  forBelow (Kind.domains d.kind) (fun n d =>
    if v.getLsbD n = d.power.req.getLsbD n then d else if v.getLsbD n then d.powerOn n else d.powerOff n) d

/-- An island loses its supply, or is reset as its supply returns: SRAM cleared, registers at their reset values; lane and way maps
and what lies in the always-on island stay (R391, R472, R473). -/
def Dev.islandReset (d : Dev) (n : Nat) : Dev :=
  if n = 3 then d.onAttic fun a => { head := a.head, nextBlock := (a.head + 127) / 128 }
  else if n = 4 then d.onVault fun v => { sealOpen := v.sealOpen, sealEvent := v.sealEvent }
  else if n < 8 then d
  else if n < 8 + Kind.engines d.kind then d.onEng (n - 8) Engine.warm
  else forBelow 4 (fun i d => d.onPort (4 * (n - 8 - Kind.engines d.kind) + i) Port.warm) d

/-- A domain is on: its clock is seeded and runs at P0; an engine draws its tree key and its stack reads as fresh. It waits while the
DRBG does not serve (R79, R80). -/
def Dev.domainOn (d : Dev) (n : Nat) : Dev :=
  if !d.canDraws 2 then d.drawLater (.powerOn n) else
  let d := (d.islandReset n).onPdom n fun p => { p with st := .on, point := 0, lows := 0, aim := none, occupancy := 0, queueMax := 0 }
  let d := d.seedClock n
  if 8 ≤ n ∧ n < 8 + Kind.engines d.kind then d.drew.onEng (n - 8) fun e => { e with treeKey := d.drawn (drawLabel none 0) } else d

/-- The switch acknowledges: dropped, an off transition completes (and an on request that waited for it starts); raised, an on
transition completes. -/
def Dev.pwrAck (d : Dev) (n : Nat) (level : Bool) : Dev :=
  match (d.pdom n).st, level with
  | .turningOff, false =>
    let d := (d.islandReset n).onPdom n fun p => { p with st := .off, point := 0, lows := 0, aim := none, occupancy := 0, queueMax := 0 }
    if d.power.req.getLsbD n then d.powerOn n else d
  | .turningOn, true => d.domainOn n
  | _, _ => d

/-- A late acknowledgement: counted; the domain stays in transition. -/
def Dev.pwrLate (d : Dev) (n : Nat) : Dev :=
  match (d.pdom n).st with
  | .turningOff | .turningOn => d.onPower fun p => { p with late := sat 16 (p.late + 1) }
  | _ => d

/-! ## Operating points (R474, R475) -/

/-- An island with a loop: memory engines and port groups. -/
def laneIsland (k : Kind) (n : Nat) : Bool := decide (8 ≤ n) && decide (n < Kind.domains k)

/-- Rate of a point in percent (R474). -/
def pointRate (p : BitVec 2) : Nat := 100 - 20 * p.toNat

/-- Ask the regulator for a higher point. -/
def Dev.raiseTo (d : Dev) (n : Nat) (p : BitVec 2) : Dev :=
  if (d.pdom n).aim.any fun q => decide (q ≤ p) then d
  else (d.onPdom n fun x => { x with aim := some p, lows := 0 }).emit (.voltage n p)

/-- One measurement of an island's loop: percent of the current point's capacity, and its fullest queue. -/
def Dev.dvfs (d : Dev) (n occ queue : Nat) : Dev :=
  if !d.powered n then d
  else
    let d := d.onPdom n fun p => { p with occupancy := min 255 occ, queueMax := min 255 queue }
    let p := d.pdom n
    if 80 < occ ∨ 50 < queue then
      if p.point = 0 then d.onPdom n fun p => { p with lows := 0 } else (d.raiseTo n 0).onPdom n fun p => { p with lows := 0 }
    else if p.aim.isSome || p.point = 3 || decide (75 * pointRate (p.point + 1) ≤ occ * pointRate p.point) then
      d.onPdom n fun p => { p with lows := 0 }
    else if 50 ≤ p.lows + 1 ∧ p.point < p.floor then
      (d.onPdom n fun p => { p with point := p.point + 1, lows := 0 }).emit (.voltage n (p.point + 1))
    else d.onPdom n fun p => { p with lows := min 50 (p.lows + 1) }

/-- The voltage has settled: the clock switches up to the point asked for. -/
def Dev.vok (d : Dev) (n : Nat) : Dev :=
  match (d.pdom n).aim with
  | some p => if d.powered n then d.onPdom n fun x => { x with point := p, aim := none, lows := 0 } else d
  | none => d

/-- A write of SIDE.DVFS_FLOOR[n]: an island below its new floor rises to it, a lowering under way is abandoned. -/
def Dev.floorWrite (d : Dev) (n : Nat) (v : Word) : Dev :=
  if !laneIsland d.kind n then d
  else
    let f := BitVec.ofNat 2 v.toNat
    let d := d.onPdom n fun p => { p with floor := f }
    if f < (d.pdom n).point && d.powered n then d.raiseTo n f else d

/-! ## Clock spreading (R476) -/

/-- One step of an island clock's walk, within 2% of its point. -/
def Dev.spreadStep (d : Dev) (n : Nat) : Dev :=
  if n = 7 || !d.powered n || !d.power.spread then d
  else d.onPdom n fun p => { p with walk := p.walk + 1, offset := Config.spreadStep p.seed (p.walk + 1) % 401 }

/-- A write of SIDE.CLK_SPREAD counts in MANUFACTURE and DEBUG only. -/
def Dev.spreadWrite (d : Dev) (v : Word) : Dev :=
  if d.lc = .manufacture || d.lc = .debug then d.onPower fun p => { p with spread := v.getLsbD 0 } else d

/-! ## The energy budget (R478 to R481) -/

/-- A word is strobed. -/
def Dev.budgetStrobe (d : Dev) (w : BitVec 32) : Dev := d.onPower fun p => { p with word := some w }

/-- Stack bytes of one unit of a job: a page with its tag lines and leaf, or a chunk's counter lines (R336, R353). -/
def unitBytes (k : JKind) : Nat := match k with
  | .rekey => 8832
  | .sweep => 8320

/-- A job's configured rate in GB/s per engine: default, or sweep (R356). -/
def Dev.jobRate (d : Dev) (k : JKind) : Nat := match k with
  | .rekey => fld d.thresh.rate.toNat 0 16
  | .sweep => fld d.thresh.rate.toNat 32 16

/-- A job at an epoch boundary: its age grows where it ran below a sixteenth of its configured rate on the engines together. -/
def Dev.jobAges (d : Dev) (j : Job) : Job :=
  if j.st ≠ .queued ∧ j.st ≠ .running then j
  else if j.urgent then { j with epochPassed := 0 }
  else
    let slow := decide (j.epochPassed * unitBytes j.kind * 16 < d.jobRate j.kind * 100000 * Kind.engines d.kind)
    let age := if slow then j.age + 1 else 0
    let due := decide (d.power.ageLimit ≤ age)
    { j with epochPassed := 0, age := age, urgent := due, byAge := due }

/-- An epoch boundary: B, T and the ages. -/
def Dev.budgetEpoch (d : Dev) : Dev :=
  let p := d.power
  let b := (p.word.getD 0).toNat
  let all := decide (b = 2 ^ 32 - 1)
  let t := if p.unlimited then b + b else min p.tokens b + b
  let d := d.onPower fun p =>
    { p with budget := BitVec.ofNat 32 b, epochs := (p.epochs + 1) % 2 ^ 32, unlimited := all, tokens := min t (2 ^ 32 - 2),
             missed := if p.word.isNone then sat 32 (p.missed + 1) else p.missed, word := none }
  d.onThresh fun t => { t with jobs := t.jobs.map fun e => (e.1, d.jobAges e.2) }

/-! ## Registers (R484, R485) -/

def PowerState.code : PowerState → Nat
  | .off => 0
  | .on => 1
  | .turningOff => 2
  | .turningOn => 3

/-- Numbers below the domain count with a property, as bits. -/
def Dev.domainBits (d : Dev) (f : Nat → Bool) : Nat :=
  ((List.range (Kind.domains d.kind)).filter f).foldl (fun a n => a + 2 ^ n) 0

/-- SIDE.PWR_INFO. -/
def Dev.pwrInfo (d : Dev) : Nat := Kind.domains d.kind + d.domainBits (Kind.switchable d.kind) * 2 ^ 8

/-- SIDE.PWR_STATE. -/
def Dev.pwrState (d : Dev) : Nat :=
  d.domainBits d.powered + d.domainBits (fun n => (d.pdom n).st = .turningOff || (d.pdom n).st = .turningOn) * 2 ^ 32

/-- SIDE.PWR_REQ and SIDE.PWR_REFUSED: bits of domains that exist. -/
def Dev.reqBits (d : Dev) (b : BitVec 28) : Nat := d.domainBits b.getLsbD

/-- SIDE.ISLAND[n]. -/
def Dev.islandWord (d : Dev) (n : Nat) : Nat :=
  if n < Kind.domains d.kind then
    let p := d.pdom n
    PowerState.code p.st + b2n (d.powered n && n ≠ 7) * 2 ^ 2 + b2n (d.power.spread && d.powered n && n ≠ 7) * 2 ^ 3 + p.point.toNat * 2 ^ 4
      + p.occupancy * 2 ^ 24 + p.queueMax * 2 ^ 32
  else 0

/-- A write of SIDE.BG_COST: each cost at least 1 nJ. -/
def Dev.costWrite (d : Dev) (v : Word) : Dev :=
  if fld v.toNat 0 16 = 0 ∨ fld v.toNat 16 16 = 0 ∨ fld v.toNat 32 16 = 0 then d
  else d.onPower fun p => { p with cost := BitVec.ofNat 64 (fld v.toNat 0 48) }

/-- A write of SIDE.URGENT_FLOOR: 16 GB/s to the urgent rate. -/
def Dev.urgentWrite (d : Dev) (v : Word) : Dev :=
  let n := fld v.toNat 0 16
  if n < 16 ∨ fld d.thresh.rate.toNat 16 16 < n then d else d.onPower fun p => { p with urgentFloor := n }

/-- A write of SIDE.AGE_LIMIT. -/
def Dev.ageWrite (d : Dev) (v : Word) : Dev :=
  let n := fld v.toNat 0 32
  if n < 1000 ∨ 10000000 < n then d else d.onPower fun p => { p with ageLimit := n }

/-! ## The link-state record port (R504) -/

/-- The link layer reads a word of the record SRAM, or writes one. -/
def Dev.linkAccess (d : Dev) (a : Nat) (write : Option Word) : Dev :=
  match write with
  | some v => d.onPower fun p => { p with linkState := tset p.linkState 0 a v }
  | none => d.emit (.linkRecord (tget d.power.linkState 0 a))

end Sys2Proof.Machine
end

