-- ==== Sys2Proof/Machine/Fabric.lean ====
section
/-! DEFINITION. What comes in on the ports: requests of the transmit streams (R171, R488) and packets of the receive streams
(R171, R174, R178, R180), each brought to the chapter that owns it; link changes (R185, R427). -/

namespace Sys2Proof.Machine

/-! ## Requests (R488) -/

/-- Bits of [212:96] that a request's type leaves unnamed are zero. -/
def reqUnnamed (h : BitVec 256) : Bool :=
  let n := h.toNat
  match fld n 0 4 with
  | 1 => fld n 100 113 ≠ 0
  | 2 => false
  | 3 => fld n 110 103 ≠ 0
  | 4 => fld n 119 94 ≠ 0
  | _ => false

/-- A header refused with BAD_FIELD: a reserved type, a reserved field set, an absent partition. -/
def Dev.reqBad (d : Dev) (h : BitVec 256) : Bool :=
  let r := TxReq.of h
  r.type = 0 || decide (4 < r.type) || r.rsv || reqUnnamed h || decide (d.nparts ≤ r.part)

/-- The data flits disagree with the length field; a square read carries none. -/
def reqLength (h : BitVec 256) (payload : Bytes) : Bool :=
  let r := TxReq.of h
  if r.type = 4 then r.cells ≠ 1 || payload ≠ [] else (payload.length + 127) / 128 ≠ (r.cells + 3) / 4

/-- The transmit stream of a port takes a request: a powered port of a serving block. -/
def Dev.portOpen (d : Dev) (port : Nat) : Bool := d.ready && d.powered (d.portDomain port)

/-- A request arrives with its data flits. What its header refuses is answered here (R488; R411 counts the owning chapters' refusals). A
parity or code failure on the port's transmit path refuses it with HANG (R324). -/
def Dev.request (d : Dev) (port : Nat) (h : BitVec 256) (payload : Bytes) : Dev :=
  let r := TxReq.of h
  if !d.portOpen port then d
  else if d.reqBad h then d.answer port r.tag Status.badField
  else if reqLength h payload then d.answer port r.tag Status.length
  else if !d.hall.nodeValid then d.answer port r.tag Status.denied
  else if (d.port port).txSpoiled then (d.onPort port fun x => { x with txSpoiled := false }).answer port r.tag Status.hang
  else
    let data := padTo (32 * r.cells) payload
    if r.type = 1 then d.channelRequest port r.tag r.part r.handle (fld h.toNat 96 4) r.offset data
    else if r.type = 2 then d.sumRequest port h data d.time none
    else if r.type = 3 then d.multicastReq port h data d.time none
    else d.squareReadReq port h d.time none

/-! ## Packets -/

/-- A packet is for this node: MSTORE names a group, every other kind its target (R171, R173, R244). -/
def Dev.forNode (d : Dev) (p : Pkt) : Bool := d.hall.nodeValid && (p.kind = 0x20 || p.target = d.hall.node.toNat)

/-- Kinds that exist (R174, R220, R243). -/
def kindDefined (k : Nat) : Bool := (decide (1 ≤ k) && decide (k ≤ 4)) || k = 0x10 || (decide (0x20 ≤ k) && decide (k ≤ 0x22)) || k = 0x30

/-- Malformed CTRL packets (R11, R173, R174, R180). -/
def Dev.ctrlMalformed (d : Dev) (p : Pkt) : Bool :=
  let src := leAt p.head 8 4
  let ty := leAt p.head 12 1
  !p.whole || p.rsv1 ≠ 0 || p.dom || p.up ≠ 0 || decide (d.nparts ≤ p.dstPart) || fld src 19 13 ≠ 0 || decide (d.nparts ≤ fld src 14 5)
    || !zeroAt p.head 13 19 || !zeroAt p.tag 0 16
    || (if ty = 1 then false
        else if ty = 2 then p.cells ≠ 2 || !zeroAt p.payload 4 28
        else if ty = 3 then p.cells ≠ 4 || !zeroAt p.payload 5 1 || !zeroAt p.payload 16 16 || !zeroAt p.payload 112 16
        else true)

/-- A packet counts as accepted on its port. -/
def Dev.countRx (d : Dev) (port : Nat) : Dev := d.onPort port fun x => { x with rxPackets := sat 64 (x.rxPackets + 1) }

/-- A CTRL packet: malformed, over the rate, or brought to its type's handler (R180). -/
def Dev.rxCtrl (d : Dev) (port : Nat) (p : Pkt) : Dev :=
  if d.ctrlMalformed p then d.dropMalformed port
  else
    let (ok, d) := d.clearTake port
    if !ok then d
    else
      let d := d.countRx port
      let ty := leAt p.head 12 1
      if ty = 1 then d.rxFragment port p else if ty = 2 then d.syncReq port p else d.syncAck port p

/-- Malformed SUM packets, an absent partition among the causes (R174, R221). -/
def Dev.sumBad (d : Dev) (p : Pkt) : Bool := sumMalformed p || decide (d.nparts ≤ p.dstPart)

/-- A packet's payload is held in the port's Landing while its tag is checked: not a channel payload that a staging register takes
(R190, R318). -/
def Dev.needsLanding (d : Dev) (port : Nat) (p : Pkt) : Bool :=
  !((p.kind = 1 || p.kind = 2) && d.stages port p.payload.length)

/-- A packet arrives on a port. While the Landing has no room for it the stream's ready is withheld and the packet stays outside
(R190). One that meets a parity or code failure inside is discarded as a tag failure (R191, R324). -/
def Dev.receive (d : Dev) (port : Nat) (bytes : Bytes) : Dev :=
  let p := Pkt.of bytes
  if !d.portOpen port || (d.needsLanding port p && !d.landingRoom port p.payload.length) then d
  else
  let d := if d.needsLanding port p then d.landingMark port p.payload.length else d
  if !kindDefined p.kind || !d.forNode p then d.dropMalformed port
  else if (d.port port).rxSpoiled then (d.onPort port fun x => { x with rxSpoiled := false }).tagFailed port p.dstPart
  else if p.kind = 0x10 then
    if d.sumBad p then d.onPort port fun x => { x with sumMalformed := sat 16 (x.sumMalformed + 1) } else d.rxSum port (SumPkt.of p)
  else if p.version ≠ 1 then d.dropMalformed port
  else if p.kind = 1 || p.kind = 2 then if d.chanMalformed p then d.dropMalformed port else d.rxPacket port p
  else if p.kind = 3 || p.kind = 4 then if d.chanMalformed p then d.dropMalformed port else d.txAck port p
  else if p.kind = 0x20 then if d.mstoreMalformed p then d.dropMalformed port else d.rxMstore port p
  else if p.kind = 0x21 then if d.readReqMalformed p then d.dropMalformed port else (d.rxReadReq port p).countRx port
  else if p.kind = 0x22 then if d.readRspMalformed p then d.dropMalformed port else d.rxReadRsp port p
  else d.rxCtrl port p

/-! ## Links (R185, R427) -/

/-- A port's link comes up: what waits for a link leaves. -/
def Dev.linkUp (d : Dev) (port : Nat) : Dev :=
  let d := d.onPort port fun p => { p with up := true }
  if d.ready then d.linksUp else d

/-- A port's link goes down. -/
def Dev.linkDown (d : Dev) (port : Nat) : Dev :=
  if (d.port port).up then (d.onPort port fun p => { p with up := false }).raise (96 + port) else d

end Sys2Proof.Machine
end

