-- ==== Sys2Proof/Machine/Porch.lean ====
section
/-! DEFINITION. The registers of a Porch (R43 to R47, R235, R236, R266, R304, R330, R358, R359, R370 to R373, R387 to R389, R424):
what a read of an offset returns and does, what a 64-bit or 128-bit write does. Thread n is a partition's, or the manager's. -/

namespace Sys2Proof.Machine

/-- The number under which a requester's latches are kept. -/
def reqKey (r : Requester) : Nat := r.cls.toNat * 32 + r.idx.toNat

/-! ## Regions, squares, sums as registers show them -/

/-- The generation of a handle its owner has now (R209, R264, R303): an eviction or a freeing step has moved it on. -/
def Dev.ownerGen (d : Dev) (thread : Nat) (k : HKind) (index : Nat) : Nat := ((d.th thread).handle k index).gen

/-- HALL.REGION_INFO of a region slot (R303). -/
def Dev.regionInfo (d : Dev) (slot : Nat) : Nat :=
  let r := d.reg slot
  if r.st = .free then 0
  else
    let st := match r.st with
      | .free => 0
      | .live => 1
      | .closing => 2
    st + b2n (d.jobOn slot).isSome * 2 ^ 2 + b2n r.square.isSome * 2 ^ 3 + r.dma.toNat * 2 ^ 4 + r.dbg.toNat * 2 ^ 6
      + r.kind.toNat * 2 ^ 8 + r.log2 % 64 * 2 ^ 10 + r.epoch % 65536 * 2 ^ 16 + r.thread % 256 * 2 ^ 32 + r.index % 4096 * 2 ^ 40
      + d.ownerGen r.thread .region r.index % 16 * 2 ^ 52

/-- HALL.REGION_BASE (R302). -/
def Dev.regionBase (d : Dev) (slot : Nat) : Nat :=
  let r := d.reg slot
  if r.st = .free then 0 else r.base % 2 ^ 48 + (r.square.getD 0) % 1024 * 2 ^ 48

/-- HALL.REGION_WRITES (R302). -/
def Dev.regionWrites (d : Dev) (slot : Nat) : Nat := if (d.reg slot).st = .free then 0 else sat 45 (d.reg slot).writes

/-- The region slot of a thread's handle entry, while the entry is not free (R304, R358). -/
def Dev.entrySlot (d : Dev) (n : Nat) (k : HKind) (index : Nat) : Option Nat :=
  let e := (d.th n).handle k index
  if e.st = .free then none else some e.slot

def JState.code : JState → Nat
  | .free => 0
  | .queued => 1
  | .running => 2
  | .ending => 3

/-- PORCH.REKEY_INFO of a region (R359). -/
def Dev.rekeyInfo (d : Dev) (slot : Nat) : Nat :=
  let form := b2n (decide (0 < (d.reg slot).exportedPages)) * 2 ^ 6
  match d.jobOn slot with
  | none => form
  | some i =>
    let j := d.job i
    JState.code j.st + b2n j.urgent * 2 ^ 4 + b2n j.export_ * 2 ^ 5 + form + b2n j.firmware * 2 ^ 7 + j.passed % 2 ^ 32 * 2 ^ 32

def SqState.code : SqState → Nat
  | .free => 0
  | .live => 1
  | .closing => 2
  | .gone => 3

/-- PORCH.SQ_INFO of a square slot (R266). -/
def Dev.squareInfo (d : Dev) (slot : Nat) : Nat :=
  let q := d.sq slot
  q.id % 2 ^ 32 + SqState.code q.st * 2 ^ 32 + q.windows.length % 32 * 2 ^ 34

/-- The pair a partition has selected (R235). -/
def Part.sumPair (p : Part) : Nat := fld p.sumSelect.toNat 0 32 * 65536 + fld p.sumSelect.toNat 32 16

/-- PORCH.SUM_INFO (R236). -/
def Dev.sumInfo (d : Dev) (n : Nat) : Nat :=
  match d.findCtx n (d.part n).sumPair with
  | none => 0
  | some (_, c) =>
    let (st, status) : Nat × Nat := match c.st with
      | .open_ => (1, 0)
      | .failed => (2, c.status.toNat)
      | .fallback => (3, 0)
    st + c.index % 2 ^ 14 * 2 ^ 8 + (c.n - 1) % 2 ^ 14 * 2 ^ 24 + (c.pkts.getD 1 - 1) % 1024 * 2 ^ 40 + status * 2 ^ 56

/-- PORCH.SUM_MAP[k] (R235). -/
def Dev.sumMap (d : Dev) (n k : Nat) : Nat :=
  match d.findCtx n (d.part n).sumPair with
  | none => 0
  | some (_, c) =>
    let l := if c.index = 0 && c.st ≠ .fallback then c.committed else c.sent
    ((List.range 64).filter fun b => l.contains (64 * k + b)).foldl (fun a b => a + 2 ^ b) 0

/-- PORCH.SUM_RELEASE: the selected context is freed with its accumulators (R216). -/
def Dev.sumRelease (d : Dev) (n : Nat) : Dev :=
  match d.findCtx n (d.part n).sumPair with
  | none => d
  | some (sq, c) => d.dropCtx sq c.pair

/-- PORCH.SEAL_STOP (R330). -/
def Thread.sealWord (t : Thread) : Nat :=
  b2n t.sealStop.isSome * 2 ^ 63 + t.sealLast.1 % 256 * 2 ^ 40 + t.sealLast.2 % 2 ^ 40

/-! ## Reads -/

/-- A read of the thread block (R43). `clear` is false for the debug path (R33). -/
def Dev.threadRead (d : Dev) (n req : Nat) (clear : Bool) (off : Nat) : Nat × Dev :=
  let t := d.th n
  if off < 0x1000 then (fld (tget t.rows 0 (off / 16)).toNat (8 * (off % 16)) 64, d)
  else if off = 0x1000 then let (v, d) := d.eventRead n req clear; (v.toNat, d)
  else if off = 0x1008 then ((tget t.evHigh 0 req).toNat, d)
  else if off = 0x1010 then (t.fifo.length, d)
  else if off = 0x1018 then ((d.threadStatus n).toNat, d)
  else if off = 0x1028 then (t.cookie.toNat, d)
  else if off = 0x1030 then (t.handleQuery.toNat, d)
  else if off = 0x1038 then ((d.handleInfo n).toNat, d)
  else if 0x2000 ≤ off ∧ off < 0x3000 then (leNat (t.xferBytes (off - 0x2000) 8), d)
  else (0, d)

/-- A read of the registers of regions, sealing, paging and re-keying, which the Manager Porch has too. -/
def Dev.ownRead (d : Dev) (n off : Nat) : Nat :=
  let t := d.th n
  let region := d.entrySlot n .region t.regionSelect
  if off = 0x3200 then t.regionSelect
  else if off = 0x3208 then (region.map d.regionInfo).getD 0
  else if off = 0x3210 then (region.map d.regionBase).getD 0
  else if off = 0x3218 then (region.map d.regionWrites).getD 0
  else if off = 0x3300 then t.sealWord
  else if off = 0x3400 then t.pageBase.toNat
  else if off = 0x3408 then t.pageTable.toNat
  else if off = 0x3410 then t.pageVersion
  else if off = 0x3418 then t.pageOut
  else if off = 0x3420 then t.exportBase.toNat
  else if off = 0x3428 then t.rekeySelect
  else if off = 0x3430 then ((d.entrySlot n .region t.rekeySelect).map d.rekeyInfo).getD 0
  else 0

/-- A read of the masked-sum and square registers of a partition. -/
def Dev.sumRead (d : Dev) (n : Nat) (clear : Bool) (off : Nat) : Nat × Dev :=
  let p := d.part n
  if off = 0x3000 then (p.sumGuard, d)
  else if off = 0x3008 then (p.sumFloor, d)
  else if off = 0x3010 then (p.sumClamped, if clear then d.onPart n fun p => { p with sumClamped := 0 } else d)
  else if off = 0x3018 then (p.sumRange, if clear then d.onPart n fun p => { p with sumRange := 0 } else d)
  else if off = 0x3020 then (b2n p.addRange, d)
  else if off = 0x3028 then (p.sumSelect.toNat, d)
  else if off = 0x3030 then (d.sumInfo n, d)
  else if 0x3080 ≤ off ∧ off < 0x3100 then (d.sumMap n ((off - 0x3080) / 8), d)
  else if off = 0x3100 then (p.sqSelect, d)
  else if off = 0x3108 then (((d.entrySlot n .square p.sqSelect).map d.squareInfo).getD 0, d)
  else if off = 0x3110 then (p.sqReceived, if clear then d.onPart n fun p => { p with sqReceived := 0 } else d)
  else if off = 0x3118 then (p.multicast, d)
  else (0, d)

/-- A read of the counters and the own Attic records of a partition (R424). -/
def Dev.countRegs (d : Dev) (n req : Nat) (clear : Bool) (off : Nat) : Nat × Dev :=
  let p := d.part n
  let t := d.th n
  if 0x4000 ≤ off ∧ off < 0x4080 then let (v, d) := d.countRead n ((off - 0x4000) / 8); (v.toNat, d)
  else if 0x4080 ≤ off ∧ off < 0x4100 then (tget p.snap 0 ((off - 0x4080) / 8), d)
  else if off = 0x4100 then (p.snaps + b2n p.snapReset * 2 ^ 32, d)
  else if off = 0x4108 then (p.snapTime, d)
  else if off = 0x4110 then (b2n p.stepReset, d)
  else if off = 0x4118 then (p.rolled.toNat, if clear then d.onPart n fun p => { p with rolled := 0 } else d)
  else if off = 0x5000 then (t.atticMask.toNat, d)
  else if off = 0x5008 then (t.atticNext % 2 ^ 32 + t.atticLost % 2 ^ 32 * 2 ^ 32, d)
  else if off = 0x5010 then (t.atticCursor, d)
  else if 0x5020 ≤ off ∧ off < 0x5040 then let (v, d) := d.recRead (some n) req ((off - 0x5020) / 8); (v.toNat, d)
  else (0, d)

/-- The partition whose mailboxes a Porch shows: its own, or the one MBX_SELECT names (R370). -/
def Dev.mbxPart (d : Dev) (n : Nat) : Nat := if n = d.mgr then d.hall.mbxSelect else n

/-- A read of the mailbox registers and slots (R389). -/
def Dev.mailRead (d : Dev) (n : Nat) (clear : Bool) (off : Nat) : Nat × Dev :=
  let p := d.part (d.mbxPart n)
  let manager := n = d.mgr
  if 0x8000 ≤ off ∧ off < 0xA000 then
    ((p.mbxWord (decide (off < 0x9000)) (off % 0x1000 / 256) (off % 256 / 8)).toNat, d)
  else if off = 0x7010 then
    if manager then
      (d.hall.mbxBad + d.hall.mbxFull * 2 ^ 16, if clear then d.onHall fun h => { h with mbxBad := 0, mbxFull := 0 } else d)
    else (p.badPosts + p.fullWrites * 2 ^ 16, if clear then d.onPart n fun p => { p with badPosts := 0, fullWrites := 0 } else d)
  else if manager then
    if off = 0x7000 then (d.hall.mbxSelect, d)
    else if off = 0x7008 then (d.mbxPending, d)
    else if off = 0x7018 then (p.mbxBits true, d)
    else if off = 0x7020 then (p.mbxBits false, d)
    else (0, d)
  else if off = 0x7000 then (p.mbxBits true, d)
  else if off = 0x7008 then (p.mbxBits false, d)
  else (0, d)

/-- A read of thread n's Porch (R370): what it returns, and the block after it. -/
def Dev.porchRead (d : Dev) (n req : Nat) (clear : Bool) (off : Nat) : Nat × Dev :=
  if off < 0x3000 then d.threadRead n req clear off
  else if off < 0x3200 then (if n = d.mgr then (0, d) else d.sumRead n clear off)
  else if off < 0x3500 then (d.ownRead n off, d)
  else if off < 0x3540 then
    if n = d.mgr then (0, d)
    else ((d.partWord n ((off - 0x3500) / 8)).toNat,
          if off = 0x3508 && clear then d.onPart n fun p => { p with notice := 0 } else d)
  else if off < 0x7000 then (if n = d.mgr then (0, d) else d.countRegs n req clear off)
  else d.mailRead n clear off

/-! ## Writes -/

/-- PORCH.THREAD_CTRL: discard, resume, then the sticky bit (R46). -/
def threadCtrl (v : Word) (t : Thread) : Thread :=
  let t := if v.getLsbD 1 then t.discard else t
  let t := if v.getLsbD 0 then t.resume else t
  if v.getLsbD 2 then t.clearOver else t

/-- A value that a register takes only when a condition holds. -/
def Dev.when (d : Dev) (c : Bool) (f : Dev → Dev) : Dev := if c then f d else d

/-- A 64-bit write of thread n's Porch. -/
def Dev.porchWrite (d : Dev) (n off : Nat) (v : Word) : Dev :=
  let x := v.toNat
  let manager := n = d.mgr
  if off = 0x1020 then d.onTh n (threadCtrl v)
  else if off = 0x1030 then d.onTh n fun t => { t with handleQuery := BitVec.ofNat 64 (fld x 0 12 + fld x 16 3 * 2 ^ 16) }
  else if 0x2000 ≤ off ∧ off < 0x3000 then d.onTh n fun t => t.putXfer (off - 0x2000) (natLe 8 x)
  else if off = 0x3200 then d.onTh n fun t => { t with regionSelect := fld x 0 12 }
  else if off = 0x3400 then d.when (fld x 0 6 = 0) fun d => d.onTh n fun t => { t with pageBase := v }
  else if off = 0x3408 then d.when ((d.th n).pageOut = 0) fun d => d.onTh n fun t => { t with pageTable := BitVec.ofNat 16 x }
  else if off = 0x3420 then d.when (fld x 0 6 = 0) fun d => d.onTh n fun t => { t with exportBase := v }
  else if off = 0x3428 then d.onTh n fun t => { t with rekeySelect := fld x 0 12 }
  else if 0x8000 ≤ off ∧ off < 0xA000 then
    let outbound := decide (off < 0x9000)
    if outbound = manager || off % 256 < 16 then d
    else d.mbxBody outbound (d.mbxPart n) (off % 0x1000 / 256) (off % 256 / 8) v
  else if manager then
    if off = 0x7000 then d.onHall fun h => { h with mbxSelect := fld x 0 5 }
    else if off = 0x7018 then d.mbxTake true d.hall.mbxSelect (fld x 0 16)
    else d
  else if off = 0x3000 then d.when (decide (fld x 0 31 ≤ 2147483645)) fun d => d.onPart n fun p => { p with sumGuard := fld x 0 31 }
  else if off = 0x3028 then d.onPart n fun p => { p with sumSelect := BitVec.ofNat 48 x }
  else if off = 0x3038 then d.when (v.getLsbD 0) fun d => d.sumRelease n
  else if off = 0x3100 then d.onPart n fun p => { p with sqSelect := fld x 0 12 }
  else if off = 0x3510 then d.migrateWrite n v
  else if off = 0x4110 then d.onPart n fun p => { p with stepReset := v.getLsbD 0 }
  else if off = 0x5000 then d.onTh n fun t => { t with atticMask := BitVec.ofNat 7 x }
  else if off = 0x5010 then d.onTh n fun t => { t with atticCursor := fld x 0 32 }
  else if off = 0x7008 then d.mbxTake false n (fld x 0 16)
  else d

/-- A 128-bit register of a Porch: a row, or a mailbox slot's header (R17). -/
def porchWide (off : Nat) : Bool := decide (off < 0x1000) || (decide (0x8000 ≤ off) && decide (off < 0xA000) && decide (off % 256 < 16))

/-- A 128-bit write of thread n's Porch: a row, a mailbox header or body, or two registers, the lower first (R28). -/
def Dev.porchWrite128 (d : Dev) (n off : Nat) (v : BitVec 128) : Dev :=
  let lo : Word := v.setWidth 64
  let hi : Word := (v >>> 64).setWidth 64
  if off < 0x1000 then d.rowWrite n (off / 16) v
  else if 0x8000 ≤ off ∧ off < 0xA000 then
    let outbound := decide (off < 0x9000)
    let q := d.mbxPart n
    let slot := off % 0x1000 / 256
    if outbound = (n = d.mgr : Bool) then d
    else if off % 256 < 16 then d.mbxPost outbound q slot v
    else if (d.part q).mbxFull outbound slot then d.mbxBody outbound q slot (off % 256 / 8) lo
    else (d.mbxBody outbound q slot (off % 256 / 8) lo).mbxBody outbound q slot (off % 256 / 8 + 1) hi
  else (d.porchWrite n off lo).porchWrite n (off + 8) hi

end Sys2Proof.Machine
end

