-- ==== Sys2Proof/Machine/HallRegs.lean ====
section
/-! DEFINITION. The registers of HALL (R37 to R39, R166, R167, R208, R209, R263, R264, R302, R303, R385, R386, R466) and of LARDER
(R106 to R108): what a read returns and does, what a write does. -/

namespace Sys2Proof.Machine

/-! ## What HALL shows -/

def ChState.code : ChState → Nat
  | .free => 0
  | .open_ => 1
  | .syncing => 2
  | .closing => 3
  | .down => 4

/-- HALL.CH_STATE of a channel slot (R209). -/
def Dev.chanState (d : Dev) (slot : Nat) : Nat :=
  let c := d.ch slot
  if c.st = .free then 0
  else ChState.code c.st + b2n c.rx * 2 ^ 4 + b2n c.marker.isSome * 2 ^ 8 + b2n c.noCredit * 2 ^ 9
    + (if c.st = .down then c.cause % 16 else 0) * 2 ^ 10 + c.epoch % 65536 * 2 ^ 16 + c.thread % 256 * 2 ^ 32 + c.index % 4096 * 2 ^ 40
    + d.ownerGen c.thread .channel c.index % 16 * 2 ^ 52

/-- HALL.CH_ID (R208). -/
def Dev.chanIdWord (d : Dev) (slot : Nat) : Nat :=
  let c := d.ch slot
  if c.st = .free then 0 else c.id % 2 ^ 32 + c.peerNode % 2 ^ 14 * 2 ^ 32 + c.peerPart % 32 * 2 ^ 46

/-- HALL.CH_SEQ (R208). -/
def Dev.chanSeq (d : Dev) (slot : Nat) : Nat :=
  let c := d.ch slot
  if c.st = .free then 0 else if c.rx then c.floor else c.next

/-- HALL.SQ_STATE of a square slot (R264). -/
def Dev.squareState (d : Dev) (slot : Nat) : Nat :=
  let q := d.sq slot
  if q.st = .free then 0
  else SqState.code q.st + q.ctxs.length % 32 * 2 ^ 26 + q.windows.length % 32 * 2 ^ 31 + q.thread % 256 * 2 ^ 36 + q.index % 4096 * 2 ^ 44
    + d.ownerGen q.thread .square q.index % 16 * 2 ^ 56

/-- HALL.DOMAIN_STATE, DOMAIN_ID and DOMAIN_POLICY of a partition (R166). -/
def Dev.domainWord (d : Dev) (n w : Nat) : Nat :=
  if d.nparts ≤ n then 0
  else match w with
    | 0 => (d.domainState n).toNat
    | 1 => if (d.dom n).st = .none then 0 else (d.dom n).id.toNat
    | 2 => (d.domainPolicy n).toNat
    | _ => 0

/-- A partition-slot register reads zero for a partition that is absent (R385). -/
def Dev.selPart (d : Dev) (f : Nat → Nat) : Nat := if d.hall.partSelect < d.nparts then f d.hall.partSelect else 0

/-- A read of HALL. -/
def Dev.hallRead (d : Dev) (clear : Bool) (off : Nat) : Nat × Dev :=
  let h := d.hall
  if off = 0x0000 then (d.hallStatus.toNat, d)
  else if off = 0x0008 then (h.faultCount, if clear then d.onHall fun h => { h with faultCount := 0 } else d)
  else if off = 0x0010 then (h.faultAddr.toNat, d)
  else if off = 0x0018 then (h.faultInfo.toNat, d)
  else if 0x0400 ≤ off ∧ off < 0x0800 then (d.domainWord ((off - 0x0400) / 32) (off % 32 / 8), d)
  else if off = 0x0800 then (h.chTimeout, d)
  else if off = 0x0808 then (h.chSelect, d)
  else if off = 0x0810 then (d.chanState h.chSelect, d)
  else if off = 0x0818 then (d.chanIdWord h.chSelect, d)
  else if off = 0x0820 then (d.chanSeq h.chSelect, d)
  else if off = 0x0830 then (h.steerSelect, d)
  else if off = 0x0838 then ((tget h.steer 0 h.steerSelect).toNat, d)
  else if off = 0x0840 then ((d.chans.filter fun e => e.2.st ≠ .free).length + h.evicted * 2 ^ 32, d)
  else if off = 0x0900 then (h.mergeWindow, d)
  else if off = 0x0908 then (h.mergeCredit, d)
  else if off = 0x0910 then (h.sqFloor, d)
  else if off = 0x0918 then (h.sqSelect, d)
  else if off = 0x0920 then (d.squareState h.sqSelect, d)
  else if off = 0x0A00 then (h.regionSelect, d)
  else if off = 0x0A08 then (d.regionInfo h.regionSelect, d)
  else if off = 0x0A10 then (d.regionBase h.regionSelect, d)
  else if off = 0x0A18 then (d.regionWrites h.regionSelect, d)
  else if off = 0x0A20 then ((d.reg h.regionSelect).share.toNat, d)
  else if off = 0x0A28 then ((d.reg h.regionSelect).dma.toNat + (d.reg h.regionSelect).dbg.toNat * 4, d)
  else if off = 0x0C08 then (h.partSelect, d)
  else if off = 0x0C10 then (d.selPart fun n => (d.partState n).toNat, d)
  else if 0x0C40 ≤ off ∧ off < 0x0C80 then (d.selPart fun n => (d.partWord n ((off - 0x0C40) / 8)).toNat, d)
  else if off = 0x0D08 then (d.resetInfo.toNat, d)
  else if off = 0x0D10 then (h.heartbeat, d)
  else if 0x0D40 ≤ off ∧ off < 0x0D80 then (d.deadlineUs ((off - 0x0D40) / 8), d)
  else (0, d)

/-! ## Writes of HALL -/

/-- HALL.PORT_FAULT_INFO.valid is released (R39). -/
def Dev.faultRelease (d : Dev) (v : Word) : Dev :=
  d.when (v.getLsbD 63) fun d => d.onHall fun h => { h with faultInfo := h.faultInfo &&& ~~~((1 : Word) <<< 63) }

/-- A partition holds a live or closing BASE_MAP of a base, or a `MAPREG` past its checks that is to make one (R292, R508). -/
def Dev.mapsBase (d : Dev) (n : Nat) (r : Region) : Bool :=
  (d.regions.any fun e => e.2.st ≠ .free && e.2.kind = 2 && e.2.thread = n && meet e.2.base e.2.log2 r.base r.log2)
    || d.mapping.any fun x => x.1 = n && x.2.1 = 2 && meet x.2.2.1 x.2.2.2 r.base r.log2

/-- HALL.REGION_SHARE: bits of partitions that exist; a bit is cleared only when its partition maps the base no more. A load locks
the region against it (R292, R401, R408). -/
def Dev.shareWrite (d : Dev) (v : Word) : Dev :=
  let slot := d.hall.regionSelect
  let r := d.reg slot
  let new := v.toNat % 2 ^ d.nparts
  let held := (List.range d.nparts).any fun n => r.share.getLsbD n && !bitOf new n && d.mapsBase n r
  if r.st ≠ .live || r.kind ≠ 1 || r.loadLocked || held then d else d.setReg slot { r with share := BitVec.ofNat 32 new }

/-- HALL.REGION_RIGHTS: lowers rights, never raises one (R293). -/
def Dev.rightsWrite (d : Dev) (v : Word) : Dev :=
  let slot := d.hall.regionSelect
  let r := d.reg slot
  let dma := BitVec.ofNat 2 v.toNat
  let dbg := BitVec.ofNat 2 (v.toNat / 4)
  if r.st = .free || decide (r.dma < dma) || decide (r.dbg < dbg) then d else d.setReg slot { r with dma := dma, dbg := dbg }

/-- A register that takes its field within a range only. -/
def Dev.ranged (d : Dev) (lo hi v : Nat) (f : Hall → Hall) : Dev := d.when (decide (lo ≤ v) && decide (v ≤ hi)) fun d => d.onHall f

/-- A 64-bit write of HALL. -/
def Dev.hallWrite (d : Dev) (off : Nat) (v : Word) : Dev :=
  let x := v.toNat
  if off = 0x0018 then d.faultRelease v
  else if off = 0x0800 then d.ranged 10 1000000 (fld x 0 20) fun h => { h with chTimeout := fld x 0 20 }
  else if off = 0x0808 then d.onHall fun h => { h with chSelect := fld x 0 16 }
  else if off = 0x0828 then d.when (v.getLsbD 63) fun d => d.evict (fld x 0 16)
  else if off = 0x0830 then d.onHall fun h => { h with steerSelect := fld x 0 14 }
  else if off = 0x0838 then
    d.onHall fun h => { h with steer := tset h.steer 0 h.steerSelect (BitVec.ofNat 32 (x % 2 ^ Kind.ports d.kind)) }
  else if off = 0x0900 then d.ranged 100 65000 (fld x 0 16) fun h => { h with mergeWindow := fld x 0 16 }
  else if off = 0x0908 then d.ranged 1024 16384 (fld x 0 16) fun h => { h with mergeCredit := fld x 0 16 }
  else if off = 0x0918 then d.onHall fun h => { h with sqSelect := fld x 0 10 }
  else if off = 0x0A00 then d.onHall fun h => { h with regionSelect := fld x 0 12 }
  else if off = 0x0A20 then d.shareWrite v
  else if off = 0x0A28 then d.rightsWrite v
  else if off = 0x0C00 then d.partCtrlWrite v
  else if off = 0x0C08 then d.onHall fun h => { h with partSelect := fld x 0 5 }
  else if off = 0x0D00 then d.blockReset v
  else if off = 0x0D10 then d.ranged 20 10000 (fld x 0 16) fun h => { h with heartbeat := fld x 0 16 }
  else if 0x0D40 ≤ off ∧ off < 0x0D80 then d.deadlineWrite ((off - 0x0D40) / 8) v
  else d

/-! ## LARDER -/

def DrbgState.code : DrbgState → Nat
  | .instantiating => 0
  | .ready => 1
  | .reseeding => 2
  | .healthHold => 3
  | .failed => 4

/-- LARDER.DRBG (R107). -/
def Drbg.word (g : Drbg) (due : Bool) : Nat := DrbgState.code (if due && g.st = .ready then .reseeding else g.st) + g.fails % 4 * 2 ^ 8 + g.reseeds % 2 ^ 32 * 2 ^ 16

/-- LARDER.SLOT_STATE (R108): a shadow serves after a failure of the primary. -/
def LSlot.stateWord (l : LSlot) (k : Kind) : Nat :=
  l.st.toNat + b2n l.primaryBad * 2 ^ 4 + b2n (Kind.invoker k && l.shadowBad) * 2 ^ 5
    + b2n (Kind.invoker k && l.primaryBad && !l.shadowBad) * 2 ^ 6 + b2n l.retired * 2 ^ 7

/-- A read of LARDER. -/
def Dev.larderRead (d : Dev) (clear : Bool) (off : Nat) : Nat × Dev :=
  let l := d.larder
  if off = 0x0000 then (Kind.keySlots d.kind + b2n (Kind.invoker d.kind) * 3 * 2 ^ 16, d)
  else if off = 0x0008 then (l.pool.free + l.retiredCount * 2 ^ 16, d)
  else if off = 0x0010 then (l.fallbackCount, if clear then d.onLarder fun l => { l with fallbackCount := 0 } else d)
  else if off = 0x0018 then (l.drbg.word d.reseedDue, d)
  else if off = 0x0020 then (l.healthFails, if clear then d.onLarder fun l => { l with healthFails := 0 } else d)
  else if off = 0x0028 then (l.scrubTime, d)
  else if 0x10000 ≤ off then
    let s := (off - 0x10000) / 32
    let w := off % 32 / 8
    if Kind.keySlots d.kind ≤ s then (0, d)
    else if w = 0 then (((d.slot s).attr &&& attrBits d.kind).toNat, d)
    else if w = 1 then ((d.slot s).owner.toNat, d)
    else if w = 2 then ((d.slot s).stateWord d.kind, d)
    else (0, d)
  else (0, d)

end Sys2Proof.Machine
end

