-- ==== Sys2Proof/Machine/UnitRegs.lean ====
section
/-! DEFINITION. The registers of PORT (R171, R206, R207, R237, R265, R329), MEM (R299 to R301, R327, R328), THRESH (R356, R357), INTC
(R439, R440), COUNT (R425), ATTIC (R426), CELLAR (R467, R468), VAULT (R409, R410), HOSTPATH (R144, R360) and SIDE (R140 to R143,
R484, R485): what a read returns and does, what a write does. -/

namespace Sys2Proof.Machine

/-- Four 16-bit counts in one register. -/
def quad (a b c e : Nat) : Nat := a % 65536 + b % 65536 * 2 ^ 16 + c % 65536 * 2 ^ 32 + e % 65536 * 2 ^ 48

/-! ## PORT -/

/-- PORT.NODE is locked while any channel slot is live or any partition's domain state is not NONE (R171). -/
def Dev.nodeLocked (d : Dev) : Bool := d.chans.any (fun e => e.2.st ≠ .free) || d.parts.any fun e => e.2.dom.st ≠ .none

/-- A write of PORT.NODE through any instance. -/
def Dev.nodeWrite (d : Dev) (v : Word) : Dev :=
  if d.nodeLocked then d else d.onHall fun h => { h with node := BitVec.ofNat 14 v.toNat, nodeValid := v.getLsbD 15 }

/-- Counts of a port that a read clears, by offset: the value and the port after the clear. -/
def Port.counts (p : Port) (off : Nat) : Option (Nat × Port) :=
  if off = 0x030 then some (p.txPackets, { p with txPackets := 0 })
  else if off = 0x038 then some (p.rxPackets, { p with rxPackets := 0 })
  else if off = 0x040 then some (p.tagFails, { p with tagFails := 0 })
  else if off = 0x048 then some (p.replays, { p with replays := 0 })
  else if off = 0x050 then
    some (quad p.malformed p.noChannel p.staleEpoch p.ctrlOver, { p with malformed := 0, noChannel := 0, staleEpoch := 0, ctrlOver := 0 })
  else if off = 0x108 then
    some (quad p.sumMalformed p.sumNoContext p.sumReplay p.sumNoAcc, { p with sumMalformed := 0, sumNoContext := 0, sumReplay := 0, sumNoAcc := 0 })
  else if off = 0x110 then
    some (quad p.sumTagFails p.sumIncomplete p.sumInner 0, { p with sumTagFails := 0, sumIncomplete := 0, sumInner := 0 })
  else if off = 0x118 then some (p.sumTx, { p with sumTx := 0 })
  else if off = 0x128 then
    some (quad p.windowDrains p.markerDrains p.evictions p.overflowed, { p with windowDrains := 0, markerDrains := 0, evictions := 0, overflowed := 0 })
  else if off = 0x130 then some (p.mergeTouches, { p with mergeTouches := 0 })
  else if off = 0x140 then
    some (quad p.noSquare p.sqReplay p.noWindow p.unsolicited, { p with noSquare := 0, sqReplay := 0, noWindow := 0, unsolicited := 0 })
  else if off = 0x148 then
    some (quad p.mstoreTagFails p.lineTagFails p.readTimeouts 0, { p with mstoreTagFails := 0, lineTagFails := 0, readTimeouts := 0 })
  else if off = 0x150 then
    some (quad p.crossSealed p.crossPoison p.crossBudget p.crossRead, { p with crossSealed := 0, crossPoison := 0, crossBudget := 0, crossRead := 0 })
  else if off = 0x158 then some (quad p.crossReadOnly p.crossAttr 0 0, { p with crossReadOnly := 0, crossAttr := 0 })
  else none

/-- Kerre takes the host chip's report of a port's link training and transmit stall, which no command carries: free values (R207;
notes/assumptions/90.md). -/
def Dev.linkSample (d : Dev) (n : Nat) : Dev :=
  let r := Config.linkReport d.free n
  { d.onPort n fun p => { p with training := r.getLsbD 0, txStall := r.getLsbD 1 } with free := d.free + 1 }

/-- A read of PORT[n]. -/
def Dev.portRegs (d : Dev) (n : Nat) (clear : Bool) (off : Nat) : Nat × Dev :=
  let d := if off = 0x010 then d.linkSample n else d
  let p := d.port n
  match p.counts off with
  | some (v, p') => (v, if clear then d.onPort n fun _ => p' else d)
  | none =>
    (if off = 0x000 then n + 8 * 2 ^ 8 + Kind.portSpares d.kind * 2 ^ 12
     else if off = 0x008 then d.hall.node.toNat + b2n d.hall.nodeValid * 2 ^ 15 + b2n d.nodeLocked * 2 ^ 16
     else if off = 0x010 then b2n p.up + b2n p.training * 2 + b2n p.txStall * 4
     else if off = 0x018 then p.txLanes.toNat + p.rxLanes.toNat * 2 ^ 16 + b2n p.degraded * 2 ^ 32
     else if off = 0x020 then d.landingKib n % 65536 + p.landingHigh % 65536 * 2 ^ 16
     else if off = 0x028 then p.clearRate.toNat
     else if off = 0x100 then d.accsOpen n % 128 + p.accHigh % 128 * 2 ^ 8
     else if off = 0x120 then (d.entriesAt n).length % 512 + p.mergeHigh % 512 * 2 ^ 16
     else if off = 0x138 then
       (d.sqReads.filter fun r => r.port = n).length % 512 + (d.sqResps.filter fun r => r.port = n && !r.waiting).length % 512 * 2 ^ 16
     else 0, d)

/-- A 64-bit write of PORT[n]. -/
def Dev.portRegWrite (d : Dev) (n off : Nat) (v : Word) : Dev :=
  if off = 0x008 then d.nodeWrite v
  else if off = 0x028 then d.when (fld v.toNat 0 8 ≠ 0) fun d => d.onPort n fun p => { p with clearRate := BitVec.ofNat 8 v.toNat }
  else d

/-! ## MEM -/

/-- Spare cache ways built (R279). -/
def spareWaysBuilt (k : Kind) : Nat := (coldEngine k).spareWays.toNat

/-- Counts of an engine that a read clears, by offset. -/
def Engine.counts (e : Engine) (off : Nat) : Option (Nat × Engine) :=
  if off = 0x020 then some (e.hits, { e with hits := 0 })
  else if off = 0x028 then
    some (e.leafMisses % 2 ^ 32 + e.l1Misses % 65536 * 2 ^ 32 + e.writeWaits % 65536 * 2 ^ 48, { e with leafMisses := 0, l1Misses := 0, writeWaits := 0 })
  else if off = 0x030 then some (e.corrected % 2 ^ 32 + e.uncorrectable % 65536 * 2 ^ 32, { e with corrected := 0, uncorrectable := 0 })
  else if off = 0x038 then some (e.tagFails % 2 ^ 32 + e.nodeFails % 65536 * 2 ^ 32, { e with tagFails := 0, nodeFails := 0 })
  else if off = 0x040 then
    some (e.pagesPoisoned % 2 ^ 32 + e.nodesPoisoned % 65536 * 2 ^ 32, { e with pagesPoisoned := 0, nodesPoisoned := 0 })
  else if off = 0x048 then some (e.reencryptions % 2 ^ 32 + e.majorAdvances % 65536 * 2 ^ 32, { e with reencryptions := 0, majorAdvances := 0 })
  else if off = 0x050 then some (e.shadowUses, { e with shadowUses := 0 })
  else if off = 0x088 then
    some (e.sealed % 2 ^ 24 + e.unsealed % 2 ^ 24 * 2 ^ 24 + e.sealRefused % 65536 * 2 ^ 48, { e with sealed := 0, unsealed := 0, sealRefused := 0 })
  else if off = 0x090 then some (e.segFails % 2 ^ 32 + e.unsealFails % 65536 * 2 ^ 32, { e with segFails := 0, unsealFails := 0 })
  else none

/-- MEM.PANTRY_SPLIT (R300). -/
def Engine.splitWord (e : Engine) : Nat :=
  e.l1Ways.toNat + e.leafWays.toNat * 2 ^ 8 + e.tagWays.toNat * 2 ^ 16 + e.dirtyMax.toNat * 2 ^ 24 + e.workingWays.toNat * 2 ^ 32
    + e.spareWays.toNat * 2 ^ 40

/-- A read of MEM[m]. -/
def Dev.memRegs (d : Dev) (m : Nat) (clear : Bool) (off : Nat) : Nat × Dev :=
  let e := d.eng m
  match e.counts off with
  | some (v, e') => (v, if clear then d.setEng m e' else d)
  | none =>
    (if off = 0x000 then m + 60 * 2 ^ 8 + Kind.memSpares d.kind * 2 ^ 16 + spareWaysBuilt d.kind * 2 ^ 24
     else if off = 0x008 then e.lanes.toNat + e.sparesLeft.toNat * 2 ^ 8
     else if off = 0x010 then b2n e.hold
     else if off = 0x018 then e.splitWord
     else if off = 0x058 then e.errAddr.toNat
     else if off = 0x060 then e.errInfo.toNat
     else if off = 0x080 then e.slots.length % 1024 + e.landingHigh % 1024 * 2 ^ 16 + sat 10 e.slotWaits.length * 2 ^ 32
     else if off = 0x098 then e.segErr.toNat
     else 0, d)

/-- A write of MEM.PANTRY_SPLIT: under hold, classes within their bounds that sum to the ways in service (R281, R300). -/
def Engine.splitWrite (e : Engine) (v : Word) : Engine :=
  let x := v.toNat
  let l1 := fld x 0 5
  let leaf := fld x 8 5
  let tag := fld x 16 5
  let dirty := fld x 24 5
  if e.hold && l1 + leaf + tag = e.workingWays.toNat && decide (2 ≤ l1) && decide (l1 ≤ 8) && decide (4 ≤ leaf) && decide (leaf ≤ 20)
      && decide (4 ≤ tag) && decide (tag ≤ 20) && decide (2 ≤ dirty) && decide (dirty ≤ 16) then
    { e with l1Ways := BitVec.ofNat 5 l1, leafWays := BitVec.ofNat 5 leaf, tagWays := BitVec.ofNat 5 tag, dirtyMax := BitVec.ofNat 5 dirty }
  else e

/-- A 64-bit write of MEM[m]. -/
def Dev.memRegWrite (d : Dev) (m off : Nat) (v : Word) : Dev :=
  let top : Word := ~~~((1 : Word) <<< 63)
  if off = 0x010 then d.onEng m fun e => { e with hold := v.getLsbD 0 }
  else if off = 0x018 then d.onEng m fun e => e.splitWrite v
  else if off = 0x060 then d.when (v.getLsbD 63) fun d => d.onEng m fun e => { e with errInfo := e.errInfo &&& top }
  else if off = 0x098 then d.when (v.getLsbD 63) fun d => d.onEng m fun e => { e with segErr := e.segErr &&& top }
  else d

/-! ## THRESH -/

/-- THRESH.JOB_INFO (R357). -/
def Job.info (j : Job) : Nat :=
  if j.st = .free then 0
  else JState.code j.st + (match j.kind with
      | .rekey => 0
      | .sweep => 1) * 4 + b2n j.urgent * 2 ^ 5 + b2n j.export_ * 2 ^ 6 + b2n j.firmware * 2 ^ 7 + j.target % 4096 * 2 ^ 24
    + j.thread % 256 * 2 ^ 40 + (if j.st = .ending then j.status.toNat else 0) * 2 ^ 56

/-- Chunks a Sweep has still to write on engine m. -/
def Dev.sweepLeft (d : Dev) (i m : Nat) : Nat :=
  (d.sweepRegions (d.job i).target).foldl (fun a r =>
    let c := d.regionChunks r m
    a + (c.2 - max c.1 (tget (d.job i).boundary 0 m))) 0

/-- Pages or chunks of a job in all (R356). -/
def Dev.jobTotal (d : Dev) (i : Nat) : Nat :=
  let j := d.job i
  match j.kind with
  | .rekey => 2 ^ (d.reg j.target).log2 / 8192
  | .sweep => j.passed + (List.range (Kind.engines d.kind)).foldl (fun a m => a + d.sweepLeft i m) 0

/-- THRESH.BOUNDARY[m] of a job (R356). -/
def Dev.boundaryWord (d : Dev) (i m : Nat) : Nat :=
  let j := d.job i
  if j.st = .free ∨ Kind.engines d.kind ≤ m then 0
  else match j.kind with
    | .rekey => let n := d.rekeyNext i m; n.1 % 2 ^ 24 + b2n (decide (n.2 ≤ n.1)) * 2 ^ 24
    | .sweep => tget j.boundary 0 m % 2 ^ 24 + b2n (d.sweepNext i m).isNone * 2 ^ 24

/-- Jobs of the table with a property. -/
def Dev.jobCount (d : Dev) (f : Job → Bool) : Nat := (d.thresh.jobs.filter fun e => e.2.st ≠ .free && f e.2).length

/-- A read of THRESH. -/
def Dev.threshRead (d : Dev) (clear : Bool) (off : Nat) : Nat × Dev :=
  let t := d.thresh
  let i := t.jobSelect
  let j := d.job i
  if off = 0x0000 then (64 + 2 * 2 ^ 8 + 64 * 2 ^ 16, d)
  else if off = 0x0008 then (t.rate.toNat, d)
  else if off = 0x0010 then (d.jobCount (fun _ => true) + d.jobCount (fun j => j.urgent) * 2 ^ 8, d)
  else if off = 0x0018 then (i, d)
  else if off = 0x0020 then (j.info, d)
  else if off = 0x0028 then (if j.st = .free then 0 else j.passed % 2 ^ 32 + d.jobTotal i % 2 ^ 32 * 2 ^ 32, d)
  else if off = 0x0030 then (if j.st = .free || j.kind = .sweep then 0 else sat 45 (d.reg j.target).oldWrites, d)
  else if off = 0x0038 then
    (t.heldWrites % 2 ^ 32 + t.pressure % 65536 * 2 ^ 32, if clear then d.onThresh fun t => { t with heldWrites := 0, pressure := 0 } else d)
  else if 0x0100 ≤ off ∧ off < 0x0160 then (d.boundaryWord i ((off - 0x0100) / 8), d)
  else (0, d)

/-- A write of THRESH.RATE; one with a field out of range is ignored. -/
def Dev.rateWrite (d : Dev) (v : Word) : Dev :=
  let x := v.toNat
  let a := fld x 0 16
  let u := fld x 16 16
  let s := fld x 32 16
  d.when (decide (16 ≤ a) && decide (a ≤ 1280) && decide (a ≤ u) && decide (u ≤ 2560) && decide (1 ≤ s) && decide (s ≤ 200)) fun d =>
    d.onThresh fun t => { t with rate := BitVec.ofNat 64 (fld x 0 48) }

/-- A 64-bit write of THRESH. -/
def Dev.threshWrite (d : Dev) (off : Nat) (v : Word) : Dev :=
  if off = 0x0008 then d.rateWrite v
  else if off = 0x0018 then d.onThresh fun t => { t with jobSelect := fld v.toNat 0 6 }
  else d

/-! ## INTC -/

/-- Word w of a 256-bit register. -/
def word256 (b : BitVec 256) (w : Nat) : Nat := fld b.toNat (64 * w) 64

/-- A read of INTC. -/
def Dev.intcRead (d : Dev) (clear : Bool) (off : Nat) : Nat × Dev :=
  let c := d.intc
  let live := presentBits d.kind
  if off = 0x0000 then (256 + 8 * 2 ^ 16, d)
  else if off = 0x0008 then (c.stuckTime, d)
  else if off = 0x0010 then
    (quad c.stormTrips c.stuckTrips c.eoiMismatch c.lockedWrites,
     if clear then d.onIntc fun c => { c with stormTrips := 0, stuckTrips := 0, eoiMismatch := 0, lockedWrites := 0 } else d)
  else if 0x0040 ≤ off ∧ off < 0x0080 then ((tget c.tgtCtrl 0 ((off - 0x0040) / 8)).toNat, d)
  else if 0x0080 ≤ off ∧ off < 0x00C0 then
    let s := tget c.serving 0 ((off - 0x0080) / 8)
    (if s = 0 then 0 else s - 1 + 2 ^ 8, d)
  else if 0x0100 ≤ off ∧ off < 0x0140 then (word256 (c.mask &&& live) (off % 0x20 / 8), d)
  else if 0x0140 ≤ off ∧ off < 0x0180 then (word256 c.pend (off % 0x20 / 8), d)
  else if 0x0180 ≤ off ∧ off < 0x01A0 then (word256 c.guardFlag (off % 0x20 / 8), d)
  else if 0x01A0 ≤ off ∧ off < 0x01C0 then (word256 c.rawBits (off % 0x20 / 8), d)
  else if 0x1000 ≤ off ∧ off < 0x1800 then ((c.targetWord d.kind ((off - 0x1000) / 8)).toNat, d)
  else if 0x2000 ≤ off ∧ off < 0x2400 then (tget c.stormLimit 0x3E8 (128 + (off - 0x2000) / 8), d)
  else (0, d)

/-- A 64-bit write of INTC. -/
def Dev.intcWrite (d : Dev) (off : Nat) (v : Word) : Dev :=
  let w := off % 0x20 / 8
  let n := fld v.toNat 0 16
  if off = 0x0008 then d.when (decide (1 ≤ n) && decide (n ≤ 60000)) fun d => d.onIntc fun c => { c with stuckTime := n }
  else if 0x0040 ≤ off ∧ off < 0x0080 then d.tgtCtrlWrite ((off - 0x0040) / 8) v
  else if 0x00C0 ≤ off ∧ off < 0x0100 then d.eoi ((off - 0x00C0) / 8) v
  else if 0x0100 ≤ off ∧ off < 0x0120 then d.maskSet w v
  else if 0x0120 ≤ off ∧ off < 0x0140 then d.maskClr w v
  else if 0x0140 ≤ off ∧ off < 0x0160 then d.pendSet w v
  else if 0x0160 ≤ off ∧ off < 0x0180 then d.pendClr w v
  else if 0x0180 ≤ off ∧ off < 0x01A0 then d.onIntc fun c => { c with guardFlag := c.guardFlag &&& ~~~(wordBits w v) }
  else if 0x1000 ≤ off ∧ off < 0x1800 then d.targetWrite ((off - 0x1000) / 8) v
  else if 0x2000 ≤ off ∧ off < 0x2400 then
    d.when (n ≠ 0) fun d => d.onIntc fun c => { c with stormLimit := tset c.stormLimit 0x3E8 (128 + (off - 0x2000) / 8) n }
  else d

/-! ## COUNT and ATTIC -/

/-- A read of COUNT. -/
def Dev.countWindow (d : Dev) (off : Nat) : Nat :=
  let c := d.count
  if off = 0x0000 then 16 + 512 * 2 ^ 16
  else if off = 0x0010 then c.snaps
  else if off = 0x0018 then c.time
  else if off = 0x0020 then c.rolled.toNat
  else if 0x1000 ≤ off ∧ off < 0x2000 then tget c.global 0 ((off - 0x1000) / 8)
  else if 0x2000 ≤ off ∧ off < 0x3000 then tget c.globalSnap 0 ((off - 0x2000) / 8)
  else if 0x4000 ≤ off ∧ off < 0x4000 + 128 * d.nparts then ((d.part ((off - 0x4000) / 128)).sample d.time (off % 128 / 8)).1
  else if 0x5000 ≤ off ∧ off < 0x5000 + 128 * d.nparts then tget c.partSnap 0 ((off - 0x5000) / 8)
  else 0

/-- A read of ATTIC. -/
def Dev.atticRegs (d : Dev) (req : Nat) (clear : Bool) (off : Nat) : Nat × Dev :=
  let a := d.attic
  if off = 0x0000 then (65536 + 32 * 2 ^ 32, d)
  else if off = 0x0008 then (a.ctrl.toNat, d)
  else if off = 0x0010 then (a.head, d)
  else if off = 0x0018 then (a.cursor, d)
  else if 0x0020 ≤ off ∧ off < 0x0040 then let (v, d) := d.recRead none req ((off - 0x0020) / 8); (v.toNat, d)
  else if off = 0x0040 then
    (a.dropped % 2 ^ 32 + a.skipped % 2 ^ 32 * 2 ^ 32, if clear then d.onAttic fun a => { a with dropped := 0, skipped := 0 } else d)
  else if off = 0x0048 then (a.base.toNat, d)
  else if off = 0x0050 then (a.size, d)
  else if off = 0x0058 then (a.blocks, d)
  else if off = 0x0060 then (a.mask.toNat, d)
  else (0, d)

/-- A 64-bit write of ATTIC. -/
def Dev.atticRegWrite (d : Dev) (off : Nat) (v : Word) : Dev :=
  let x := v.toNat
  if off = 0x0008 then d.onAttic fun a => { a with ctrl := BitVec.ofNat 3 x }
  else if off = 0x0018 then d.onAttic fun a => { a with cursor := x }
  else if off = 0x0048 then d.when (fld x 0 12 = 0) fun d => d.onAttic fun a => { a with base := v }
  else if off = 0x0050 then d.when (decide (fld x 0 5 ≤ 20)) fun d => d.onAttic fun a => { a with size := fld x 0 5 }
  else if off = 0x0060 then d.onAttic fun a => { a with mask := BitVec.ofNat 7 x }
  else d

/-! ## CELLAR and VAULT -/

/-- A read of CELLAR: CHECK_COUNT is cleared by it. -/
def Dev.cellarWindow (d : Dev) (clear : Bool) (off : Nat) : Nat × Dev :=
  (d.cellarReg off, if off = 0x0038 && clear then d.onCellar fun c => { c with checks := 0 } else d)

/-- A read of VAULT (R409). -/
def Dev.vaultRegs (d : Dev) (clear : Bool) (off : Nat) : Nat × Dev :=
  let v := d.vault
  if off = 0x0000 then (8192 + 64 * 2 ^ 16 + 4 * 2 ^ 32, d)
  else if off = 0x0008 then (v.status, d)
  else if off = 0x0010 then (v.serial.toNat, d)
  else if off = 0x0018 then (v.counts, d)
  else if off = 0x0020 then (v.pairing, d)
  else if off = 0x0028 then (v.manifestId.toNat, d)
  else if off = 0x0030 then
    (match v.loads with
     | l :: _ => if v.loadRunning then l.entry % 65536 + v.shardsWritten % 2 ^ 32 * 2 ^ 16 + v.retries % 4 * 2 ^ 48 else 0
     | [] => 0, d)
  else if off = 0x0038 then
    (v.shards % 2 ^ 32 + v.shardTagFails % 65536 * 2 ^ 32 + v.shardLate % 65536 * 2 ^ 48,
     if clear then d.onVault fun v => { v with shards := 0, shardTagFails := 0, shardLate := 0 } else d)
  else if off = 0x0040 then (v.progAddr.toNat, d)
  else if off = 0x0048 then (v.progStatus.toNat + v.progBytes / 65536 * 2 ^ 8, d)
  else (0, d)

/-! ## HOSTPATH and SIDE -/

/-- A read of HOSTPATH (R144, R360). -/
def Dev.hostRegs (d : Dev) (clear : Bool) (off : Nat) : Nat × Dev :=
  let h := d.host
  if off = 0x0000 then (b2n (!(tget d.mgmt.chains [] 0).isEmpty) + b2n (!(tget d.mgmt.chains [] 1).isEmpty) * 2, d)
  else if 0x0100 ≤ off ∧ off < 0x0100 + 8 * d.nparts then (TdiState.code (d.part ((off - 0x0100) / 8)).tdi, d)
  else if 0x0400 ≤ off ∧ off < 0x0600 then
    let s := tget h.streams {} ((off - 0x0400) / 8)
    (s.id.toNat + b2n s.programmed * 2 ^ 8 + b2n s.activeSet * 2 ^ 9 + b2n s.running * 2 ^ 10, d)
  else if off = 0x0800 then (h.lookup.length % 512 + h.invalidating.length % 512 * 2 ^ 16, d)
  else if off = 0x0808 then (h.invals, if clear then d.onHost fun h => { h with invals := 0 } else d)
  else if off = 0x0810 then
    (h.pagesOut % 2 ^ 32 + h.pagesIn % 2 ^ 32 * 2 ^ 32, if clear then d.onHost fun h => { h with pagesOut := 0, pagesIn := 0 } else d)
  else if off = 0x0818 then
    (quad h.replays h.tagFails h.malformed 0, if clear then d.onHost fun h => { h with replays := 0, tagFails := 0, malformed := 0 } else d)
  else (0, d)

def Presence.code : Presence → Nat
  | .idle => 0
  | .held => 1
  | .lockout => 2

/-- Sessions live on the DOE instances or on the management port (R140). -/
def Dev.sessionsOn (d : Dev) (mgmt : Bool) : Nat := (d.host.sessions.filter fun s => decide (s.port = .management) = mgmt).length

/-- A read of SIDE (R140, R484). -/
def Dev.sideRead (d : Dev) (clear : Bool) (off : Nat) : Nat × Dev :=
  let m := d.mgmt
  let p := d.power
  if off = 0x0000 then (d.sideLc.toNat, d)
  else if off = 0x0008 then (d.fuseStatus.toNat, d)
  else if off = 0x0010 then (Presence.code m.presence + b2n m.lineLow * 2 ^ 3 + b2n d.tokenLive * 2 ^ 4, d)
  else if off = 0x0018 then (m.armedAt, d)
  else if off = 0x0020 then
    (m.armedCount + m.lockouts * 2 ^ 16, if clear then d.onMgmt fun m => { m with armedCount := 0, lockouts := 0 } else d)
  else if off = 0x0028 then (Config.iana.toNat + m.eid.toNat * 2 ^ 32, d)
  else if off = 0x0030 then (d.sessionsOn false + d.sessionsOn true * 2 ^ 8, d)
  else if off = 0x1000 then (d.pwrInfo, d)
  else if off = 0x1008 then (d.pwrState, d)
  else if off = 0x1010 then (d.reqBits p.req, d)
  else if off = 0x1018 then (d.reqBits p.refused, d)
  else if off = 0x1020 then
    (p.late + p.ideLate * 2 ^ 16, if clear then d.onPower fun p => { p with late := 0, ideLate := 0 } else d)
  else if off = 0x1028 then (b2n p.spread, d)
  else if 0x1100 ≤ off ∧ off < 0x1200 then (d.islandWord ((off - 0x1100) / 8), d)
  else if 0x1200 ≤ off ∧ off < 0x1300 then
    let n := (off - 0x1200) / 8
    (if laneIsland d.kind n then (d.pdom n).floor.toNat else 0, d)
  else if off = 0x1400 then (p.budget.toNat + p.epochs * 2 ^ 32, d)
  else if off = 0x1408 then (if p.unlimited then 2 ^ 32 - 1 else p.tokens, d)
  else if off = 0x1410 then (p.missed, if clear then d.onPower fun p => { p with missed := 0 } else d)
  else if off = 0x1418 then (p.spent, if clear then d.onPower fun p => { p with spent := 0 } else d)
  else if off = 0x1420 then (p.cost.toNat, d)
  else if off = 0x1428 then (p.urgentFloor, d)
  else if off = 0x1430 then (p.ageLimit, d)
  else if off = 0x1438 then
    let j := d.job d.thresh.jobSelect
    (j.age % 2 ^ 32 + b2n j.byAge * 2 ^ 32, d)
  else (0, d)

/-- A 64-bit write of SIDE. -/
def Dev.sideWrite (d : Dev) (off : Nat) (v : Word) : Dev :=
  if off = 0x1010 then d.pwrReqWrite v
  else if off = 0x1018 then d.onPower fun p => { p with refused := p.refused &&& ~~~(BitVec.ofNat 28 v.toNat) }
  else if off = 0x1028 then d.spreadWrite v
  else if 0x1200 ≤ off ∧ off < 0x1300 then d.floorWrite ((off - 0x1200) / 8) v
  else if off = 0x1420 then d.costWrite v
  else if off = 0x1428 then d.urgentWrite v
  else if off = 0x1430 then d.ageWrite v
  else d

end Sys2Proof.Machine
end

