-- ==== Sys2Proof/Machine/RegPort.lean ====
section
/-! DEFINITION. The register port (R14, R15, R24 to R40): windows, who may reach them, the one fault an access is given, reads, writes,
and the offsets at which commands of their own write or read. -/

namespace Sys2Proof.Machine

/-! ## Windows (R14, R15) -/

/-- A window. -/
inductive Win where
  | floor | hall | porch (thread : Nat) | larder | port (p : Nat) | mem (m : Nat)
  | thresh | intc | count | attic | cellar | vault | hostpath | side
  deriving DecidableEq, Repr

/-- Base of thread n's Porch; the manager's lies behind the last partition's. -/
def porchBase (n : Nat) : Nat := 0x1000000 + 0x40000 * n

/-- The window an aperture offset falls in, with the offset inside it; none where it is unmapped. The manager's Porch has the number
of its thread. -/
def windowOf (k : Kind) (off : Nat) : Option (Win × Nat) :=
  if off < 0x10000 then some (.floor, off)
  else if off < 0x20000 then some (.hall, off - 0x10000)
  else if off < 0x1000000 then none
  else if off < porchBase (Kind.parts k + 1) then some (.porch ((off - 0x1000000) / 0x40000), off % 0x40000)
  else if off < 0x2000000 then none
  else if off < 0x2100000 then some (.larder, off - 0x2000000)
  else if off < 0x2100000 + 0x1000 * Kind.ports k then some (.port ((off - 0x2100000) / 0x1000), off % 0x1000)
  else if off < 0x2300000 then none
  else if off < 0x2300000 + 0x1000 * Kind.engines k then some (.mem ((off - 0x2300000) / 0x1000), off % 0x1000)
  else if off < 0x2400000 then none
  else if off < 0x2500000 then some (.thresh, off - 0x2400000)
  else if off < 0x2600000 then some (.intc, off - 0x2500000)
  else if off < 0x2700000 then some (.count, off - 0x2600000)
  else if off < 0x2800000 then some (.attic, off - 0x2700000)
  else if off < 0x2900000 then some (.cellar, off - 0x2800000)
  else if off < 0x2A00000 then some (.vault, off - 0x2900000)
  else if off < 0x2B00000 then some (.hostpath, off - 0x2A00000)
  else if off < 0x2C00000 then some (.side, off - 0x2B00000)
  else none

/-! ## Rights (R32, R35) -/

/-- The thread whose Porch a window is. -/
def Win.porchOf : Win → Option Nat
  | .porch n => some n
  | _ => none

/-- The manager's rights: no partition's Porch, and the Floor and the Larder to read. -/
def Dev.managerAccess (d : Dev) (w : Win) (write : Bool) : Bool :=
  match w.porchOf with
  | some n => n = d.mgr
  | none => !write || (w ≠ .floor && w ≠ .larder)

/-- A partition's rights: its own Porch while it is bound, and the Floor to read. -/
def Dev.partAccess (d : Dev) (idx : Nat) (w : Win) (write : Bool) : Bool :=
  match w.porchOf with
  | some n => n = idx && decide (n < d.nparts) && (d.part n).bound
  | none => !write && w = .floor

/-- Whether a requester may read, or write, a window. -/
def Dev.mayAccess (d : Dev) (r : Requester) (w : Win) (write : Bool) : Bool :=
  if r.cls = 0 then d.managerAccess w write
  else if r.cls = 1 then d.partAccess r.idx.toNat w write
  else if r.cls = 2 then !write && (w = .floor || d.lc = .debug)
  else false

/-- The window's island is on. -/
def Dev.windowOn (d : Dev) (w : Win) : Bool := match w with
  | .port p => d.powered (d.portDomain p)
  | .mem m => d.powered (d.engDomain m)
  | .attic => d.powered 3
  | .vault => d.powered 4
  | _ => true

/-! ## Faults (R26, R29, R34, R36, R39, R40) -/

/-- The one fault kind an access is given: the first that applies in the order SIZE, ALIGN, NOT_READY, UNMAPPED, DENIED, ROW_HALF.
Sizes are in bytes. -/
def Dev.portFault (d : Dev) (r : Requester) (write : Bool) (off size : Nat) : Option PortFault :=
  if !(size = 8 || (write && size = 16)) then some .size
  else if off % size ≠ 0 then some .align
  else if d.reset.status ≠ 1 && !(decide (off < 0x10000) || (!write && off = 0x10000)) then some .notReady
  else match windowOf d.kind off with
    | none => some .unmapped
    | some (w, o) =>
      if !d.mayAccess r w write then some .denied
      else match w with
        | .porch _ => if write && size = 8 && porchWide o then some .rowHalf else none
        | _ => none

/-- HALL.PORT_FAULT_INFO of a captured fault. -/
def faultInfoWord (r : Requester) (write : Bool) (f : PortFault) : Word :=
  BitVec.ofNat 64 (2 ^ 63 + PortFault.code f * 2 ^ 16 + b2n write * 2 ^ 15 + r.cls.toNat * 2 ^ 8 + r.idx.toNat)

/-- A fault is counted, captured if none is held, and raises source 5 unless the offset is unmapped. -/
def Dev.faulted (d : Dev) (r : Requester) (write : Bool) (off : Nat) (f : PortFault) : Dev :=
  let d := d.onHall fun h =>
    let h := { h with faultCount := sat 32 (h.faultCount + 1) }
    if h.faultInfo.getLsbD 63 then h
    else { h with faultAddr := BitVec.ofNat 26 off, faultInfo := faultInfoWord r write f }
  if f = .unmapped then d else d.raise 5

/-! ## Accesses -/

/-- A read of a window. -/
def Dev.winRead (d : Dev) (r : Requester) (w : Win) (off : Nat) : Nat × Dev :=
  let clear := r.cls ≠ 2
  match w with
  | .floor => ((floorRead d.kind off).toNat, d)
  | .hall => d.hallRead clear off
  | .porch n => d.porchRead n (reqKey r) clear off
  | .larder => d.larderRead clear off
  | .port p => d.portRegs p clear off
  | .mem m => d.memRegs m clear off
  | .thresh => d.threshRead clear off
  | .intc => d.intcRead clear off
  | .count => (d.countWindow off, d)
  | .attic => d.atticRegs (reqKey r) clear off
  | .cellar => d.cellarWindow clear off
  | .vault => d.vaultRegs clear off
  | .hostpath => d.hostRegs clear off
  | .side => d.sideRead clear off

/-- A 64-bit write of a window. -/
def Dev.winWrite (d : Dev) (w : Win) (off : Nat) (v : Word) : Dev :=
  match w with
  | .hall => d.hallWrite off v
  | .porch n => d.porchWrite n off v
  | .port p => d.portRegWrite p off v
  | .mem m => d.memRegWrite m off v
  | .thresh => d.threshWrite off v
  | .intc => d.intcWrite off v
  | .count => if off = 0x0008 && v.getLsbD 63 then d.latchAll else d
  | .attic => d.atticRegWrite off v
  | .cellar => if off = 0x0028 && v.getLsbD 63 then d.dumpFree else d
  | .vault => if off = 0x0040 && fld v.toNat 0 16 = 0 then d.onVault fun x => { x with progAddr := v } else d
  | .side => d.sideWrite off v
  | .floor | .larder | .hostpath => d

/-- A write of one access: a 128-bit write of two 64-bit registers writes the lower first (R28). -/
def Dev.winWriteN (d : Dev) (w : Win) (off size : Nat) (v : BitVec 128) : Dev :=
  if size = 8 then d.winWrite w off (v.setWidth 64)
  else match w with
    | .porch n => d.porchWrite128 n off v
    | _ => (d.winWrite w off (v.setWidth 64)).winWrite w (off + 8) ((v >>> 64).setWidth 64)

/-- A read access: what it returns and whether it signals the error response (R36). -/
def Dev.portRead (d : Dev) (r : Requester) (off size : Nat) : Dev :=
  if d.reset.frozen then d
  else match d.portFault r false off size with
    | some f => (d.faulted r false off f).emit (.regRead 0 (f ≠ .unmapped))
    | none =>
      match windowOf d.kind off with
      | none => d
      | some (w, o) =>
        if !d.windowOn w then d.emit (.regRead 0 false)
        else
          let (v, d) := d.winRead r w o
          d.emit (.regRead (BitVec.ofNat 64 v) false)

/-- A write access. -/
def Dev.portWrite (d : Dev) (r : Requester) (off size : Nat) (v : BitVec 128) : Dev :=
  if d.reset.frozen then d
  else match d.portFault r true off size with
    | some f => (d.faulted r true off f).emit (.regWrite (f ≠ .unmapped))
    | none =>
      match windowOf d.kind off with
      | none => d
      | some (w, o) => (if d.windowOn w then d.winWriteN w o size v else d).emit (.regWrite false)

/-- A 64-bit write access. -/
def Dev.portWrite64 (d : Dev) (r : Requester) (off : Nat) (v : Word) : Dev := d.portWrite r off 8 (v.setWidth 128)

/-! ## Offsets of registers with a behaviour of their own -/

def hallAt (off : Nat) : Nat := 0x10000 + off
def portAt (p off : Nat) : Nat := 0x2100000 + 0x1000 * p + off
def memAt (m off : Nat) : Nat := 0x2300000 + 0x1000 * m + off
def porchAt (n off : Nat) : Nat := porchBase n + off
def intcAt (off : Nat) : Nat := 0x2500000 + off
def countAt (off : Nat) : Nat := 0x2600000 + off
def atticAt (off : Nat) : Nat := 0x2700000 + off
def cellarAt (off : Nat) : Nat := 0x2800000 + off
def sideAt (off : Nat) : Nat := 0x2B00000 + off

/-- The register that acts on bit 63. -/
def topBit : Word := (1 : Word) <<< 63

/-- A slot of a mailbox as its sender reaches it: the tenant its own outbound slots, the manager the selected inbound ones (R370). -/
def mbxAt (k : Kind) (outbound : Bool) (part slot : Nat) : Nat :=
  if outbound then porchAt part (0x8000 + 256 * slot) else porchAt (Kind.parts k) (0x9000 + 256 * slot)

/-- A word of ATTIC_REC as a thread's Porch shows it; the manager's is ATTIC.REC (R420, R424, R426). -/
def recAt (k : Kind) (thread w : Nat) : Nat := if thread < Kind.parts k then porchAt thread (0x5020 + 8 * w) else atticAt (0x20 + 8 * w)

end Sys2Proof.Machine
end

