-- ==== Sys2Proof/Machine/MemPort.lean ====
section
/-! DEFINITION. What reaches a memory engine from outside and what it does at its own times: network-stream accesses (R282,
R492), stack read responses (R491), Landing slot grants (R315), the adaptive split of the Pantry (R281), write-ahead (R480);
a full port Landing (R427) and the addresses of the management bus (R140, R496). -/

namespace Sys2Proof.Machine

/-- An engine takes part: the block serves and the engine's domain is on (R472). -/
def Dev.engOpen (d : Dev) (m : Nat) : Bool := d.ready && d.powered (d.engDomain m)

/-- An access on a network stream; an engine that is off withholds ready (R472). -/
def Dev.netAccess (d : Dev) (m : Nat) (hdr : BitVec 256) (write : Bool) (payload : Bytes) : Dev :=
  if d.engOpen m then (d.access m (AccHead.of hdr) write payload).pump else d

/-! ## Stack read responses (R491) -/

/-- Hand a line that has come to an operation that awaits it. -/
def MemOp.deliver (op : MemOp) (k : Nat) (v : Line) (bads : List Nat) : MemOp :=
  if op.wants.contains k then
    { op with got := tset op.got 0 k v, bad := op.bad ++ bads.map (4 * k + ·), wants := op.wants.filter (· ≠ k) }
  else op

/-- A line with its check bits arrives for a tag: one symbol in error of each granule corrected and counted, the granules that
are beyond it marked; a status other than zero marks them all (R270, R491; notes/assumptions/48.md). A tag that no read has is
discarded. -/
def Dev.stackArrive (d : Dev) (m : Nat) (tag : BitVec 12) (line check : Bytes) (status : BitVec 4) : Dev :=
  match (d.eng m).reads.find? fun r => r.tag = tag with
  | none => d
  | some r =>
    let k := gkey m r.line
    let (v, fixed, bads) := if status = 0 then lineDecode line check else (bytesLine line, 0, [0, 1, 2, 3])
    let d := d.onEng m fun e => { e with reads := e.reads.filter fun x => x.tag ≠ tag, corrected := sat 32 (e.corrected + fixed) }
    let d := d.issueReads 1 m
    (d.engines.foldl (fun d e =>
      if e.2.ops.any fun op => op.wants.contains k then
        d.onEng e.1 fun x => { x with ops := x.ops.map fun op => op.deliver k v bads }
      else d) d).pump

/-! ## Landing slots (R315) -/

/-- The first waiting read, in arrival order, that may have a slot. -/
def Dev.nextWaiting (d : Dev) (m : Nat) : Option SlotWait := (d.eng m).slotWaits.find? fun w => d.slotFree m w.part

/-- The first of the waiting reads that may have one takes a free slot. -/
def Dev.landingGrant (d : Dev) (m : Nat) : Dev :=
  match d.nextWaiting m with
  | none => d
  | some w => (d.takeLanding m w).pump

/-! ## The Pantry's split (R281) -/

/-- Ways of class i (0 level-1, 1 leaves, 2 tag lines), with its bounds. -/
def Engine.classWays (e : Engine) (i : Nat) : Nat × Nat × Nat :=
  match i with
  | 0 => (e.l1Ways.toNat, 2, 8)
  | 1 => (e.leafWays.toNat, 4, 20)
  | _ => (e.tagWays.toNat, 4, 20)

def Engine.setWays (e : Engine) (i n : Nat) : Engine :=
  match i with
  | 0 => { e with l1Ways := BitVec.ofNat 5 n }
  | 1 => { e with leafWays := BitVec.ofNat 5 n }
  | _ => { e with tagWays := BitVec.ofNat 5 n }

/-- One of the three numbers of an interval. -/
def pick (x : Nat × Nat × Nat) (i : Nat) : Nat :=
  match i with
  | 0 => x.1
  | 1 => x.2.1
  | _ => x.2.2

/-- The misses each class saved, scaled so that they compare per way: each by the ways of the other two. -/
def Engine.savedPerWay (e : Engine) : Nat × Nat × Nat :=
  let l := e.l1Ways.toNat
  let f := e.leafWays.toNat
  let t := e.tagWays.toNat
  (e.stats.saved.1 * (f * t), e.stats.saved.2.1 * (l * t), e.stats.saved.2.2 * (l * f))

/-- The class whose number is least. R281 leaves a tie open: the command says from which class on the first one is taken
(notes/assumptions/63.md). -/
def leastOf (first : Nat) (x : Nat × Nat × Nat) : Nat :=
  let order := [first % 3, (first + 1) % 3, (first + 2) % 3]
  (order.find? fun i => order.all fun j => decide (pick x i ≤ pick x j)).getD 0

/-- The class whose number is greatest, a tie broken likewise. -/
def mostOf (first : Nat) (x : Nat × Nat × Nat) : Nat :=
  let order := [first % 3, (first + 1) % 3, (first + 2) % 3]
  (order.find? fun i => order.all fun j => decide (pick x j ≤ pick x i)).getD 0

/-- The dirty ceiling after an interval. -/
def ceiling (n : Nat) (s : PantryStats) : Nat :=
  let n := if 0 < s.writeWaits then min 16 (n + 1) else n
  if s.writeWaits < s.leafMisses then max 2 (n - 1) else n

/-- The engine adjusts its split by what the interval measured, unless it is held. -/
def Engine.adjust (e : Engine) (ties : Nat × Nat) : Engine :=
  if e.hold then e
  else
    let i := leastOf ties.1 e.savedPerWay
    let j := mostOf ties.2 e.stats.missed
    let (a, lo, _) := e.classWays i
    let (b, _, hi) := e.classWays j
    let dirty := ceiling e.dirtyMax.toNat e.stats
    let e := if i ≠ j ∧ lo < a ∧ b < hi then (e.setWays i (a - 1)).setWays j (b + 1) else e
    { e with dirtyMax := BitVec.ofNat 5 dirty }

/-- Length of an interval in ns of house time (R281). -/
def pantryInterval : Nat := 16000

/-- At a boundary of 16 us of house time the engine adjusts its split, and the next interval's measures start at zero. -/
def Dev.pantryAdjust (d : Dev) (m : Nat) (ties : Nat × Nat) : Dev :=
  if d.engOpen m && decide ((d.eng m).interval < d.time / pantryInterval) then
    d.onEng m fun e => { e.adjust ties with stats := {}, interval := d.time / pantryInterval }
  else d

/-! ## Write-ahead (R480) -/

/-- The protected line a dirty entry belongs to: a leaf's page, a node's first page, a tag line's first line. -/
def Dev.entryLine (d : Dev) (m : Nat) (x : PEntry) : Nat :=
  match x.cls with
  | .leaf => d.pageLine m (x.line - leafLine 0)
  | .level1 => d.pageLine m (64 * (x.line - l1Line 0))
  | .tagLine => d.pageLine m ((x.line - tagLineOf 0) * 16 / 64)

/-- Write an entry back; none where that needs a line from the stack first. -/
def Dev.ahead (d : Dev) (m : Nat) (x : PEntry) : Option Dev :=
  let a := d.entryLine m x
  let op : MemOp := { origin := .vault, act := .read false, addr := a, part := d.mgr, region := (d.anyRegionAt a).getD 0 }
  match (writeBack op m x).run d with
  | .ok (_, d') => some d'
  | .error _ => none

/-- One dirty entry is written ahead of its eviction: the least recently used one whose parent is at hand, when tokens allow
(notes/assumptions/49.md). -/
def Dev.writeAhead (d : Dev) (m : Nat) : Dev :=
  if !d.engOpen m then d
  else
    let dirty := (d.eng m).pantry.filter PEntry.dirty
    match (lruOf dirty.length dirty).findSome? fun x => d.ahead m x with
    | none => d
    | some d' =>
      match d'.takeTokens d'.aheadCost false with
      | none => d
      | some d'' => d''.pump

/-! ## A port's Landing, and the management bus -/

/-- A port's Landing has stayed full for 1 us (R427). -/
def Dev.landingFull (d : Dev) (p : Nat) : Dev := if d.portOpen p then d.raise (96 + p) else d

/-- The I3C controller assigns a dynamic address (R496). -/
def Dev.assignAddress (d : Dev) (a : BitVec 7) : Dev :=
  if d.mgmt.i3c then d.onMgmt fun m => { m with dynamic := some a } else d

/-- The bus owner assigns an endpoint ID (R140). -/
def Dev.assignEid (d : Dev) (e : Byte) : Dev := d.onMgmt fun m => { m with eid := e }

end Sys2Proof.Machine
end

