-- ==== Sys2Proof/Machine/Waiting.lean ====
section
/-! DEFINITION. Generate requests that waited while the DRBG did not serve (R79, R80) are made again once it does. -/

namespace Sys2Proof.Machine

/-- Make a request that waited again. -/
def Dev.drawAgain (r : DrawReq) (d : Dev) : Dev :=
  match r with
  | .answer sess code seq st body => d.mgmtReply sess code seq st body
  | .provision sess msg => d.provision sess msg
  | .challenge at_ slot nonce => d.challenge at_ slot nonce
  | .keyExchange at_ reqId transcript => d.keyExchange at_ reqId transcript
  | .bind part quiet => if quiet then d.startBind part true else d.startInterface part
  | .hello => d.sayHello
  | .pair ident => d.vpair ident
  | .restore thread row blob => d.blobRead thread row blob true
  | .powerOn n => if (d.pdom n).st = .turningOn then d.domainOn n else d

/-- Make every request that waited again, oldest first; one that still cannot be served waits on. -/
def Dev.drawsAgain (d : Dev) : Dev := forEach d.drawWait Dev.drawAgain { d with drawWait := [] }

end Sys2Proof.Machine
end

