-- ==== Sys2Proof/Machine/Units.lean ====
section
/-! DEFINITION. The frames in which commands on one unit run: a thread, a partition, a port, an engine; a register of the port;
work that goes on only while the block is READY (R34, R38, R444). -/

namespace Sys2Proof.Machine

/-- What goes on only while the block is READY and not frozen. -/
def Dev.whileReady (d : Dev) (f : Dev → Dev) : Dev := if d.ready then f d else d

/-- A command on a thread: a partition's or the manager's (R41). -/
def State.onThread (s : State) (now thread : Nat) (f : Dev → Dev) : Host.Outcome State Fault Refusal :=
  s.runUnit now (decide (thread ≤ Kind.parts s.dev.kind)) f

/-- A command on a partition. -/
def State.onPart (s : State) (now part : Nat) (f : Dev → Dev) : Host.Outcome State Fault Refusal :=
  s.runUnit now (decide (part < Kind.parts s.dev.kind)) f

/-- A command on a port. -/
def State.onPort (s : State) (now port : Nat) (f : Dev → Dev) : Host.Outcome State Fault Refusal :=
  s.runUnit now (decide (port < Kind.ports s.dev.kind)) f

/-- A command on a memory engine. -/
def State.onEngine (s : State) (now engine : Nat) (f : Dev → Dev) : Host.Outcome State Fault Refusal :=
  s.runUnit now (decide (engine < Kind.engines s.dev.kind)) f

/-- The reserved slots whose keys a thread's step of an opcode loads (R86). -/
def Opc.loads (thread : Nat) : Opc → List Nat
  | .chopen | .chepoch | .sqjoin | .domjoin | .domlead => [8 + thread]
  | .mapreg | .rekey => [3]
  | .pageout | .pagein => [40 + thread]
  | .vopen => [1]
  | .vload => [3]
  | _ => []

/-- The block with the reserved keys a step loads verified: one that fails is retired first (R86, R89). -/
def Dev.loading (d : Dev) (thread row : Nat) (op : Opc) : Dev :=
  if (d.flight thread row).any fun x => x.stage = .dispatched && (Step.of x.step).op = some op then
    d.verifyReserved ((op.loads thread).filter fun i => decide (i < 8) || decide (thread < d.nparts))
  else d

/-- A dispatched step of an opcode at its engine (R50, R59). -/
def State.atEngine (s : State) (now thread row : Nat) (op : Opc) (f : Flight → Dev → Dev) : Host.Outcome State Fault Refusal :=
  s.onThread now thread fun d => (d.loading thread row op).runStep thread row op f

/-- The same for an opcode whose engine moves memory, or frees what others wait for. -/
def State.atMemory (s : State) (now thread row : Nat) (op : Opc) (f : Flight → Dev → Dev) : Host.Outcome State Fault Refusal :=
  s.onThread now thread fun d => ((d.loading thread row op).runStep thread row op f).pump

/-- A dispatched step of the public-key engine (R103, R105; notes/assumptions/50.md). -/
def State.atPke (s : State) (now thread row : Nat) (op : Opc) (f : Flight → Dev → Dev) : Host.Outcome State Fault Refusal :=
  s.onThread now thread fun d => d.runPke thread row op f

/-- A 64-bit write of a register of the port. -/
def Dev.regWrite (d : Dev) (r : Requester) (off : Nat) (v : Word) : Dev := d.portWrite64 r off v

/-- A 64-bit write of a register that frees what others wait for. -/
def Dev.regAct (d : Dev) (r : Requester) (off : Nat) (v : Word) : Dev := (d.portWrite64 r off v).pump

/-- A 64-bit read of a register of the port. -/
def Dev.regRead (d : Dev) (r : Requester) (off : Nat) : Dev := d.portRead r off 8

/-- A write of a register of one of the fixed windows. -/
def State.write (s : State) (now : Nat) (r : Requester) (off : Nat) (v : Word) : Host.Outcome State Fault Refusal :=
  s.run now fun d => d.regWrite r off v

end Sys2Proof.Machine
end

