-- ==== Sys2Proof/Machine/BootRows.lean ====
section
/-! DEFINITION. The commands of boots and resets, of the register port, and of the sequencer. -/

namespace Sys2Proof.Machine

/-! ## Boots and resets (R451, R466, R501, R502) -/

/-- `COLD_BOOT`: the fuses and the configuration stay as they are; house time starts again. -/
def execColdBoot (i3c : Bool) (addr : BitVec 7) (s : State) : Host.Outcome State Fault Refusal :=
  .next { s with dev := { s.dev.coldBoot i3c addr with kind := s.dev.kind, fuses := s.dev.fuses } }

/-- `WARM_RESET`. -/
def execWarmReset (cls : BitVec 2) (now : Nat) (s : State) : Host.Outcome State Fault Refusal :=
  s.run now fun d => d.warmReset cls

/-- `WARM_RESET_COMPLETE`. -/
def execWarmResetComplete (now : Nat) (s : State) : Host.Outcome State Fault Refusal := s.run now Dev.warmEnd

/-- `BOOT`. -/
def execBoot (items : Bytes) (now : Nat) (s : State) : Host.Outcome State Fault Refusal := s.run now fun d => d.bootDeliver items

/-- `BOOT_WAIT_EXPIRY`. -/
def execBootWaitExpiry (now : Nat) (s : State) : Host.Outcome State Fault Refusal := s.run now Dev.bootLate

/-- `BLOCK_RESET_SERVICE`: HALL.BLOCK_RESET with class 0 and go. -/
def execBlockResetService (req : Requester) (now : Nat) (s : State) : Host.Outcome State Fault Refusal :=
  s.write now req (hallAt 0xD00) topBit

/-- `BLOCK_RESET_TEST`: HALL.BLOCK_RESET with class 2 and go. -/
def execBlockResetTest (req : Requester) (now : Nat) (s : State) : Host.Outcome State Fault Refusal :=
  s.write now req (hallAt 0xD00) (topBit ||| 2)

/-! ## The register port (R12, R31, R36) -/

/-- `REGISTER_READ`. -/
def execRegisterRead (req : Requester) (off size now : Nat) (s : State) : Host.Outcome State Fault Refusal :=
  s.run now fun d => d.portRead req off size

/-- `REGISTER_WRITE`. -/
def execRegisterWrite (req : Requester) (off size : Nat) (val : BitVec 128) (now : Nat) (s : State) : Host.Outcome State Fault Refusal :=
  s.run now fun d => (d.portWrite req off size val).pump

/-- `COUNTER_READ_CLEAR`. -/
def execCounterReadClear (req : Requester) (off now : Nat) (s : State) : Host.Outcome State Fault Refusal :=
  s.run now fun d => d.regRead req off

/-- `PORT_FAULT_INFO_RELEASE`. -/
def execPortFaultInfoRelease (req : Requester) (now : Nat) (s : State) : Host.Outcome State Fault Refusal :=
  s.write now req (hallAt 0x18) topBit

/-- `ROW_WRITE`: one 128-bit write of a row (R27, R49). -/
def execRowWrite (req : Requester) (thread row : Nat) (val : BitVec 128) (now : Nat) (s : State) : Host.Outcome State Fault Refusal :=
  s.onThread now thread fun d => d.portWrite req (porchAt thread (16 * row)) 16 val

/-- `EVENT_LO_READ`. -/
def execEventLoRead (req : Requester) (thread now : Nat) (s : State) : Host.Outcome State Fault Refusal :=
  s.onThread now thread fun d => d.regRead req (porchAt thread 0x1000)

/-- `RESUME`. -/
def execResume (req : Requester) (thread now : Nat) (s : State) : Host.Outcome State Fault Refusal :=
  s.onThread now thread fun d => d.regWrite req (porchAt thread 0x1020) 1

/-- `DISCARD`. -/
def execDiscard (req : Requester) (thread now : Nat) (s : State) : Host.Outcome State Fault Refusal :=
  s.onThread now thread fun d => d.regWrite req (porchAt thread 0x1020) 2

/-- `CLEAR_OVERWRITE`. -/
def execClearOverwrite (req : Requester) (thread now : Nat) (s : State) : Host.Outcome State Fault Refusal :=
  s.onThread now thread fun d => d.regWrite req (porchAt thread 0x1020) 4

/-! ## The sequencer (R56 to R69, R443, R445) -/

/-- `ROW_ISSUE`. -/
def execRowIssue (now : Nat) (s : State) : Host.Outcome State Fault Refusal := s.run now Dev.rowIssue

/-- `RESERVED_OPCODE`. -/
def execReservedOpcode (thread row now : Nat) (s : State) : Host.Outcome State Fault Refusal :=
  s.onThread now thread fun d => d.badOpcode thread row

/-- `BLOCKED_STEP_RELEASE`. -/
def execBlockedStepRelease (thread now : Nat) (s : State) : Host.Outcome State Fault Refusal :=
  s.onThread now thread fun d => d.releaseHeld thread

/-- `ENGINE_COMPLETION`. -/
def execEngineCompletion (thread row now : Nat) (s : State) : Host.Outcome State Fault Refusal :=
  s.onThread now thread fun d => d.engineCompletion thread row

/-- `ROW_RETIRE`. -/
def execRowRetire (thread now : Nat) (s : State) : Host.Outcome State Fault Refusal :=
  s.onThread now thread fun d => d.rowRetire thread

/-- `EVENT_POST`. -/
def execEventPost (thread now : Nat) (s : State) : Host.Outcome State Fault Refusal :=
  s.onThread now thread fun d => d.eventPost thread

/-- `JOB_EVENT`. -/
def execJobEvent (thread now : Nat) (s : State) : Host.Outcome State Fault Refusal :=
  s.onThread now thread fun d => d.jobEventPost thread

/-- `STEP_DEADLINE`. -/
def execStepDeadline (thread row now : Nat) (s : State) : Host.Outcome State Fault Refusal :=
  s.onThread now thread fun d => (d.whileReady fun d => d.stepDeadline thread row).pump

/-- `WITHDRAWAL_CONFIRM`. -/
def execWithdrawalConfirm (thread row : Nat) (finished : Bool) (now : Nat) (s : State) : Host.Outcome State Fault Refusal :=
  s.onThread now thread fun d => (d.whileReady fun d => d.withdrawn thread row finished).pump

/-- `WITHDRAWAL_TIMEOUT`. -/
def execWithdrawalTimeout (thread row now : Nat) (s : State) : Host.Outcome State Fault Refusal :=
  s.onThread now thread fun d => (d.whileReady fun d => d.withdrawLate thread row).pump

/-- `NOP`. -/
def execNop (thread row now : Nat) (s : State) : Host.Outcome State Fault Refusal := s.onThread now thread fun d => d.nop thread row

/-- `FENCE`. -/
def execFence (thread row now : Nat) (s : State) : Host.Outcome State Fault Refusal := s.onThread now thread fun d => d.fence thread row

/-- `FENCE_COMPLETE`. -/
def execFenceComplete (thread now : Nat) (s : State) : Host.Outcome State Fault Refusal :=
  s.onThread now thread fun d => d.fenceComplete thread

/-- `WAIT`. -/
def execWait (thread row now : Nat) (s : State) : Host.Outcome State Fault Refusal := s.onThread now thread fun d => d.wait thread row

/-- `WAIT_COMPLETE`. -/
def execWaitComplete (thread now : Nat) (s : State) : Host.Outcome State Fault Refusal :=
  s.onThread now thread fun d => d.waitComplete thread

/-- `EVENT`. -/
def execEvent (thread row now : Nat) (s : State) : Host.Outcome State Fault Refusal := s.onThread now thread fun d => d.event thread row

end Sys2Proof.Machine
end

