-- ==== Sys2Proof/Machine/StepRows.lean ====
section
/-! DEFINITION. The commands of steps at their engines (R50), one per opcode. -/

namespace Sys2Proof.Machine

/-! ## Keys (R94 to R99) -/

/-- `GENKEY`. -/
def execGenkey (thread row now : Nat) (s : State) : Host.Outcome State Fault Refusal :=
  s.atEngine now thread row .genkey fun x d => d.genkey thread row x

/-- `DERIVE`. -/
def execDerive (thread row now : Nat) (s : State) : Host.Outcome State Fault Refusal :=
  s.atPke now thread row .derive fun x d => d.derive thread row x

/-- `WRAP`. -/
def execWrap (thread row now : Nat) (s : State) : Host.Outcome State Fault Refusal :=
  s.atPke now thread row .wrap fun x d => d.wrap thread row x

/-- `UNWRAP`. -/
def execUnwrap (thread row now : Nat) (s : State) : Host.Outcome State Fault Refusal :=
  s.atPke now thread row .unwrap fun x d => d.unwrap thread row x

/-- `ERASE`. -/
def execErase (thread row now : Nat) (s : State) : Host.Outcome State Fault Refusal :=
  s.atEngine now thread row .erase fun x d => d.erase thread row x

/-- `IMPORT`. -/
def execImport (thread row now : Nat) (s : State) : Host.Outcome State Fault Refusal :=
  s.atPke now thread row .import fun x d => d.import thread row x

/-! ## Regions, segments, jobs and pages (R290, R308, R310, R331, R344, R345, R349, R350) -/

/-- `MAPREG`. -/
def execMapreg (thread row now : Nat) (s : State) : Host.Outcome State Fault Refusal :=
  s.atEngine now thread row .mapreg fun x d => d.mapreg thread row x

/-- `UNMAPREG`. -/
def execUnmapreg (thread row now : Nat) (s : State) : Host.Outcome State Fault Refusal :=
  s.atMemory now thread row .unmapreg fun x d => d.unmapreg thread row x.slot

/-- `SEAL`. -/
def execSeal (thread row now : Nat) (s : State) : Host.Outcome State Fault Refusal :=
  s.atMemory now thread row .seal fun x d => d.sealStep thread row x false

/-- `UNSEAL`. -/
def execUnseal (thread row now : Nat) (s : State) : Host.Outcome State Fault Refusal :=
  s.atMemory now thread row .unseal fun x d => d.sealStep thread row x true

/-- `REKEY`. -/
def execRekey (thread row now : Nat) (s : State) : Host.Outcome State Fault Refusal :=
  s.atMemory now thread row .rekey fun x d => d.rekey thread row x

/-- `SWEEP`: handle a names the partition, d the job cookie. -/
def execSweep (thread row now : Nat) (s : State) : Host.Outcome State Fault Refusal :=
  s.atMemory now thread row .sweep fun x d =>
    d.sweep thread row x.slot (BitVec.ofNat 32 (fld (Step.of x.step).d 0 32))

/-- `PAGEOUT`. -/
def execPageout (thread row now : Nat) (s : State) : Host.Outcome State Fault Refusal :=
  s.atMemory now thread row .pageout fun x d => d.pageStep thread row x false

/-- `PAGEIN`. -/
def execPagein (thread row now : Nat) (s : State) : Host.Outcome State Fault Refusal :=
  s.atMemory now thread row .pagein fun x d => d.pageStep thread row x true

/-! ## The fabric (R181, R187, R194, R196, R199, R213, R239, R242) -/

/-- `RFENCE`. -/
def execRfence (thread row now : Nat) (s : State) : Host.Outcome State Fault Refusal :=
  s.atEngine now thread row .rfence fun x d => d.rfence thread row x

/-- `RFENCE_COMPLETE`. -/
def execRfenceComplete (thread row now : Nat) (s : State) : Host.Outcome State Fault Refusal :=
  s.onThread now thread fun d => d.whileReady fun d => d.rfenceEnd thread row

/-- `CHOPEN`. -/
def execChopen (thread row now : Nat) (s : State) : Host.Outcome State Fault Refusal :=
  s.atEngine now thread row .chopen fun x d => d.chopen thread row x

/-- `CHCLOSE`. -/
def execChclose (thread row now : Nat) (s : State) : Host.Outcome State Fault Refusal :=
  s.atMemory now thread row .chclose fun x d => d.chclose thread row x.slot

/-- `CHEPOCH`. -/
def execChepoch (thread row now : Nat) (s : State) : Host.Outcome State Fault Refusal :=
  s.atEngine now thread row .chepoch fun x d => d.chepoch thread row x.slot

/-- `SQJOIN`. -/
def execSqjoin (thread row now : Nat) (s : State) : Host.Outcome State Fault Refusal :=
  s.atEngine now thread row .sqjoin fun x d => d.sqjoin thread row x

/-- `SQLEAVE`. -/
def execSqleave (thread row now : Nat) (s : State) : Host.Outcome State Fault Refusal :=
  s.atMemory now thread row .sqleave fun x d => d.sqleave thread row x.slot

/-- `SUMSET`. -/
def execSumset (thread row now : Nat) (s : State) : Host.Outcome State Fault Refusal :=
  s.atMemory now thread row .sumset fun x d => d.sumset thread row x

/-! ## Attestation and the domain (R127, R130, R151, R152) -/

/-- `ATTEST`. -/
def execAttest (thread row now : Nat) (s : State) : Host.Outcome State Fault Refusal :=
  s.atPke now thread row .attest fun x d => d.attestStep thread row x

/-- `MEASURE`. -/
def execMeasure (thread row now : Nat) (s : State) : Host.Outcome State Fault Refusal :=
  s.atPke now thread row .measure fun x d => d.measureStep thread row x

/-- `DOMJOIN`. -/
def execDomjoin (thread row now : Nat) (s : State) : Host.Outcome State Fault Refusal :=
  s.atEngine now thread row .domjoin fun x d => d.domjoin thread row x

/-- `DOMLEAD`. -/
def execDomlead (thread row now : Nat) (s : State) : Host.Outcome State Fault Refusal :=
  s.atMemory now thread row .domlead fun x d => d.domlead thread row x

/-! ## Partitions and migration (R366, R375, R376, R379, R381) -/

/-- `FREEZE`. -/
def execFreeze (thread row now : Nat) (s : State) : Host.Outcome State Fault Refusal :=
  s.atEngine now thread row .freeze fun x d => d.freeze thread row x

/-- `SAVE`. -/
def execSave (thread row now : Nat) (s : State) : Host.Outcome State Fault Refusal :=
  s.atEngine now thread row .save fun x d => d.save thread row x

/-- `RESTORE`. -/
def execRestore (thread row now : Nat) (s : State) : Host.Outcome State Fault Refusal :=
  s.atEngine now thread row .restore fun x d => d.restore thread row x

/-- `THAW`. -/
def execThaw (thread row now : Nat) (s : State) : Host.Outcome State Fault Refusal :=
  s.atEngine now thread row .thaw fun x d => d.thaw thread row x

/-- `QUOTA`. -/
def execQuota (thread row now : Nat) (s : State) : Host.Outcome State Fault Refusal :=
  s.atEngine now thread row .quota fun x d => d.quota thread row x

/-! ## The Vault (R395, R400, R405) -/

/-- `VOPEN`. -/
def execVopen (thread row now : Nat) (s : State) : Host.Outcome State Fault Refusal :=
  s.atEngine now thread row .vopen fun x d => d.vopen thread row x

/-- `VLOAD`. -/
def execVload (thread row now : Nat) (s : State) : Host.Outcome State Fault Refusal :=
  s.atEngine now thread row .vload fun x d => d.vload thread row x

/-- `VCLOSE`. -/
def execVclose (thread row now : Nat) (s : State) : Host.Outcome State Fault Refusal :=
  s.atEngine now thread row .vclose fun x d => d.vclose thread row x

/-! ## Counters and the trace (R413, R418) -/

/-- `SNAP`. -/
def execSnap (thread row now : Nat) (s : State) : Host.Outcome State Fault Refusal :=
  s.atEngine now thread row .snap fun x d => d.snap thread row x

/-- `SNAP_LATCH`. -/
def execSnapLatch (thread now : Nat) (s : State) : Host.Outcome State Fault Refusal :=
  s.onThread now thread fun d => d.whileReady fun d => d.snapLatch thread

/-- `TRACE`. -/
def execTrace (thread row now : Nat) (s : State) : Host.Outcome State Fault Refusal :=
  s.atEngine now thread row .trace fun x d => d.trace thread row x

end Sys2Proof.Machine
end

