-- ==== Sys2Proof/Machine/ServiceRows.lean ====
section
/-! DEFINITION. The commands Kerre serves by itself: the generator, the Larder and the public-key engine, the management port, presence and fuses, SPDM, TDISP and IDE_KM. -/

namespace Sys2Proof.Machine

/-! ## The generator, the Larder, the public-key engine (R79, R80, R86, R105) -/

/-- `DRBG_RESEED`. -/
def execDrbgReseed (now : Nat) (s : State) : Host.Outcome State Fault Refusal :=
  s.run now fun d => (d.reseed.drawsAgain).pump

/-- `ENTROPY_TEST_FAIL`. -/
def execEntropyTestFail (now : Nat) (s : State) : Host.Outcome State Fault Refusal := s.run now fun d => d.entropyFail.restart

/-- `ENTROPY_STARTUP_TEST_DONE`. -/
def execEntropyStartupTestDone (now : Nat) (s : State) : Host.Outcome State Fault Refusal :=
  s.run now fun d => (d.entropyDone.drawsAgain).pump

/-- `LARDER_SCRUB`. -/
def execLarderScrub (failed : List SlotFailure) (now : Nat) (s : State) : Host.Outcome State Fault Refusal :=
  s.run now fun d => (d.scrub failed).restart

/-- `PKE_OPERATION_DONE`. -/
def execPkeOperationDone (now : Nat) (s : State) : Host.Outcome State Fault Refusal := s.run now fun d => d.whileReady Dev.pkeDone

/-! ## The management port (R114 to R122, R140, R365, R396, R406, R456, R465, R496) -/

/-- `GET_NONCE`. -/
def execGetNonce (sess : Option Nat) (msg : Bytes) (now : Nat) (s : State) : Host.Outcome State Fault Refusal :=
  s.run now fun d => d.getNonce sess msg

/-- `GET_STATE`. -/
def execGetState (sess : Option Nat) (msg : Bytes) (now : Nat) (s : State) : Host.Outcome State Fault Refusal :=
  s.run now fun d => d.getState sess msg

/-- `CRED_PRESENT`. -/
def execCredPresent (sess : Option Nat) (msg : Bytes) (now : Nat) (s : State) : Host.Outcome State Fault Refusal :=
  s.run now fun d => d.credPresent sess msg

/-- `PROVISION`. -/
def execProvision (sess : Option Nat) (msg : Bytes) (now : Nat) (s : State) : Host.Outcome State Fault Refusal :=
  s.run now fun d => d.provision sess msg

/-- `DEPLOY`. -/
def execDeploy (sess : Option Nat) (msg : Bytes) (now : Nat) (s : State) : Host.Outcome State Fault Refusal :=
  s.run now fun d => d.transition sess msg 0x04 false true false

/-- `DEBUG_ENTER`. -/
def execDebugEnter (sess : Option Nat) (msg : Bytes) (now : Nat) (s : State) : Host.Outcome State Fault Refusal :=
  s.run now fun d => d.transition sess msg 0x05 false true true

/-- `DEBUG_EXIT`. -/
def execDebugExit (sess : Option Nat) (msg : Bytes) (now : Nat) (s : State) : Host.Outcome State Fault Refusal :=
  s.run now fun d => d.transition sess msg 0x06 false true true

/-- `RETIRE`: outside a session in MANUFACTURE alone. -/
def execRetire (sess : Option Nat) (msg : Bytes) (now : Nat) (s : State) : Host.Outcome State Fault Refusal :=
  s.run now fun d => d.transition sess msg 0x07 (d.lc = .manufacture) false true

/-- `CRED_INSTALL`. -/
def execCredInstall (sess : Option Nat) (msg : Bytes) (now : Nat) (s : State) : Host.Outcome State Fault Refusal :=
  s.run now fun d => d.credInstall sess msg

/-- `LEAVE_BOARDED`. -/
def execLeaveBoarded (sess : Option Nat) (msg : Bytes) (now : Nat) (s : State) : Host.Outcome State Fault Refusal :=
  s.run now fun d => d.leaveBoarded sess msg

/-- `PART_CTRL`. -/
def execPartCtrl (sess : Option Nat) (msg : Bytes) (now : Nat) (s : State) : Host.Outcome State Fault Refusal :=
  s.run now fun d => d.partCtrl sess msg

/-- `PART_QUOTA`. -/
def execPartQuota (sess : Option Nat) (msg : Bytes) (now : Nat) (s : State) : Host.Outcome State Fault Refusal :=
  s.run now fun d => d.partQuota sess msg

/-- `CELLAR_READ`. -/
def execCellarRead (sess : Option Nat) (msg : Bytes) (now : Nat) (s : State) : Host.Outcome State Fault Refusal :=
  s.run now fun d => d.cellarRead sess msg

/-- `DUMP_RELEASE`. -/
def execDumpRelease (sess : Option Nat) (msg : Bytes) (now : Nat) (s : State) : Host.Outcome State Fault Refusal :=
  s.run now fun d => d.dumpRelease sess msg

/-- `VAULT_STATE`. -/
def execVaultState (sess : Option Nat) (msg : Bytes) (now : Nat) (s : State) : Host.Outcome State Fault Refusal :=
  s.run now fun d => d.vaultState sess msg

/-- `VAULT_PAIR`. -/
def execVaultPair (sess : Option Nat) (msg : Bytes) (now : Nat) (s : State) : Host.Outcome State Fault Refusal :=
  s.run now fun d => d.vaultPair sess msg

/-- `VAULT_UNPAIR`. -/
def execVaultUnpair (sess : Option Nat) (msg : Bytes) (now : Nat) (s : State) : Host.Outcome State Fault Refusal :=
  s.run now fun d => d.vaultUnpair sess msg

/-- `VAULT_PROGRAM`. -/
def execVaultProgram (sess : Option Nat) (msg : Bytes) (now : Nat) (s : State) : Host.Outcome State Fault Refusal :=
  s.run now fun d => d.vaultProgram sess msg

/-- `MGMT_UNKNOWN_COMMAND`. -/
def execMgmtUnknownCommand (sess : Option Nat) (msg : Bytes) (now : Nat) (s : State) : Host.Outcome State Fault Refusal :=
  s.run now fun d => d.mgmtUnknown sess msg

/-- `MCTP_OTHER_TYPE`. -/
def execMctpOtherType (msgType : Byte) (s : State) : Host.Outcome State Fault Refusal := s.run 0 fun d => d.mctpOther msgType

/-- `DYNAMIC_ADDRESS_ASSIGNMENT`. -/
def execDynamicAddressAssignment (addr : BitVec 7) (s : State) : Host.Outcome State Fault Refusal := s.run 0 fun d => d.assignAddress addr

/-- `ENDPOINT_ID_ASSIGNMENT`. -/
def execEndpointIdAssignment (eid : Byte) (s : State) : Host.Outcome State Fault Refusal := s.run 0 fun d => d.assignEid eid

/-! ## Presence and fuses (R114 to R118) -/

/-- `PRESENCE_PRESS`. -/
def execPresencePress (now : Nat) (s : State) : Host.Outcome State Fault Refusal := s.run now Dev.press

/-- `PRESENCE_RELEASE`. -/
def execPresenceRelease (now : Nat) (s : State) : Host.Outcome State Fault Refusal := s.run now Dev.letGo

/-- `PRESENCE_LOCKOUT`. -/
def execPresenceLockout (now : Nat) (s : State) : Host.Outcome State Fault Refusal := s.run now Dev.lockoutTime

/-- `TOKEN_EXPIRY`. -/
def execTokenExpiry (now : Nat) (s : State) : Host.Outcome State Fault Refusal := s.run now Dev.tokenEnd

/-- `FUSE_BLOW_DONE`: the one command that changes fuses. -/
def execFuseBlowDone (readsBack : Bool) (now : Nat) (s : State) : Host.Outcome State Fault Refusal :=
  s.runFuse now fun d => d.blowDone readsBack

/-! ## SPDM (R133 to R136) -/

/-- `GET_VERSION`. -/
def execGetVersion (at_ : SpdmPort) (now : Nat) (s : State) : Host.Outcome State Fault Refusal := s.run now fun d => d.getVersion at_

/-- `GET_CAPABILITIES`. -/
def execGetCapabilities (at_ : SpdmPort) (now : Nat) (s : State) : Host.Outcome State Fault Refusal :=
  s.run now fun d => d.getCapabilities at_

/-- `NEGOTIATE_ALGORITHMS`. -/
def execNegotiateAlgorithms (at_ : SpdmPort) (now : Nat) (s : State) : Host.Outcome State Fault Refusal :=
  s.run now fun d => d.negotiate at_

/-- `GET_DIGESTS`. -/
def execGetDigests (at_ : SpdmPort) (sess : Option Nat) (now : Nat) (s : State) : Host.Outcome State Fault Refusal :=
  s.run now fun d => d.getDigests at_ sess

/-- `GET_CERTIFICATE`. -/
def execGetCertificate (at_ : SpdmPort) (sess : Option Nat) (slot offset length now : Nat) (s : State) : Host.Outcome State Fault Refusal :=
  s.run now fun d => d.getCertificate at_ sess slot offset length

/-- `CHALLENGE`. -/
def execChallenge (at_ : SpdmPort) (slot : Nat) (nonce : Key) (now : Nat) (s : State) : Host.Outcome State Fault Refusal :=
  s.run now fun d => d.challenge at_ slot nonce

/-- `GET_MEASUREMENTS`. -/
def execGetMeasurements (at_ : SpdmPort) (sess : Option Nat) (index : Nat) (nonce : Key) (now : Nat) (s : State) : Host.Outcome State Fault Refusal :=
  s.run now fun d => d.getMeasurements at_ sess index nonce

/-- `KEY_EXCHANGE`. -/
def execKeyExchange (at_ : SpdmPort) (reqId : BitVec 16) (transcript : Bytes) (now : Nat) (s : State) : Host.Outcome State Fault Refusal :=
  s.run now fun d => d.keyExchange at_ reqId transcript

/-- `FINISH`. -/
def execFinish (at_ : SpdmPort) (sess : Nat) (transcript : Bytes) (now : Nat) (s : State) : Host.Outcome State Fault Refusal :=
  s.run now fun d => d.finishSession at_ sess transcript

/-- `HEARTBEAT`. -/
def execHeartbeat (at_ : SpdmPort) (sess now : Nat) (s : State) : Host.Outcome State Fault Refusal :=
  s.run now fun d => d.heartbeat at_ sess

/-- `KEY_UPDATE`. -/
def execKeyUpdate (at_ : SpdmPort) (sess now : Nat) (s : State) : Host.Outcome State Fault Refusal :=
  s.run now fun d => d.keyUpdate at_ sess

/-- `END_SESSION`. -/
def execEndSession (at_ : SpdmPort) (sess now : Nat) (s : State) : Host.Outcome State Fault Refusal :=
  s.run now fun d => d.endSession at_ sess

/-- `SPDM_UNSUPPORTED_REQUEST`: the answer is the same for every code. -/
def execSpdmUnsupportedRequest (at_ : SpdmPort) (_code : Byte) (now : Nat) (s : State) : Host.Outcome State Fault Refusal :=
  s.run now fun d => d.spdmOther at_

/-- `SPDM_SESSION_TIMEOUT`. -/
def execSpdmSessionTimeout (at_ : SpdmPort) (sess now : Nat) (s : State) : Host.Outcome State Fault Refusal :=
  s.run now fun d => d.sessionLate at_ sess

/-! ## TDISP (R138, R362, R363) -/

/-- `GET_TDISP_VERSION`. -/
def execGetTdispVersion (part now : Nat) (s : State) : Host.Outcome State Fault Refusal := s.onPart now part fun d => d.tdispVersion part

/-- `GET_TDISP_CAPABILITIES`. -/
def execGetTdispCapabilities (part now : Nat) (s : State) : Host.Outcome State Fault Refusal := s.onPart now part fun d => d.tdispCaps part

/-- `LOCK_INTERFACE_REQUEST`. -/
def execLockInterfaceRequest (part now : Nat) (s : State) : Host.Outcome State Fault Refusal :=
  s.onPart now part fun d => d.lockInterface part

/-- `START_INTERFACE_REQUEST`. -/
def execStartInterfaceRequest (part now : Nat) (s : State) : Host.Outcome State Fault Refusal :=
  s.onPart now part fun d => d.startInterface part

/-- `STOP_INTERFACE_REQUEST`. -/
def execStopInterfaceRequest (part now : Nat) (s : State) : Host.Outcome State Fault Refusal :=
  s.onPart now part fun d => d.stopInterface part

/-- `GET_DEVICE_INTERFACE_REPORT`. -/
def execGetDeviceInterfaceReport (part now : Nat) (s : State) : Host.Outcome State Fault Refusal :=
  s.onPart now part fun d => d.interfaceReport part

/-- `GET_DEVICE_INTERFACE_STATE`. -/
def execGetDeviceInterfaceState (part now : Nat) (s : State) : Host.Outcome State Fault Refusal :=
  s.onPart now part fun d => d.interfaceState part

/-- `TDISP_UNSUPPORTED_REQUEST`: the answer is the same for every code. -/
def execTdispUnsupportedRequest (part : Nat) (_code : Byte) (now : Nat) (s : State) : Host.Outcome State Fault Refusal :=
  s.onPart now part fun d => d.tdispOther part

/-! ## IDE_KM (R139, R495) -/

/-- `QUERY`. -/
def execQuery (now : Nat) (s : State) : Host.Outcome State Fault Refusal := s.run now Dev.ideQuery

/-- `KEY_PROG`. -/
def execKeyProg (stream : Nat) (streamId : BitVec 8) (keySet tx : Bool) (sub : BitVec 2) (key : Key) (iv : BitVec 64) (now : Nat) (s : State) : Host.Outcome State Fault Refusal :=
  s.run now fun d => d.keyProg stream streamId { op := 1, stream := stream, keySet := keySet, tx := tx, sub := sub, key := key, iv := iv }

/-- `K_SET_GO`. -/
def execKSetGo (stream : Nat) (keySet tx : Bool) (sub : BitVec 2) (now : Nat) (s : State) : Host.Outcome State Fault Refusal :=
  s.run now fun d => d.ideDo { op := 2, stream := stream, keySet := keySet, tx := tx, sub := sub }

/-- `K_SET_STOP`. -/
def execKSetStop (stream : Nat) (keySet tx : Bool) (sub : BitVec 2) (now : Nat) (s : State) : Host.Outcome State Fault Refusal :=
  s.run now fun d => d.ideDo { op := 3, stream := stream, keySet := keySet, tx := tx, sub := sub }

/-- `IDE_KEY_PORT_ACK`. -/
def execIdeKeyPortAck (now : Nat) (s : State) : Host.Outcome State Fault Refusal := s.run now Dev.ideAck

/-- `IDE_KEY_PORT_TIMEOUT`. -/
def execIdeKeyPortTimeout (now : Nat) (s : State) : Host.Outcome State Fault Refusal := s.run now Dev.ideLate

end Sys2Proof.Machine
end

