-- ==== Sys2Proof/Machine/DomainRows.lean ====
section
/-! DEFINITION. The commands of the domain protocol (R152 to R164). -/

namespace Sys2Proof.Machine

/-- A whole domain message of a kind, taken from the inbox its last fragment put it in (R153, R154). -/
def State.domain (s : State) (now kind : Nat) (msg : Bytes) (h : DMsg → Dev → Option Dev) : Host.Outcome State Fault Refusal :=
  s.run now fun d => (d.onDomMsg kind msg h).pump

/-! ## Messages -/

/-- `HELLO`. -/
def execHello (msg : Bytes) (now : Nat) (s : State) : Host.Outcome State Fault Refusal :=
  s.domain now DomKind.hello msg fun m d => d.rxHello m

/-- `PROOF_P`. -/
def execProofP (msg : Bytes) (now : Nat) (s : State) : Host.Outcome State Fault Refusal :=
  s.domain now DomKind.proofP msg fun m d => some (d.rxProofP m)

/-- `PROOF_C`. -/
def execProofC (msg : Bytes) (now : Nat) (s : State) : Host.Outcome State Fault Refusal :=
  s.domain now DomKind.proofC msg fun m d => d.rxProofC m

/-- `KEY`. -/
def execKey (msg : Bytes) (now : Nat) (s : State) : Host.Outcome State Fault Refusal := s.domain now DomKind.key msg fun m d => d.rxKey m

/-- `KEY_ACK`. -/
def execKeyAck (msg : Bytes) (now : Nat) (s : State) : Host.Outcome State Fault Refusal :=
  s.domain now DomKind.keyAck msg fun m d => d.rxKeyAck m

/-- `CONFIRM`. -/
def execConfirm (msg : Bytes) (now : Nat) (s : State) : Host.Outcome State Fault Refusal :=
  s.domain now DomKind.confirm msg fun m d => some (d.rxConfirm m)

/-- `EPOCH_NEW`. -/
def execEpochNew (msg : Bytes) (now : Nat) (s : State) : Host.Outcome State Fault Refusal :=
  s.domain now DomKind.epochNew msg fun m d => d.rxEpochNew m

/-- `EPOCH_READY`. -/
def execEpochReady (msg : Bytes) (now : Nat) (s : State) : Host.Outcome State Fault Refusal :=
  s.domain now DomKind.epochReady msg fun m d => some (d.rxEpochReady m)

/-- `EPOCH_COMMIT`. -/
def execEpochCommit (msg : Bytes) (now : Nat) (s : State) : Host.Outcome State Fault Refusal :=
  s.domain now DomKind.epochCommit msg fun m d => some (d.rxEpochCommit m)

/-- `LEAVE`. -/
def execLeave (msg : Bytes) (now : Nat) (s : State) : Host.Outcome State Fault Refusal :=
  s.domain now DomKind.leave msg fun m d => some (d.rxLeave m)

/-- `REPORT_REQ`. -/
def execReportReq (msg : Bytes) (now : Nat) (s : State) : Host.Outcome State Fault Refusal :=
  s.domain now DomKind.reportReq msg fun m d => some (d.rxReportReq m)

/-- `REPORT`: taken in; nothing in the block waits for it (R158). -/
def execReport (msg : Bytes) (now : Nat) (s : State) : Host.Outcome State Fault Refusal := s.domain now DomKind.report msg fun _ d => some d

/-- `HOLD`. -/
def execHold (msg : Bytes) (now : Nat) (s : State) : Host.Outcome State Fault Refusal :=
  s.domain now DomKind.hold msg fun m d => some (d.rxHold m)

/-- `REFUSE`. -/
def execRefuse (msg : Bytes) (now : Nat) (s : State) : Host.Outcome State Fault Refusal :=
  s.domain now DomKind.refuse msg fun m d => some (d.rxRefuse m)

/-! ## Timers -/

/-- `DOMAIN_RETRANSMIT`. -/
def execDomainRetransmit (part sess now : Nat) (s : State) : Host.Outcome State Fault Refusal :=
  s.onPart now part fun d => (d.whileReady fun d => d.domAgain part sess).pump

/-- `DOMAIN_REASSEMBLY_TIMEOUT`. -/
def execDomainReassemblyTimeout (srcNode srcPart now : Nat) (s : State) : Host.Outcome State Fault Refusal :=
  s.run now fun d => d.whileReady fun d => d.fragLate srcNode srcPart

/-- `OLD_DOMAIN_KEY_ERASE`. -/
def execOldDomainKeyErase (part now : Nat) (s : State) : Host.Outcome State Fault Refusal :=
  s.onPart now part fun d => (d.whileReady fun d => d.oldKeyEnd part).pump

end Sys2Proof.Machine
end

