-- ==== Sys2Proof/Machine/FabricRows.lean ====
section
/-! DEFINITION. The commands of the fabric: requests and packets at the ports, channels, masked sums, squares and the line-merge buffers. -/

namespace Sys2Proof.Machine

/-! ## Requests of the transmit streams (R185, R223, R247, R252, R488): the header says which one it is -/

/-- `CHANNEL_SEND`. -/
def execChannelSend (port : Nat) (hdr : BitVec 256) (payload : Bytes) (now : Nat) (s : State) : Host.Outcome State Fault Refusal :=
  s.onPort now port fun d => (d.request port hdr payload).pump

/-- `RESERVED_REQUEST_TYPE`. -/
def execReservedRequestType (port : Nat) (hdr : BitVec 256) (payload : Bytes) (now : Nat) (s : State) : Host.Outcome State Fault Refusal :=
  s.onPort now port fun d => (d.request port hdr payload).pump

/-- `SUM_REQUEST`. -/
def execSumRequest (port : Nat) (hdr : BitVec 256) (payload : Bytes) (now : Nat) (s : State) : Host.Outcome State Fault Refusal :=
  s.onPort now port fun d => (d.request port hdr payload).pump

/-- `MULTICAST_REQUEST`. -/
def execMulticastRequest (port : Nat) (hdr : BitVec 256) (payload : Bytes) (now : Nat) (s : State) : Host.Outcome State Fault Refusal :=
  s.onPort now port fun d => (d.request port hdr payload).pump

/-- `SQUARE_READ`. -/
def execSquareRead (port : Nat) (hdr : BitVec 256) (payload : Bytes) (now : Nat) (s : State) : Host.Outcome State Fault Refusal :=
  s.onPort now port fun d => (d.request port hdr payload).pump

/-! ## Packets of the receive streams (R173, R174): the header says which one it is -/

/-- `DATA`. -/
def execData (port : Nat) (pkt : Bytes) (now : Nat) (s : State) : Host.Outcome State Fault Refusal :=
  s.onPort now port fun d => (d.receive port pkt).pump

/-- `MARKER`. -/
def execMarker (port : Nat) (pkt : Bytes) (now : Nat) (s : State) : Host.Outcome State Fault Refusal :=
  s.onPort now port fun d => (d.receive port pkt).pump

/-- `MARK_ACK`. -/
def execMarkAck (port : Nat) (pkt : Bytes) (now : Nat) (s : State) : Host.Outcome State Fault Refusal :=
  s.onPort now port fun d => (d.receive port pkt).pump

/-- `CREDIT`. -/
def execCredit (port : Nat) (pkt : Bytes) (now : Nat) (s : State) : Host.Outcome State Fault Refusal :=
  s.onPort now port fun d => (d.receive port pkt).pump

/-- `SYNC_REQ`. -/
def execSyncReq (port : Nat) (pkt : Bytes) (now : Nat) (s : State) : Host.Outcome State Fault Refusal :=
  s.onPort now port fun d => (d.receive port pkt).pump

/-- `SYNC_ACK`. -/
def execSyncAck (port : Nat) (pkt : Bytes) (now : Nat) (s : State) : Host.Outcome State Fault Refusal :=
  s.onPort now port fun d => (d.receive port pkt).pump

/-- `CTRL_DOMAIN_FRAGMENT`. -/
def execCtrlDomainFragment (port : Nat) (pkt : Bytes) (now : Nat) (s : State) : Host.Outcome State Fault Refusal :=
  s.onPort now port fun d => (d.receive port pkt).pump

/-- `RESERVED_KIND_PACKET`. -/
def execReservedKindPacket (port : Nat) (pkt : Bytes) (now : Nat) (s : State) : Host.Outcome State Fault Refusal :=
  s.onPort now port fun d => (d.receive port pkt).pump

/-- `SUM`. -/
def execSum (port : Nat) (pkt : Bytes) (now : Nat) (s : State) : Host.Outcome State Fault Refusal :=
  s.onPort now port fun d => (d.receive port pkt).pump

/-- `MSTORE`. -/
def execMstore (port : Nat) (pkt : Bytes) (now : Nat) (s : State) : Host.Outcome State Fault Refusal :=
  s.onPort now port fun d => (d.receive port pkt).pump

/-- `READ_REQ`. -/
def execReadReq (port : Nat) (pkt : Bytes) (now : Nat) (s : State) : Host.Outcome State Fault Refusal :=
  s.onPort now port fun d => (d.receive port pkt).pump

/-- `READ_RSP`. -/
def execReadRsp (port : Nat) (pkt : Bytes) (now : Nat) (s : State) : Host.Outcome State Fault Refusal :=
  s.onPort now port fun d => (d.receive port pkt).pump

/-! ## Ports and channels (R171, R183, R185, R188, R192, R195, R197 to R200) -/

/-- `PORT_NODE_WRITE`. -/
def execPortNodeWrite (req : Requester) (port : Nat) (val : Word) (now : Nat) (s : State) : Host.Outcome State Fault Refusal :=
  s.onPort now port fun d => d.regWrite req (portAt port 8) val

/-- `MARKER_ACKNOWLEDGE`. -/
def execMarkerAcknowledge (slot now : Nat) (s : State) : Host.Outcome State Fault Refusal :=
  s.run now fun d => (d.whileReady fun d => d.markerAck slot).pump

/-- `SYNC_TIMEOUT`. -/
def execSyncTimeout (slot now : Nat) (s : State) : Host.Outcome State Fault Refusal :=
  s.run now fun d => (d.whileReady fun d => d.syncAgain slot).pump

/-- `MARKER_RESEND`. -/
def execMarkerResend (slot now : Nat) (s : State) : Host.Outcome State Fault Refusal :=
  s.run now fun d => (d.whileReady fun d => d.markerAgain slot).pump

/-- `MARKER_TIMEOUT`. -/
def execMarkerTimeout (slot now : Nat) (s : State) : Host.Outcome State Fault Refusal :=
  s.run now fun d => (d.whileReady fun d => d.markerLate slot).pump

/-- `CREDIT_STALL_TIMEOUT`. -/
def execCreditStallTimeout (slot now : Nat) (s : State) : Host.Outcome State Fault Refusal :=
  s.run now fun d => (d.whileReady fun d => d.creditStall slot).pump

/-- `GAP_TIMEOUT`. -/
def execGapTimeout (slot now : Nat) (s : State) : Host.Outcome State Fault Refusal :=
  s.run now fun d => (d.whileReady fun d => d.gapLate slot).pump

/-- `CREDIT_TIMER`. -/
def execCreditTimer (slot now : Nat) (s : State) : Host.Outcome State Fault Refusal :=
  s.run now fun d => (d.whileReady fun d => d.creditTimer slot).pump

/-- `KEPT_EPOCH_EXPIRY`. -/
def execKeptEpochExpiry (slot now : Nat) (s : State) : Host.Outcome State Fault Refusal :=
  s.run now fun d => (d.whileReady fun d => d.keptExpiry slot).pump

/-- `HELD_REQUEST_TIMEOUT`. -/
def execHeldRequestTimeout (port now : Nat) (s : State) : Host.Outcome State Fault Refusal :=
  s.onPort now port fun d => (d.whileReady fun d => d.heldLate port).pump

/-- `LINK_UP`. -/
def execLinkUp (port now : Nat) (s : State) : Host.Outcome State Fault Refusal := s.onPort now port fun d => (d.linkUp port).pump

/-- `LINK_DOWN`. -/
def execLinkDown (port now : Nat) (s : State) : Host.Outcome State Fault Refusal := s.onPort now port fun d => d.linkDown port

/-- `LANDING_FULL`. -/
def execLandingFull (port now : Nat) (s : State) : Host.Outcome State Fault Refusal := s.onPort now port fun d => d.landingFull port

/-- `CH_EVICT`: HALL.CH_EVICT with the slot and go. -/
def execChEvict (req : Requester) (slot now : Nat) (s : State) : Host.Outcome State Fault Refusal :=
  s.run now fun d => d.regAct req (hallAt 0x828) (BitVec.ofNat 64 (slot % 2 ^ 16) ||| topBit)

/-! ## Masked sums (R225, R227, R229, R235) -/

/-- `GATHER_TIMEOUT`. -/
def execGatherTimeout (square pair pkt now : Nat) (s : State) : Host.Outcome State Fault Refusal :=
  s.run now fun d => (d.whileReady fun d => d.gatherLate square pair pkt).pump

/-- `ACCUMULATOR_TIMEOUT`. -/
def execAccumulatorTimeout (square pair pkt now : Nat) (s : State) : Host.Outcome State Fault Refusal :=
  s.run now fun d => (d.whileReady fun d => d.accLate square pair pkt).pump

/-- `RING_TIMEOUT`. -/
def execRingTimeout (square pair now : Nat) (s : State) : Host.Outcome State Fault Refusal :=
  s.run now fun d => (d.whileReady fun d => d.ringLate square pair).pump

/-- `SUM_EVENT`. -/
def execSumEvent (square pair now : Nat) (s : State) : Host.Outcome State Fault Refusal :=
  s.run now fun d => (d.whileReady fun d => d.sumEvent square pair).pump

/-- `SUM_RELEASE`: PORCH.SUM_RELEASE written with 1. -/
def execSumRelease (req : Requester) (part now : Nat) (s : State) : Host.Outcome State Fault Refusal :=
  s.onPart now part fun d => d.regAct req (porchAt part 0x3038) 1

/-! ## Squares and the line-merge buffers (R256, R259) -/

/-- `SQUARE_READ_TIMEOUT`. -/
def execSquareReadTimeout (port : Nat) (tag : BitVec 8) (now : Nat) (s : State) : Host.Outcome State Fault Refusal :=
  s.onPort now port fun d => (d.whileReady fun d => d.readLate port tag).pump

/-- `MERGE_WINDOW_CLOSE`. -/
def execMergeWindowClose (line now : Nat) (s : State) : Host.Outcome State Fault Refusal :=
  s.run now fun d => (d.whileReady fun d => d.windowEnd line).pump

/-- `MARKER_FLUSH`. -/
def execMarkerFlush (port now : Nat) (s : State) : Host.Outcome State Fault Refusal :=
  s.onPort now port fun d => (d.whileReady fun d => d.markerFlush port).pump

end Sys2Proof.Machine
end

