-- ==== Sys2Proof/Machine/MemRows.lean ====
section
/-! DEFINITION. The commands of the memory engines, of the jobs over memory, and of the regions' registers. -/

namespace Sys2Proof.Machine

/-! ## Accesses and stacks (R281, R282, R285, R315, R491, R492) -/

/-- `MEMORY_READ`. -/
def execMemoryRead (engine _stream : Nat) (hdr : BitVec 256) (now : Nat) (s : State) : Host.Outcome State Fault Refusal :=
  s.onEngine now engine fun d => d.netAccess engine hdr false []

/-- `MEMORY_WRITE`. -/
def execMemoryWrite (engine _stream : Nat) (hdr : BitVec 256) (payload : Bytes) (now : Nat) (s : State) : Host.Outcome State Fault Refusal :=
  s.onEngine now engine fun d => d.netAccess engine hdr true payload

/-- `STACK_READ_RESPONSE`. -/
def execStackReadResponse (engine : Nat) (tag : BitVec 12) (line check : Bytes) (status : BitVec 4) (now : Nat) (s : State) : Host.Outcome State Fault Refusal :=
  s.onEngine now engine fun d => d.whileReady fun d => d.stackArrive engine tag line check status

/-- `LANDING_SLOT_GRANT`. -/
def execLandingSlotGrant (engine now : Nat) (s : State) : Host.Outcome State Fault Refusal :=
  s.onEngine now engine fun d => d.whileReady fun d => d.landingGrant engine

/-- `PANTRY_SPLIT_ADJUST`. -/
def execPantrySplitAdjust (engine : Nat) (ties : Nat × Nat) (now : Nat) (s : State) : Host.Outcome State Fault Refusal :=
  s.onEngine now engine fun d => d.pantryAdjust engine ties

/-- `PANTRY_WRITE_AHEAD`. -/
def execPantryWriteAhead (engine now : Nat) (s : State) : Host.Outcome State Fault Refusal :=
  s.onEngine now engine fun d => d.writeAhead engine

/-! ## Registers of memory (R298, R300, R301, R302, R303, R328, R344) -/

/-- `PANTRY_SPLIT_WRITE`. -/
def execPantrySplitWrite (req : Requester) (engine : Nat) (val : Word) (now : Nat) (s : State) : Host.Outcome State Fault Refusal :=
  s.onEngine now engine fun d => d.regWrite req (memAt engine 0x18) val

/-- `ERR_INFO_RELEASE`: MEM.ERR_INFO written with valid. -/
def execErrInfoRelease (req : Requester) (engine now : Nat) (s : State) : Host.Outcome State Fault Refusal :=
  s.onEngine now engine fun d => d.regWrite req (memAt engine 0x60) topBit

/-- `SEG_ERR_RELEASE`: MEM.SEG_ERR written with valid. -/
def execSegErrRelease (req : Requester) (engine now : Nat) (s : State) : Host.Outcome State Fault Refusal :=
  s.onEngine now engine fun d => d.regWrite req (memAt engine 0x98) topBit

/-- `REGION_SHARE_WRITE`. -/
def execRegionShareWrite (req : Requester) (val : Word) (now : Nat) (s : State) : Host.Outcome State Fault Refusal :=
  s.write now req (hallAt 0xA20) val

/-- `REGION_RIGHTS_WRITE`. -/
def execRegionRightsWrite (req : Requester) (val : Word) (now : Nat) (s : State) : Host.Outcome State Fault Refusal :=
  s.write now req (hallAt 0xA28) val

/-- `PAGE_TABLE_WRITE`. -/
def execPageTableWrite (req : Requester) (thread : Nat) (val : Word) (now : Nat) (s : State) : Host.Outcome State Fault Refusal :=
  s.onThread now thread fun d => d.regWrite req (porchAt thread 0x3408) val

/-! ## Jobs (R333, R335, R339, R350, R351, R446, R447) -/

/-- `PAGE_CONVERSION`. -/
def execPageConversion (engine job now : Nat) (s : State) : Host.Outcome State Fault Refusal :=
  s.onEngine now engine fun d => (d.whileReady fun d => d.convertNext engine job false).pump

/-- `EXPORT_PAGE`. -/
def execExportPage (engine job now : Nat) (s : State) : Host.Outcome State Fault Refusal :=
  s.onEngine now engine fun d => (d.whileReady fun d => d.convertNext engine job true).pump

/-- `REKEY_END`. -/
def execRekeyEnd (job now : Nat) (s : State) : Host.Outcome State Fault Refusal :=
  s.run now fun d => (d.whileReady fun d => d.rekeyEnd job).pump

/-- `SWEEP_CHUNK`. -/
def execSweepChunk (engine job now : Nat) (s : State) : Host.Outcome State Fault Refusal :=
  s.onEngine now engine fun d => (d.whileReady fun d => d.sweepChunk engine job).pump

/-- `JOB_STALL`. -/
def execJobStall (job now : Nat) (s : State) : Host.Outcome State Fault Refusal :=
  s.run now fun d => (d.whileReady fun d => d.jobStall job).pump

/-- `HEARTBEAT_MISS`. -/
def execHeartbeatMiss (island : Byte) (now : Nat) (s : State) : Host.Outcome State Fault Refusal :=
  s.run now fun d => (d.heartbeatMiss island.toNat).restart

end Sys2Proof.Machine
end

