-- ==== Sys2Proof/Machine/HostRows.lean ====
section
/-! DEFINITION. The commands of the host path, of partitions and their mailboxes, and of the Vault link. -/

namespace Sys2Proof.Machine

/-! ## The host path (R347, R348, R493, R494) -/

/-- `MEM_CPL`. -/
def execMemCpl (tag : Nat) (ok : Bool) (payload : Bytes) (now : Nat) (s : State) : Host.Outcome State Fault Refusal :=
  s.run now fun d => (d.whileReady fun d => d.memCpl tag ok payload).pump

/-- `HOST_WRITE_COMPLETE`. -/
def execHostWriteComplete (tag now : Nat) (s : State) : Host.Outcome State Fault Refusal :=
  s.run now fun d => (d.whileReady fun d => d.hostWritten tag).pump

/-- `XLAT_CPL`. -/
def execXlatCpl (page : Nat) (ok : Bool) (now : Nat) (s : State) : Host.Outcome State Fault Refusal :=
  s.run now fun d => (d.whileReady fun d => d.xlatCpl page ok).pump

/-- `INVAL`. -/
def execInval (page now : Nat) (s : State) : Host.Outcome State Fault Refusal := s.run now fun d => d.inval page

/-- `INVAL_DONE`. -/
def execInvalDone (page now : Nat) (s : State) : Host.Outcome State Fault Refusal :=
  s.run now fun d => (d.whileReady fun d => d.invalDone page).pump

/-- `DOE_ABORT`. -/
def execDoeAbort (at_ : SpdmPort) (now : Nat) (s : State) : Host.Outcome State Fault Refusal := s.run now fun d => d.doeAbort at_

/-! ## Partitions, mailboxes, migration (R360, R361, R370, R371, R377, R448) -/

/-- `PART_ENABLE`: HALL.PART_CTRL with the partition, action 1 and go. -/
def execPartEnable (req : Requester) (part now : Nat) (s : State) : Host.Outcome State Fault Refusal :=
  s.onPart now part fun d => d.regAct req (hallAt 0xC00) (BitVec.ofNat 64 (part + 1 * 2 ^ 8) ||| topBit)

/-- `PART_DISABLE`: HALL.PART_CTRL with the partition, action 2 and go. -/
def execPartDisable (req : Requester) (part now : Nat) (s : State) : Host.Outcome State Fault Refusal :=
  s.onPart now part fun d => d.regAct req (hallAt 0xC00) (BitVec.ofNat 64 (part + 2 * 2 ^ 8) ||| topBit)

/-- `PART_RESET`: HALL.PART_CTRL with the partition, action 3 and go. -/
def execPartReset (req : Requester) (part now : Nat) (s : State) : Host.Outcome State Fault Refusal :=
  s.onPart now part fun d => d.regAct req (hallAt 0xC00) (BitVec.ofNat 64 (part + 3 * 2 ^ 8) ||| topBit)

/-- `PARTITION_RESET_END`. -/
def execPartitionResetEnd (part now : Nat) (s : State) : Host.Outcome State Fault Refusal :=
  s.onPart now part fun d => (d.whileReady fun d => d.endReset part).pump

/-- `MAILBOX_POST`: a 128-bit write of a slot's header; the manager reaches the mailbox HALL.MBX_SELECT names. -/
def execMailboxPost (req : Requester) (outbound : Bool) (part slot : Nat) (header : BitVec 128) (now : Nat) (s : State) : Host.Outcome State Fault Refusal :=
  s.onPart now part fun d =>
    if outbound || d.hall.mbxSelect = part then d.portWrite req (mbxAt d.kind outbound part slot) 16 header else d

/-- `MAILBOX_TAKE`: the receiver frees slots, the manager outbound ones of the mailbox HALL.MBX_SELECT names. -/
def execMailboxTake (req : Requester) (outbound : Bool) (part : Nat) (slots : BitVec 16) (now : Nat) (s : State) : Host.Outcome State Fault Refusal :=
  s.onPart now part fun d =>
    if !outbound then d.regWrite req (porchAt part 0x7008) (slots.setWidth 64)
    else if d.hall.mbxSelect = part then d.regWrite req (porchAt (Kind.parts d.kind) 0x7018) (slots.setWidth 64)
    else d

/-- `MIGRATE_WRITE`. -/
def execMigrateWrite (req : Requester) (part : Nat) (val : Word) (now : Nat) (s : State) : Host.Outcome State Fault Refusal :=
  s.onPart now part fun d => d.regWrite req (porchAt part 0x3510) val

/-! ## The Vault link (R391 to R404) -/

/-- `IDENT`. -/
def execIdent (frame : Bytes) (now : Nat) (s : State) : Host.Outcome State Fault Refusal := s.run now fun d => (d.vident frame).pump

/-- `PROOF`. -/
def execProof (frame : Bytes) (now : Nat) (s : State) : Host.Outcome State Fault Refusal := s.run now fun d => (d.vproof frame).pump

/-- `PAIR_OK`. -/
def execPairOk (frame : Bytes) (now : Nat) (s : State) : Host.Outcome State Fault Refusal := s.run now fun d => (d.vpairOk frame).pump

/-- `MANIFEST`. -/
def execManifest (frame : Bytes) (now : Nat) (s : State) : Host.Outcome State Fault Refusal := s.run now fun d => (d.vmanifest frame).pump

/-- `VAULT_KEY`. -/
def execVaultKey (frame : Bytes) (now : Nat) (s : State) : Host.Outcome State Fault Refusal := s.run now fun d => (d.vkey frame).pump

/-- `SHARD_DATA`. -/
def execShardData (frame : Bytes) (now : Nat) (s : State) : Host.Outcome State Fault Refusal := s.run now fun d => (d.vshard frame).pump

/-- `PROG_OK`. -/
def execProgOk (frame : Bytes) (now : Nat) (s : State) : Host.Outcome State Fault Refusal := s.run now fun d => (d.vprogOk frame).pump

/-- `VAULT_ERROR`. -/
def execVaultError (frame : Bytes) (now : Nat) (s : State) : Host.Outcome State Fault Refusal := s.run now fun d => (d.verror frame).pump

/-- `VAULT_FRAME_TIMEOUT`. -/
def execVaultFrameTimeout (now : Nat) (s : State) : Host.Outcome State Fault Refusal := s.run now fun d => (d.whileReady Dev.frameLate).pump

/-- `VLOAD_START`. -/
def execVloadStart (now : Nat) (s : State) : Host.Outcome State Fault Refusal := s.run now fun d => (d.whileReady Dev.vloadStart).pump

/-- `VAULT_SEAL_OPEN`. -/
def execVaultSealOpen (now : Nat) (s : State) : Host.Outcome State Fault Refusal := s.run now fun d => d.sealFell.pump

end Sys2Proof.Machine
end

