-- ==== Sys2Proof/Machine/TraceRows.lean ====
section
/-! DEFINITION. The commands of the counters, the Attic, the interrupt controller and the Cellar. -/

namespace Sys2Proof.Machine

/-! ## Counters and the Attic (R412, R414, R420 to R423) -/

/-- `COUNT_READ`: PORCH.COUNT[k]. -/
def execCountRead (req : Requester) (part k now : Nat) (s : State) : Host.Outcome State Fault Refusal :=
  s.onPart now part fun d => d.regRead req (porchAt part (0x4000 + 8 * (k % 16)))

/-- `MANAGER_SNAP`: COUNT.SNAP written with go. -/
def execManagerSnap (req : Requester) (now : Nat) (s : State) : Host.Outcome State Fault Refusal := s.write now req (countAt 8) topBit

/-- `ATTIC_RECORD_WRITE`. -/
def execAtticRecordWrite (now : Nat) (s : State) : Host.Outcome State Fault Refusal := s.run now Dev.atticWrite

/-- `ATTIC_EXPORT`. -/
def execAtticExport (now : Nat) (s : State) : Host.Outcome State Fault Refusal := s.run now fun d => d.whileReady Dev.atticExport

/-- `ATTIC_REC_LATCH`: a read of word 0. -/
def execAtticRecLatch (req : Requester) (thread now : Nat) (s : State) : Host.Outcome State Fault Refusal :=
  s.onThread now thread fun d => d.regRead req (recAt d.kind thread 0)

/-- `ATTIC_REC_ADVANCE`: a read of word 3. -/
def execAtticRecAdvance (req : Requester) (thread now : Nat) (s : State) : Host.Outcome State Fault Refusal :=
  s.onThread now thread fun d => d.regRead req (recAt d.kind thread 3)

/-! ## The interrupt controller (R427 to R440) -/

/-- `EXTERNAL_EDGE`. -/
def execExternalEdge (src now : Nat) (s : State) : Host.Outcome State Fault Refusal :=
  s.runUnit now (decide (src < 256)) fun d => d.externalEdge src

/-- `STORM_INTERVAL_END`. -/
def execStormIntervalEnd (now : Nat) (s : State) : Host.Outcome State Fault Refusal := s.run now Dev.stormEnd

/-- `STUCK_TIMEOUT`. -/
def execStuckTimeout (src now : Nat) (s : State) : Host.Outcome State Fault Refusal :=
  s.runUnit now (decide (src < 256)) fun d => d.stuck src

/-- `LEVEL_INPUT_CHANGE`. -/
def execLevelInputChange (src : Nat) (active : Bool) (now : Nat) (s : State) : Host.Outcome State Fault Refusal :=
  s.runUnit now (decide (src < 256)) fun d => (d.levelInput src active).pump

/-- `INTERRUPT_DELIVERY`. -/
def execInterruptDelivery (now : Nat) (s : State) : Host.Outcome State Fault Refusal := s.run now Dev.delivery

/-- `EOI`: INTC.EOI[t]. -/
def execEoi (req : Requester) (target : Nat) (val : Word) (now : Nat) (s : State) : Host.Outcome State Fault Refusal :=
  s.runUnit now (decide (target < 8)) fun d => d.regWrite req (intcAt (0xC0 + 8 * target)) val

/-- `IRQ_ACK`. -/
def execIrqAck (target now : Nat) (s : State) : Host.Outcome State Fault Refusal :=
  s.runUnit now (decide (target < 8)) fun d => d.irqAck target

/-- `MASK_SET`: INTC.MASK_SET[w]. -/
def execMaskSet (req : Requester) (w : Nat) (val : Word) (now : Nat) (s : State) : Host.Outcome State Fault Refusal :=
  s.runUnit now (decide (w < 4)) fun d => d.regWrite req (intcAt (0x100 + 8 * w)) val

/-- `MASK_CLR`: INTC.MASK_CLR[w]. -/
def execMaskClr (req : Requester) (w : Nat) (val : Word) (now : Nat) (s : State) : Host.Outcome State Fault Refusal :=
  s.runUnit now (decide (w < 4)) fun d => d.regWrite req (intcAt (0x120 + 8 * w)) val

/-- `PEND_SET`: INTC.PEND_SET[w]. -/
def execPendSet (req : Requester) (w : Nat) (val : Word) (now : Nat) (s : State) : Host.Outcome State Fault Refusal :=
  s.runUnit now (decide (w < 4)) fun d => d.regWrite req (intcAt (0x140 + 8 * w)) val

/-- `PEND_CLR`: INTC.PEND_CLR[w]. -/
def execPendClr (req : Requester) (w : Nat) (val : Word) (now : Nat) (s : State) : Host.Outcome State Fault Refusal :=
  s.runUnit now (decide (w < 4)) fun d => d.regWrite req (intcAt (0x160 + 8 * w)) val

/-- `TARGET_WRITE`: INTC.TARGET[s]. -/
def execTargetWrite (req : Requester) (src : Nat) (val : Word) (now : Nat) (s : State) : Host.Outcome State Fault Refusal :=
  s.runUnit now (decide (src < 256)) fun d => d.regWrite req (intcAt (0x1000 + 8 * src)) val

/-- `TGT_CTRL_WRITE`: INTC.TGT_CTRL[t]. -/
def execTgtCtrlWrite (req : Requester) (target : Nat) (val : Word) (now : Nat) (s : State) : Host.Outcome State Fault Refusal :=
  s.runUnit now (decide (target < 8)) fun d => d.regWrite req (intcAt (0x40 + 8 * target)) val

/-! ## The Cellar and self-test (R458, R463, R465) -/

/-- `DUMP_STATUS_RELEASE`: CELLAR.DUMP_STATUS written with valid. -/
def execDumpStatusRelease (req : Requester) (now : Nat) (s : State) : Host.Outcome State Fault Refusal :=
  s.write now req (cellarAt 0x28) topBit

/-- `SELF_TEST`. -/
def execSelfTest (unit : TestUnit) (fails failsAgain : Bool) (now : Nat) (s : State) : Host.Outcome State Fault Refusal :=
  s.runUnit now (unitPresent s.dev.kind unit) fun d => (d.selfTest unit fails failsAgain).restart

end Sys2Proof.Machine
end

