-- ==== Sys2Proof/Machine/PowerRows.lean ====
section
/-! DEFINITION. The commands of power domains, clocks, the energy budget and the link-state record port. -/

namespace Sys2Proof.Machine

/-! ## Power domains (R471, R472) -/

/-- `POWER_OFF_REQUEST`: SIDE.PWR_REQ with the domain's bit cleared. -/
def execPowerOffRequest (req : Requester) (domain now : Nat) (s : State) : Host.Outcome State Fault Refusal :=
  s.runUnit now (decide (domain < Kind.domains s.dev.kind)) fun d =>
    d.regAct req (sideAt 0x1010) (BitVec.ofNat 64 (setFld (d.reqBits d.power.req) domain 1 0))

/-- `POWER_ON_REQUEST`: SIDE.PWR_REQ with the domain's bit set. -/
def execPowerOnRequest (req : Requester) (domain now : Nat) (s : State) : Host.Outcome State Fault Refusal :=
  s.runUnit now (decide (domain < Kind.domains s.dev.kind)) fun d =>
    d.regAct req (sideAt 0x1010) (BitVec.ofNat 64 (setFld (d.reqBits d.power.req) domain 1 1))

/-- `PWR_ACK`. -/
def execPwrAck (domain : Nat) (level : Bool) (now : Nat) (s : State) : Host.Outcome State Fault Refusal :=
  s.runUnit now (Kind.switchable s.dev.kind domain) fun d => (d.pwrAck domain level).pump

/-- `POWER_ACK_TIMEOUT`. -/
def execPowerAckTimeout (domain now : Nat) (s : State) : Host.Outcome State Fault Refusal :=
  s.runUnit now (Kind.switchable s.dev.kind domain) fun d => d.pwrLate domain

/-! ## Clocks (R474 to R476) -/

/-- `DVFS_MEASURE`. -/
def execDvfsMeasure (domain occupancy queueMax now : Nat) (s : State) : Host.Outcome State Fault Refusal :=
  s.runUnit now (laneIsland s.dev.kind domain) fun d => d.dvfs domain occupancy queueMax

/-- `VOK`. -/
def execVok (domain now : Nat) (s : State) : Host.Outcome State Fault Refusal :=
  s.runUnit now (laneIsland s.dev.kind domain) fun d => d.vok domain

/-- `SPREAD_STEP`. -/
def execSpreadStep (domain now : Nat) (s : State) : Host.Outcome State Fault Refusal :=
  s.runUnit now (decide (domain < Kind.domains s.dev.kind)) fun d => d.spreadStep domain

/-- `CLK_SPREAD_WRITE`. -/
def execClkSpreadWrite (req : Requester) (val : Word) (now : Nat) (s : State) : Host.Outcome State Fault Refusal :=
  s.write now req (sideAt 0x1028) val

/-! ## The energy budget and the link-state record port (R478, R479, R504) -/

/-- `BUDGET_STROBE`. -/
def execBudgetStrobe (word : BitVec 32) (s : State) : Host.Outcome State Fault Refusal := s.run 0 fun d => d.budgetStrobe word

/-- `BUDGET_EPOCH`. -/
def execBudgetEpoch (now : Nat) (s : State) : Host.Outcome State Fault Refusal := s.run now Dev.budgetEpoch

/-- `LINK_STATE_RECORD_ACCESS`: a record of a port that exists. -/
def execLinkStateRecordAccess (addr : BitVec 10) (write : Option Word) (s : State) : Host.Outcome State Fault Refusal :=
  s.runUnit 0 (decide (addr.toNat / 32 < Kind.ports s.dev.kind)) fun d => d.linkAccess addr.toNat write

end Sys2Proof.Machine
end

