-- ==== Sys2Proof/Machine/Dispatch.lean ====
section
/-! DEFINITION. The effect of each command: one arm per constructor of Instr. -/

namespace Sys2Proof.Machine

def exec (i : Instr) (s : State) : Host.Outcome State Fault Refusal :=
  match i with
  | .coldBoot i3c addr => Sys2Proof.Machine.execColdBoot i3c addr s
  | .warmReset cls now => Sys2Proof.Machine.execWarmReset cls now s
  | .warmResetComplete now => Sys2Proof.Machine.execWarmResetComplete now s
  | .boot items now => Sys2Proof.Machine.execBoot items now s
  | .bootWaitExpiry now => Sys2Proof.Machine.execBootWaitExpiry now s
  | .blockResetService req now => Sys2Proof.Machine.execBlockResetService req now s
  | .blockResetTest req now => Sys2Proof.Machine.execBlockResetTest req now s
  | .registerWrite req off size val now => Sys2Proof.Machine.execRegisterWrite req off size val now s
  | .counterReadClear req off now => Sys2Proof.Machine.execCounterReadClear req off now s
  | .portFaultInfoRelease req now => Sys2Proof.Machine.execPortFaultInfoRelease req now s
  | .rowWrite req thread row val now => Sys2Proof.Machine.execRowWrite req thread row val now s
  | .eventLoRead req thread now => Sys2Proof.Machine.execEventLoRead req thread now s
  | .resume req thread now => Sys2Proof.Machine.execResume req thread now s
  | .discard req thread now => Sys2Proof.Machine.execDiscard req thread now s
  | .clearOverwrite req thread now => Sys2Proof.Machine.execClearOverwrite req thread now s
  | .rowIssue now => Sys2Proof.Machine.execRowIssue now s
  | .reservedOpcode thread row now => Sys2Proof.Machine.execReservedOpcode thread row now s
  | .blockedStepRelease thread now => Sys2Proof.Machine.execBlockedStepRelease thread now s
  | .engineCompletion thread row now => Sys2Proof.Machine.execEngineCompletion thread row now s
  | .rowRetire thread now => Sys2Proof.Machine.execRowRetire thread now s
  | .eventPost thread now => Sys2Proof.Machine.execEventPost thread now s
  | .jobEvent thread now => Sys2Proof.Machine.execJobEvent thread now s
  | .stepDeadline thread row now => Sys2Proof.Machine.execStepDeadline thread row now s
  | .withdrawalConfirm thread row finished now => Sys2Proof.Machine.execWithdrawalConfirm thread row finished now s
  | .withdrawalTimeout thread row now => Sys2Proof.Machine.execWithdrawalTimeout thread row now s
  | .nop thread row now => Sys2Proof.Machine.execNop thread row now s
  | .fence thread row now => Sys2Proof.Machine.execFence thread row now s
  | .fenceComplete thread now => Sys2Proof.Machine.execFenceComplete thread now s
  | .wait thread row now => Sys2Proof.Machine.execWait thread row now s
  | .waitComplete thread now => Sys2Proof.Machine.execWaitComplete thread now s
  | .event thread row now => Sys2Proof.Machine.execEvent thread row now s
  | .rfence thread row now => Sys2Proof.Machine.execRfence thread row now s
  | .rfenceComplete thread row now => Sys2Proof.Machine.execRfenceComplete thread row now s
  | .genkey thread row now => Sys2Proof.Machine.execGenkey thread row now s
  | .derive thread row now => Sys2Proof.Machine.execDerive thread row now s
  | .wrap thread row now => Sys2Proof.Machine.execWrap thread row now s
  | .unwrap thread row now => Sys2Proof.Machine.execUnwrap thread row now s
  | .erase thread row now => Sys2Proof.Machine.execErase thread row now s
  | .import thread row now => Sys2Proof.Machine.execImport thread row now s
  | .mapreg thread row now => Sys2Proof.Machine.execMapreg thread row now s
  | .unmapreg thread row now => Sys2Proof.Machine.execUnmapreg thread row now s
  | .seal thread row now => Sys2Proof.Machine.execSeal thread row now s
  | .unseal thread row now => Sys2Proof.Machine.execUnseal thread row now s
  | .rekey thread row now => Sys2Proof.Machine.execRekey thread row now s
  | .sweep thread row now => Sys2Proof.Machine.execSweep thread row now s
  | .pageout thread row now => Sys2Proof.Machine.execPageout thread row now s
  | .pagein thread row now => Sys2Proof.Machine.execPagein thread row now s
  | .chopen thread row now => Sys2Proof.Machine.execChopen thread row now s
  | .chclose thread row now => Sys2Proof.Machine.execChclose thread row now s
  | .chepoch thread row now => Sys2Proof.Machine.execChepoch thread row now s
  | .sqjoin thread row now => Sys2Proof.Machine.execSqjoin thread row now s
  | .sqleave thread row now => Sys2Proof.Machine.execSqleave thread row now s
  | .sumset thread row now => Sys2Proof.Machine.execSumset thread row now s
  | .attest thread row now => Sys2Proof.Machine.execAttest thread row now s
  | .measure thread row now => Sys2Proof.Machine.execMeasure thread row now s
  | .domjoin thread row now => Sys2Proof.Machine.execDomjoin thread row now s
  | .domlead thread row now => Sys2Proof.Machine.execDomlead thread row now s
  | .freeze thread row now => Sys2Proof.Machine.execFreeze thread row now s
  | .save thread row now => Sys2Proof.Machine.execSave thread row now s
  | .restore thread row now => Sys2Proof.Machine.execRestore thread row now s
  | .thaw thread row now => Sys2Proof.Machine.execThaw thread row now s
  | .quota thread row now => Sys2Proof.Machine.execQuota thread row now s
  | .vopen thread row now => Sys2Proof.Machine.execVopen thread row now s
  | .vload thread row now => Sys2Proof.Machine.execVload thread row now s
  | .vclose thread row now => Sys2Proof.Machine.execVclose thread row now s
  | .snap thread row now => Sys2Proof.Machine.execSnap thread row now s
  | .snapLatch thread now => Sys2Proof.Machine.execSnapLatch thread now s
  | .trace thread row now => Sys2Proof.Machine.execTrace thread row now s
  | .drbgReseed now => Sys2Proof.Machine.execDrbgReseed now s
  | .entropyTestFail now => Sys2Proof.Machine.execEntropyTestFail now s
  | .entropyStartupTestDone now => Sys2Proof.Machine.execEntropyStartupTestDone now s
  | .larderScrub failed now => Sys2Proof.Machine.execLarderScrub failed now s
  | .pkeOperationDone now => Sys2Proof.Machine.execPkeOperationDone now s
  | .getNonce sess msg now => Sys2Proof.Machine.execGetNonce sess msg now s
  | .getState sess msg now => Sys2Proof.Machine.execGetState sess msg now s
  | .credPresent sess msg now => Sys2Proof.Machine.execCredPresent sess msg now s
  | .provision sess msg now => Sys2Proof.Machine.execProvision sess msg now s
  | .deploy sess msg now => Sys2Proof.Machine.execDeploy sess msg now s
  | .debugEnter sess msg now => Sys2Proof.Machine.execDebugEnter sess msg now s
  | .debugExit sess msg now => Sys2Proof.Machine.execDebugExit sess msg now s
  | .retire sess msg now => Sys2Proof.Machine.execRetire sess msg now s
  | .credInstall sess msg now => Sys2Proof.Machine.execCredInstall sess msg now s
  | .leaveBoarded sess msg now => Sys2Proof.Machine.execLeaveBoarded sess msg now s
  | .partCtrl sess msg now => Sys2Proof.Machine.execPartCtrl sess msg now s
  | .partQuota sess msg now => Sys2Proof.Machine.execPartQuota sess msg now s
  | .cellarRead sess msg now => Sys2Proof.Machine.execCellarRead sess msg now s
  | .dumpRelease sess msg now => Sys2Proof.Machine.execDumpRelease sess msg now s
  | .vaultState sess msg now => Sys2Proof.Machine.execVaultState sess msg now s
  | .vaultPair sess msg now => Sys2Proof.Machine.execVaultPair sess msg now s
  | .vaultUnpair sess msg now => Sys2Proof.Machine.execVaultUnpair sess msg now s
  | .vaultProgram sess msg now => Sys2Proof.Machine.execVaultProgram sess msg now s
  | .mgmtUnknownCommand sess msg now => Sys2Proof.Machine.execMgmtUnknownCommand sess msg now s
  | .mctpOtherType msgType => Sys2Proof.Machine.execMctpOtherType msgType s
  | .presencePress now => Sys2Proof.Machine.execPresencePress now s
  | .presenceRelease now => Sys2Proof.Machine.execPresenceRelease now s
  | .presenceLockout now => Sys2Proof.Machine.execPresenceLockout now s
  | .tokenExpiry now => Sys2Proof.Machine.execTokenExpiry now s
  | .getVersion at_ now => Sys2Proof.Machine.execGetVersion at_ now s
  | .getCapabilities at_ now => Sys2Proof.Machine.execGetCapabilities at_ now s
  | .negotiateAlgorithms at_ now => Sys2Proof.Machine.execNegotiateAlgorithms at_ now s
  | .getDigests at_ sess now => Sys2Proof.Machine.execGetDigests at_ sess now s
  | .getCertificate at_ sess slot offset length now => Sys2Proof.Machine.execGetCertificate at_ sess slot offset length now s
  | .challenge at_ slot nonce now => Sys2Proof.Machine.execChallenge at_ slot nonce now s
  | .getMeasurements at_ sess index nonce now => Sys2Proof.Machine.execGetMeasurements at_ sess index nonce now s
  | .keyExchange at_ reqId transcript now => Sys2Proof.Machine.execKeyExchange at_ reqId transcript now s
  | .finish at_ sess transcript now => Sys2Proof.Machine.execFinish at_ sess transcript now s
  | .heartbeat at_ sess now => Sys2Proof.Machine.execHeartbeat at_ sess now s
  | .keyUpdate at_ sess now => Sys2Proof.Machine.execKeyUpdate at_ sess now s
  | .endSession at_ sess now => Sys2Proof.Machine.execEndSession at_ sess now s
  | .spdmUnsupportedRequest at_ code now => Sys2Proof.Machine.execSpdmUnsupportedRequest at_ code now s
  | .spdmSessionTimeout at_ sess now => Sys2Proof.Machine.execSpdmSessionTimeout at_ sess now s
  | .getTdispVersion part now => Sys2Proof.Machine.execGetTdispVersion part now s
  | .getTdispCapabilities part now => Sys2Proof.Machine.execGetTdispCapabilities part now s
  | .lockInterfaceRequest part now => Sys2Proof.Machine.execLockInterfaceRequest part now s
  | .startInterfaceRequest part now => Sys2Proof.Machine.execStartInterfaceRequest part now s
  | .stopInterfaceRequest part now => Sys2Proof.Machine.execStopInterfaceRequest part now s
  | .getDeviceInterfaceReport part now => Sys2Proof.Machine.execGetDeviceInterfaceReport part now s
  | .getDeviceInterfaceState part now => Sys2Proof.Machine.execGetDeviceInterfaceState part now s
  | .tdispUnsupportedRequest part code now => Sys2Proof.Machine.execTdispUnsupportedRequest part code now s
  | .query now => Sys2Proof.Machine.execQuery now s
  | .keyProg stream streamId keySet tx sub key iv now => Sys2Proof.Machine.execKeyProg stream streamId keySet tx sub key iv now s
  | .kSetGo stream keySet tx sub now => Sys2Proof.Machine.execKSetGo stream keySet tx sub now s
  | .kSetStop stream keySet tx sub now => Sys2Proof.Machine.execKSetStop stream keySet tx sub now s
  | .ideKeyPortAck now => Sys2Proof.Machine.execIdeKeyPortAck now s
  | .ideKeyPortTimeout now => Sys2Proof.Machine.execIdeKeyPortTimeout now s
  | .hello msg now => Sys2Proof.Machine.execHello msg now s
  | .proofP msg now => Sys2Proof.Machine.execProofP msg now s
  | .proofC msg now => Sys2Proof.Machine.execProofC msg now s
  | .key msg now => Sys2Proof.Machine.execKey msg now s
  | .keyAck msg now => Sys2Proof.Machine.execKeyAck msg now s
  | .confirm msg now => Sys2Proof.Machine.execConfirm msg now s
  | .epochNew msg now => Sys2Proof.Machine.execEpochNew msg now s
  | .epochReady msg now => Sys2Proof.Machine.execEpochReady msg now s
  | .epochCommit msg now => Sys2Proof.Machine.execEpochCommit msg now s
  | .leave msg now => Sys2Proof.Machine.execLeave msg now s
  | .reportReq msg now => Sys2Proof.Machine.execReportReq msg now s
  | .report msg now => Sys2Proof.Machine.execReport msg now s
  | .hold msg now => Sys2Proof.Machine.execHold msg now s
  | .refuse msg now => Sys2Proof.Machine.execRefuse msg now s
  | .domainRetransmit part sess now => Sys2Proof.Machine.execDomainRetransmit part sess now s
  | .domainReassemblyTimeout srcNode srcPart now => Sys2Proof.Machine.execDomainReassemblyTimeout srcNode srcPart now s
  | .oldDomainKeyErase part now => Sys2Proof.Machine.execOldDomainKeyErase part now s
  | .portNodeWrite req port val now => Sys2Proof.Machine.execPortNodeWrite req port val now s
  | .channelSend port hdr payload now => Sys2Proof.Machine.execChannelSend port hdr payload now s
  | .reservedRequestType port hdr payload now => Sys2Proof.Machine.execReservedRequestType port hdr payload now s
  | .data port pkt now => Sys2Proof.Machine.execData port pkt now s
  | .marker port pkt now => Sys2Proof.Machine.execMarker port pkt now s
  | .markerAcknowledge slot now => Sys2Proof.Machine.execMarkerAcknowledge slot now s
  | .markAck port pkt now => Sys2Proof.Machine.execMarkAck port pkt now s
  | .credit port pkt now => Sys2Proof.Machine.execCredit port pkt now s
  | .syncReq port pkt now => Sys2Proof.Machine.execSyncReq port pkt now s
  | .syncAck port pkt now => Sys2Proof.Machine.execSyncAck port pkt now s
  | .ctrlDomainFragment port pkt now => Sys2Proof.Machine.execCtrlDomainFragment port pkt now s
  | .reservedKindPacket port pkt now => Sys2Proof.Machine.execReservedKindPacket port pkt now s
  | .syncTimeout slot now => Sys2Proof.Machine.execSyncTimeout slot now s
  | .markerResend slot now => Sys2Proof.Machine.execMarkerResend slot now s
  | .markerTimeout slot now => Sys2Proof.Machine.execMarkerTimeout slot now s
  | .creditStallTimeout slot now => Sys2Proof.Machine.execCreditStallTimeout slot now s
  | .gapTimeout slot now => Sys2Proof.Machine.execGapTimeout slot now s
  | .creditTimer slot now => Sys2Proof.Machine.execCreditTimer slot now s
  | .keptEpochExpiry slot now => Sys2Proof.Machine.execKeptEpochExpiry slot now s
  | .heldRequestTimeout port now => Sys2Proof.Machine.execHeldRequestTimeout port now s
  | .linkUp port now => Sys2Proof.Machine.execLinkUp port now s
  | .linkDown port now => Sys2Proof.Machine.execLinkDown port now s
  | .chEvict req slot now => Sys2Proof.Machine.execChEvict req slot now s
  | .sumRequest port hdr payload now => Sys2Proof.Machine.execSumRequest port hdr payload now s
  | .sum port pkt now => Sys2Proof.Machine.execSum port pkt now s
  | .gatherTimeout square pair pkt now => Sys2Proof.Machine.execGatherTimeout square pair pkt now s
  | .accumulatorTimeout square pair pkt now => Sys2Proof.Machine.execAccumulatorTimeout square pair pkt now s
  | .ringTimeout square pair now => Sys2Proof.Machine.execRingTimeout square pair now s
  | .sumEvent square pair now => Sys2Proof.Machine.execSumEvent square pair now s
  | .sumRelease req part now => Sys2Proof.Machine.execSumRelease req part now s
  | .multicastRequest port hdr payload now => Sys2Proof.Machine.execMulticastRequest port hdr payload now s
  | .mstore port pkt now => Sys2Proof.Machine.execMstore port pkt now s
  | .squareRead port hdr payload now => Sys2Proof.Machine.execSquareRead port hdr payload now s
  | .readReq port pkt now => Sys2Proof.Machine.execReadReq port pkt now s
  | .readRsp port pkt now => Sys2Proof.Machine.execReadRsp port pkt now s
  | .squareReadTimeout port tag now => Sys2Proof.Machine.execSquareReadTimeout port tag now s
  | .mergeWindowClose line now => Sys2Proof.Machine.execMergeWindowClose line now s
  | .markerFlush port now => Sys2Proof.Machine.execMarkerFlush port now s
  | .memoryRead engine stream hdr now => Sys2Proof.Machine.execMemoryRead engine stream hdr now s
  | .memoryWrite engine stream hdr payload now => Sys2Proof.Machine.execMemoryWrite engine stream hdr payload now s
  | .stackReadResponse engine tag line check status now => Sys2Proof.Machine.execStackReadResponse engine tag line check status now s
  | .landingSlotGrant engine now => Sys2Proof.Machine.execLandingSlotGrant engine now s
  | .pantrySplitAdjust engine ties now => Sys2Proof.Machine.execPantrySplitAdjust engine ties now s
  | .pantrySplitWrite req engine val now => Sys2Proof.Machine.execPantrySplitWrite req engine val now s
  | .errInfoRelease req engine now => Sys2Proof.Machine.execErrInfoRelease req engine now s
  | .segErrRelease req engine now => Sys2Proof.Machine.execSegErrRelease req engine now s
  | .regionShareWrite req val now => Sys2Proof.Machine.execRegionShareWrite req val now s
  | .regionRightsWrite req val now => Sys2Proof.Machine.execRegionRightsWrite req val now s
  | .pageConversion engine job now => Sys2Proof.Machine.execPageConversion engine job now s
  | .exportPage engine job now => Sys2Proof.Machine.execExportPage engine job now s
  | .rekeyEnd job now => Sys2Proof.Machine.execRekeyEnd job now s
  | .sweepChunk engine job now => Sys2Proof.Machine.execSweepChunk engine job now s
  | .pantryWriteAhead engine now => Sys2Proof.Machine.execPantryWriteAhead engine now s
  | .jobStall job now => Sys2Proof.Machine.execJobStall job now s
  | .heartbeatMiss island now => Sys2Proof.Machine.execHeartbeatMiss island now s
  | .pageTableWrite req thread val now => Sys2Proof.Machine.execPageTableWrite req thread val now s
  | .memCpl tag ok payload now => Sys2Proof.Machine.execMemCpl tag ok payload now s
  | .hostWriteComplete tag now => Sys2Proof.Machine.execHostWriteComplete tag now s
  | .xlatCpl page ok now => Sys2Proof.Machine.execXlatCpl page ok now s
  | .inval page now => Sys2Proof.Machine.execInval page now s
  | .invalDone page now => Sys2Proof.Machine.execInvalDone page now s
  | .doeAbort at_ now => Sys2Proof.Machine.execDoeAbort at_ now s
  | .partEnable req part now => Sys2Proof.Machine.execPartEnable req part now s
  | .partDisable req part now => Sys2Proof.Machine.execPartDisable req part now s
  | .partReset req part now => Sys2Proof.Machine.execPartReset req part now s
  | .partitionResetEnd part now => Sys2Proof.Machine.execPartitionResetEnd part now s
  | .mailboxPost req outbound part slot header now => Sys2Proof.Machine.execMailboxPost req outbound part slot header now s
  | .mailboxTake req outbound part slots now => Sys2Proof.Machine.execMailboxTake req outbound part slots now s
  | .migrateWrite req part val now => Sys2Proof.Machine.execMigrateWrite req part val now s
  | .ident frame now => Sys2Proof.Machine.execIdent frame now s
  | .proof frame now => Sys2Proof.Machine.execProof frame now s
  | .pairOk frame now => Sys2Proof.Machine.execPairOk frame now s
  | .manifest frame now => Sys2Proof.Machine.execManifest frame now s
  | .vaultKey frame now => Sys2Proof.Machine.execVaultKey frame now s
  | .shardData frame now => Sys2Proof.Machine.execShardData frame now s
  | .progOk frame now => Sys2Proof.Machine.execProgOk frame now s
  | .vaultError frame now => Sys2Proof.Machine.execVaultError frame now s
  | .vaultFrameTimeout now => Sys2Proof.Machine.execVaultFrameTimeout now s
  | .vloadStart now => Sys2Proof.Machine.execVloadStart now s
  | .vaultSealOpen now => Sys2Proof.Machine.execVaultSealOpen now s
  | .countRead req part k now => Sys2Proof.Machine.execCountRead req part k now s
  | .managerSnap req now => Sys2Proof.Machine.execManagerSnap req now s
  | .atticRecordWrite now => Sys2Proof.Machine.execAtticRecordWrite now s
  | .atticExport now => Sys2Proof.Machine.execAtticExport now s
  | .atticRecLatch req thread now => Sys2Proof.Machine.execAtticRecLatch req thread now s
  | .atticRecAdvance req thread now => Sys2Proof.Machine.execAtticRecAdvance req thread now s
  | .externalEdge src now => Sys2Proof.Machine.execExternalEdge src now s
  | .stormIntervalEnd now => Sys2Proof.Machine.execStormIntervalEnd now s
  | .stuckTimeout src now => Sys2Proof.Machine.execStuckTimeout src now s
  | .levelInputChange src active now => Sys2Proof.Machine.execLevelInputChange src active now s
  | .interruptDelivery now => Sys2Proof.Machine.execInterruptDelivery now s
  | .eoi req target val now => Sys2Proof.Machine.execEoi req target val now s
  | .irqAck target now => Sys2Proof.Machine.execIrqAck target now s
  | .maskSet req w val now => Sys2Proof.Machine.execMaskSet req w val now s
  | .maskClr req w val now => Sys2Proof.Machine.execMaskClr req w val now s
  | .pendSet req w val now => Sys2Proof.Machine.execPendSet req w val now s
  | .pendClr req w val now => Sys2Proof.Machine.execPendClr req w val now s
  | .targetWrite req src val now => Sys2Proof.Machine.execTargetWrite req src val now s
  | .tgtCtrlWrite req target val now => Sys2Proof.Machine.execTgtCtrlWrite req target val now s
  | .dumpStatusRelease req now => Sys2Proof.Machine.execDumpStatusRelease req now s
  | .selfTest unit fails failsAgain now => Sys2Proof.Machine.execSelfTest unit fails failsAgain now s
  | .powerOffRequest req domain now => Sys2Proof.Machine.execPowerOffRequest req domain now s
  | .powerOnRequest req domain now => Sys2Proof.Machine.execPowerOnRequest req domain now s
  | .pwrAck domain level now => Sys2Proof.Machine.execPwrAck domain level now s
  | .powerAckTimeout domain now => Sys2Proof.Machine.execPowerAckTimeout domain now s
  | .dvfsMeasure domain occupancy queueMax now => Sys2Proof.Machine.execDvfsMeasure domain occupancy queueMax now s
  | .vok domain now => Sys2Proof.Machine.execVok domain now s
  | .spreadStep domain now => Sys2Proof.Machine.execSpreadStep domain now s
  | .clkSpreadWrite req val now => Sys2Proof.Machine.execClkSpreadWrite req val now s
  | .budgetStrobe word => Sys2Proof.Machine.execBudgetStrobe word s
  | .budgetEpoch now => Sys2Proof.Machine.execBudgetEpoch now s
  | .linkStateRecordAccess addr write => Sys2Proof.Machine.execLinkStateRecordAccess addr write s
  | .registerRead req off size now => Sys2Proof.Machine.execRegisterRead req off size now s
  | .landingFull port now => Sys2Proof.Machine.execLandingFull port now s
  | .fuseBlowDone readsBack now => Sys2Proof.Machine.execFuseBlowDone readsBack now s
  | .dynamicAddressAssignment addr => Sys2Proof.Machine.execDynamicAddressAssignment addr s
  | .endpointIdAssignment eid => Sys2Proof.Machine.execEndpointIdAssignment eid s

end Sys2Proof.Machine
end

