-- ==== Sys2Proof/Machine/Step.lean ====
section
/-! DEFINITION. One step: the command at the front of the queue takes effect with the queue's rest waiting; an empty
queue lets one period of the 100 MHz reference pass (R8, R432; notes/assumptions/3.md). -/

namespace Sys2Proof.Machine

/-- One period of REFCLK passes: house time runs on by 10 ns. -/
def State.tick (s : State) : Host.Outcome State Fault Refusal :=
  .next { s with dev := s.dev.advance (s.dev.time + 10) }

def step (s : State) : Host.Outcome State Fault Refusal :=
  match s.pending with
  | [] => s.tick
  | c :: rest => exec c { s with pending := rest }

/-- s with the command a word spells in front of its queue; s itself where the word spells none. -/
def State.withFetchWord (s : State) (nbits w : Nat) : State :=
  match decodeTableWord nbits w with
  | some c => { s with pending := c :: s.pending }
  | none => s

end Sys2Proof.Machine
end

