-- ==== Sys2Proof/WellFormed.lean ====
section
/-! DEFINITION. When a command's operands fit the wires that carry it, in a configuration: unit numbers that exist (R4,
R427, R469), a row of 256 (R42), a 26-bit aperture offset (R486), a 64-bit house time (R8), packets and payloads of whole
32-byte cells (R172), lines of 128 bytes with 16 check bytes (R491). A command that is not well formed crosses no wire. -/

namespace Sys2Proof

open Machine

/-- A string of whole 32-byte cells, at least one. -/
def Bytes.wholeCells (b : Bytes) : Bool := decide (b.length % 32 = 0) && !b.isEmpty

/-- A requester's index names a partition for class PARTITION and is zero for MANAGER and DEBUG (R24). -/
def Requester.wf (k : Kind) (r : Requester) : Bool :=
  if r.cls = 1 then decide (r.idx.toNat < Kind.parts k) else r.idx = 0 || decide (2 < r.cls.toNat)

/-- An SPDM mailbox that exists (R136). -/
def SpdmPort.wf (k : Kind) : SpdmPort → Bool
  | .physical => true
  | .interface n => decide (n < Kind.parts k)
  | .management => true

/-- A unit that tests itself exists (R458). -/
def TestUnit.wf (k : Kind) (u : TestUnit) : Bool := unitPresent k u

def below (n x : Nat) : Bool := Nat.blt x n
def okPort (k : Kind) (p : Nat) : Bool := below (Kind.ports k) p
def okEngine (k : Kind) (m : Nat) : Bool := below (Kind.engines k) m
/-- A partition's thread or the manager's (R41). -/
def okThread (k : Kind) (t : Nat) : Bool := below (Kind.parts k + 1) t
def okPart (k : Kind) (n : Nat) : Bool := below (Kind.parts k) n
def okRow (r : Nat) : Bool := below 256 r
def okDomain (k : Kind) (n : Nat) : Bool := below (Kind.domains k) n
/-- A domain that can be switched (R469). -/
def okSwitch (k : Kind) (n : Nat) : Bool := Kind.switchable k n
/-- A domain with a voltage loop of its own: a memory engine's or a port group's (R474). -/
def okLoop (k : Kind) (n : Nat) : Bool := Nat.ble 8 n && below (Kind.domains k) n
def okSquare (k : Kind) (n : Nat) : Bool := below (Kind.squareSlots k) n
def okChan (k : Kind) (n : Nat) : Bool := below (Kind.chanSlots k) n
def okTime (t : Nat) : Bool := below (2 ^ 64) t
def ofLen (n : Nat) (b : Bytes) : Bool := Nat.beq b.length n
def atLeast (n : Nat) (b : Bytes) : Bool := Nat.ble n b.length

/-- A command's operands fit the wires of the configuration. -/
def Instr.wf (k : Kind) (i : Instr) : Bool :=
  match i with
  | .coldBoot _ _ => true
  | .warmReset _ now => okTime now
  | .warmResetComplete now => okTime now
  | .boot _ now => okTime now
  | .bootWaitExpiry now => okTime now
  | .blockResetService req now => Requester.wf k req && okTime now
  | .blockResetTest req now => Requester.wf k req && okTime now
  | .registerWrite req off _ _ now => Requester.wf k req && below 0x4000000 off && okTime now
  | .counterReadClear req off now => Requester.wf k req && below 0x4000000 off && okTime now
  | .portFaultInfoRelease req now => Requester.wf k req && okTime now
  | .rowWrite req thread row _ now => Requester.wf k req && okThread k thread && okRow row && okTime now
  | .eventLoRead req thread now => Requester.wf k req && okThread k thread && okTime now
  | .resume req thread now => Requester.wf k req && okThread k thread && okTime now
  | .discard req thread now => Requester.wf k req && okThread k thread && okTime now
  | .clearOverwrite req thread now => Requester.wf k req && okThread k thread && okTime now
  | .rowIssue now => okTime now
  | .reservedOpcode thread row now => okThread k thread && okRow row && okTime now
  | .blockedStepRelease thread now => okThread k thread && okTime now
  | .engineCompletion thread row now => okThread k thread && okRow row && okTime now
  | .rowRetire thread now => okThread k thread && okTime now
  | .eventPost thread now => okThread k thread && okTime now
  | .jobEvent thread now => okThread k thread && okTime now
  | .stepDeadline thread row now => okThread k thread && okRow row && okTime now
  | .withdrawalConfirm thread row _ now => okThread k thread && okRow row && okTime now
  | .withdrawalTimeout thread row now => okThread k thread && okRow row && okTime now
  | .nop thread row now => okThread k thread && okRow row && okTime now
  | .fence thread row now => okThread k thread && okRow row && okTime now
  | .fenceComplete thread now => okThread k thread && okTime now
  | .wait thread row now => okThread k thread && okRow row && okTime now
  | .waitComplete thread now => okThread k thread && okTime now
  | .event thread row now => okThread k thread && okRow row && okTime now
  | .rfence thread row now => okThread k thread && okRow row && okTime now
  | .rfenceComplete thread row now => okThread k thread && okRow row && okTime now
  | .genkey thread row now => okThread k thread && okRow row && okTime now
  | .derive thread row now => okThread k thread && okRow row && okTime now
  | .wrap thread row now => okThread k thread && okRow row && okTime now
  | .unwrap thread row now => okThread k thread && okRow row && okTime now
  | .erase thread row now => okThread k thread && okRow row && okTime now
  | .import thread row now => okThread k thread && okRow row && okTime now
  | .mapreg thread row now => okThread k thread && okRow row && okTime now
  | .unmapreg thread row now => okThread k thread && okRow row && okTime now
  | .seal thread row now => okThread k thread && okRow row && okTime now
  | .unseal thread row now => okThread k thread && okRow row && okTime now
  | .rekey thread row now => okThread k thread && okRow row && okTime now
  | .sweep thread row now => okThread k thread && okRow row && okTime now
  | .pageout thread row now => okThread k thread && okRow row && okTime now
  | .pagein thread row now => okThread k thread && okRow row && okTime now
  | .chopen thread row now => okThread k thread && okRow row && okTime now
  | .chclose thread row now => okThread k thread && okRow row && okTime now
  | .chepoch thread row now => okThread k thread && okRow row && okTime now
  | .sqjoin thread row now => okThread k thread && okRow row && okTime now
  | .sqleave thread row now => okThread k thread && okRow row && okTime now
  | .sumset thread row now => okThread k thread && okRow row && okTime now
  | .attest thread row now => okThread k thread && okRow row && okTime now
  | .measure thread row now => okThread k thread && okRow row && okTime now
  | .domjoin thread row now => okThread k thread && okRow row && okTime now
  | .domlead thread row now => okThread k thread && okRow row && okTime now
  | .freeze thread row now => okThread k thread && okRow row && okTime now
  | .save thread row now => okThread k thread && okRow row && okTime now
  | .restore thread row now => okThread k thread && okRow row && okTime now
  | .thaw thread row now => okThread k thread && okRow row && okTime now
  | .quota thread row now => okThread k thread && okRow row && okTime now
  | .vopen thread row now => okThread k thread && okRow row && okTime now
  | .vload thread row now => okThread k thread && okRow row && okTime now
  | .vclose thread row now => okThread k thread && okRow row && okTime now
  | .snap thread row now => okThread k thread && okRow row && okTime now
  | .snapLatch thread now => okThread k thread && okTime now
  | .trace thread row now => okThread k thread && okRow row && okTime now
  | .drbgReseed now => okTime now
  | .entropyTestFail now => okTime now
  | .entropyStartupTestDone now => okTime now
  | .larderScrub _ now => okTime now
  | .pkeOperationDone now => okTime now
  | .getNonce _ msg now => atLeast 20 msg && okTime now
  | .getState _ msg now => atLeast 20 msg && okTime now
  | .credPresent _ msg now => atLeast 20 msg && okTime now
  | .provision _ msg now => atLeast 20 msg && okTime now
  | .deploy _ msg now => atLeast 20 msg && okTime now
  | .debugEnter _ msg now => atLeast 20 msg && okTime now
  | .debugExit _ msg now => atLeast 20 msg && okTime now
  | .retire _ msg now => atLeast 20 msg && okTime now
  | .credInstall _ msg now => atLeast 20 msg && okTime now
  | .leaveBoarded _ msg now => atLeast 20 msg && okTime now
  | .partCtrl _ msg now => atLeast 20 msg && okTime now
  | .partQuota _ msg now => atLeast 20 msg && okTime now
  | .cellarRead _ msg now => atLeast 20 msg && okTime now
  | .dumpRelease _ msg now => atLeast 20 msg && okTime now
  | .vaultState _ msg now => atLeast 20 msg && okTime now
  | .vaultPair _ msg now => atLeast 20 msg && okTime now
  | .vaultUnpair _ msg now => atLeast 20 msg && okTime now
  | .vaultProgram _ msg now => atLeast 20 msg && okTime now
  | .mgmtUnknownCommand _ msg now => atLeast 20 msg && okTime now
  | .mctpOtherType _ => true
  | .presencePress now => okTime now
  | .presenceRelease now => okTime now
  | .presenceLockout now => okTime now
  | .tokenExpiry now => okTime now
  | .getVersion at_ now => SpdmPort.wf k at_ && okTime now
  | .getCapabilities at_ now => SpdmPort.wf k at_ && okTime now
  | .negotiateAlgorithms at_ now => SpdmPort.wf k at_ && okTime now
  | .getDigests at_ _ now => SpdmPort.wf k at_ && okTime now
  | .getCertificate at_ _ slot _ _ now => SpdmPort.wf k at_ && below 8 slot && okTime now
  | .challenge at_ slot _ now => SpdmPort.wf k at_ && below 8 slot && okTime now
  | .getMeasurements at_ _ _ _ now => SpdmPort.wf k at_ && okTime now
  | .keyExchange at_ _ _ now => SpdmPort.wf k at_ && okTime now
  | .finish at_ _ _ now => SpdmPort.wf k at_ && okTime now
  | .heartbeat at_ _ now => SpdmPort.wf k at_ && okTime now
  | .keyUpdate at_ _ now => SpdmPort.wf k at_ && okTime now
  | .endSession at_ _ now => SpdmPort.wf k at_ && okTime now
  | .spdmUnsupportedRequest at_ _ now => SpdmPort.wf k at_ && okTime now
  | .spdmSessionTimeout at_ _ now => SpdmPort.wf k at_ && okTime now
  | .getTdispVersion part now => okPart k part && okTime now
  | .getTdispCapabilities part now => okPart k part && okTime now
  | .lockInterfaceRequest part now => okPart k part && okTime now
  | .startInterfaceRequest part now => okPart k part && okTime now
  | .stopInterfaceRequest part now => okPart k part && okTime now
  | .getDeviceInterfaceReport part now => okPart k part && okTime now
  | .getDeviceInterfaceState part now => okPart k part && okTime now
  | .tdispUnsupportedRequest part _ now => okPart k part && okTime now
  | .query now => okTime now
  | .keyProg stream _ _ _ _ _ _ now => below 64 stream && okTime now
  | .kSetGo stream _ _ _ now => below 64 stream && okTime now
  | .kSetStop stream _ _ _ now => below 64 stream && okTime now
  | .ideKeyPortAck now => okTime now
  | .ideKeyPortTimeout now => okTime now
  | .hello msg now => atLeast 16 msg && okTime now
  | .proofP msg now => atLeast 16 msg && okTime now
  | .proofC msg now => atLeast 16 msg && okTime now
  | .key msg now => atLeast 16 msg && okTime now
  | .keyAck msg now => atLeast 16 msg && okTime now
  | .confirm msg now => atLeast 16 msg && okTime now
  | .epochNew msg now => atLeast 16 msg && okTime now
  | .epochReady msg now => atLeast 16 msg && okTime now
  | .epochCommit msg now => atLeast 16 msg && okTime now
  | .leave msg now => atLeast 16 msg && okTime now
  | .reportReq msg now => atLeast 16 msg && okTime now
  | .report msg now => atLeast 16 msg && okTime now
  | .hold msg now => atLeast 16 msg && okTime now
  | .refuse msg now => atLeast 16 msg && okTime now
  | .domainRetransmit part _ now => okPart k part && okTime now
  | .domainReassemblyTimeout srcNode srcPart now => below 0x4000 srcNode && below 32 srcPart && okTime now
  | .oldDomainKeyErase part now => okPart k part && okTime now
  | .portNodeWrite req port _ now => Requester.wf k req && okPort k port && okTime now
  | .channelSend port _ payload now => okPort k port && Bytes.wholeCells payload && okTime now
  | .reservedRequestType port _ payload now => okPort k port && Bytes.wholeCells payload && okTime now
  | .data port pkt now => okPort k port && Bytes.wholeCells pkt && okTime now
  | .marker port pkt now => okPort k port && Bytes.wholeCells pkt && okTime now
  | .markerAcknowledge slot now => okChan k slot && okTime now
  | .markAck port pkt now => okPort k port && Bytes.wholeCells pkt && okTime now
  | .credit port pkt now => okPort k port && Bytes.wholeCells pkt && okTime now
  | .syncReq port pkt now => okPort k port && Bytes.wholeCells pkt && okTime now
  | .syncAck port pkt now => okPort k port && Bytes.wholeCells pkt && okTime now
  | .ctrlDomainFragment port pkt now => okPort k port && Bytes.wholeCells pkt && okTime now
  | .reservedKindPacket port pkt now => okPort k port && Bytes.wholeCells pkt && okTime now
  | .syncTimeout slot now => okChan k slot && okTime now
  | .markerResend slot now => okChan k slot && okTime now
  | .markerTimeout slot now => okChan k slot && okTime now
  | .creditStallTimeout slot now => okChan k slot && okTime now
  | .gapTimeout slot now => okChan k slot && okTime now
  | .creditTimer slot now => okChan k slot && okTime now
  | .keptEpochExpiry slot now => okChan k slot && okTime now
  | .heldRequestTimeout port now => okPort k port && okTime now
  | .linkUp port now => okPort k port && okTime now
  | .linkDown port now => okPort k port && okTime now
  | .chEvict req slot now => Requester.wf k req && okChan k slot && okTime now
  | .sumRequest port _ payload now => okPort k port && Bytes.wholeCells payload && okTime now
  | .sum port pkt now => okPort k port && Bytes.wholeCells pkt && okTime now
  | .gatherTimeout square _ pkt now => okSquare k square && below 1024 pkt && okTime now
  | .accumulatorTimeout square _ pkt now => okSquare k square && below 1024 pkt && okTime now
  | .ringTimeout square _ now => okSquare k square && okTime now
  | .sumEvent square _ now => okSquare k square && okTime now
  | .sumRelease req part now => Requester.wf k req && okPart k part && okTime now
  | .multicastRequest port _ payload now => okPort k port && Bytes.wholeCells payload && okTime now
  | .mstore port pkt now => okPort k port && Bytes.wholeCells pkt && okTime now
  | .squareRead port _ payload now => okPort k port && Bytes.wholeCells payload && okTime now
  | .readReq port pkt now => okPort k port && Bytes.wholeCells pkt && okTime now
  | .readRsp port pkt now => okPort k port && Bytes.wholeCells pkt && okTime now
  | .squareReadTimeout port _ now => okPort k port && okTime now
  | .mergeWindowClose _ now => okTime now
  | .markerFlush port now => okPort k port && okTime now
  | .memoryRead engine stream _ now => okEngine k engine && below 8 stream && okTime now
  | .memoryWrite engine stream _ payload now => okEngine k engine && below 8 stream && ofLen 128 payload && okTime now
  | .stackReadResponse engine _ line check _ now => okEngine k engine && ofLen 128 line && ofLen 16 check && okTime now
  | .landingSlotGrant engine now => okEngine k engine && okTime now
  | .pantrySplitAdjust engine ties now => okEngine k engine && below 3 ties.1 && below 3 ties.2 && okTime now
  | .pantrySplitWrite req engine _ now => Requester.wf k req && okEngine k engine && okTime now
  | .errInfoRelease req engine now => Requester.wf k req && okEngine k engine && okTime now
  | .segErrRelease req engine now => Requester.wf k req && okEngine k engine && okTime now
  | .regionShareWrite req _ now => Requester.wf k req && okTime now
  | .regionRightsWrite req _ now => Requester.wf k req && okTime now
  | .pageConversion engine job now => okEngine k engine && below 64 job && okTime now
  | .exportPage engine job now => okEngine k engine && below 64 job && okTime now
  | .rekeyEnd job now => below 64 job && okTime now
  | .sweepChunk engine job now => okEngine k engine && below 64 job && okTime now
  | .pantryWriteAhead engine now => okEngine k engine && okTime now
  | .jobStall job now => below 65 job && okTime now
  | .heartbeatMiss _ now => okTime now
  | .pageTableWrite req thread _ now => Requester.wf k req && okThread k thread && okTime now
  | .memCpl _ _ _ now => okTime now
  | .hostWriteComplete _ now => okTime now
  | .xlatCpl _ _ now => okTime now
  | .inval _ now => okTime now
  | .invalDone _ now => okTime now
  | .doeAbort at_ now => SpdmPort.wf k at_ && okTime now
  | .partEnable req part now => Requester.wf k req && okPart k part && okTime now
  | .partDisable req part now => Requester.wf k req && okPart k part && okTime now
  | .partReset req part now => Requester.wf k req && okPart k part && okTime now
  | .partitionResetEnd part now => okPart k part && okTime now
  | .mailboxPost req _ part slot _ now => Requester.wf k req && okPart k part && below 16 slot && okTime now
  | .mailboxTake req _ part _ now => Requester.wf k req && okPart k part && okTime now
  | .migrateWrite req part _ now => Requester.wf k req && okPart k part && okTime now
  | .ident frame now => atLeast 8 frame && okTime now
  | .proof frame now => atLeast 8 frame && okTime now
  | .pairOk frame now => atLeast 8 frame && okTime now
  | .manifest frame now => atLeast 8 frame && okTime now
  | .vaultKey frame now => atLeast 8 frame && okTime now
  | .shardData frame now => atLeast 8 frame && okTime now
  | .progOk frame now => atLeast 8 frame && okTime now
  | .vaultError frame now => atLeast 8 frame && okTime now
  | .vaultFrameTimeout now => okTime now
  | .vloadStart now => okTime now
  | .vaultSealOpen now => okTime now
  | .countRead req part counter now => Requester.wf k req && okPart k part && below 16 counter && okTime now
  | .managerSnap req now => Requester.wf k req && okTime now
  | .atticRecordWrite now => okTime now
  | .atticExport now => okTime now
  | .atticRecLatch req thread now => Requester.wf k req && okThread k thread && okTime now
  | .atticRecAdvance req thread now => Requester.wf k req && okThread k thread && okTime now
  | .externalEdge src now => below 256 src && okTime now
  | .stormIntervalEnd now => okTime now
  | .stuckTimeout src now => below 256 src && okTime now
  | .levelInputChange src _ now => below 256 src && okTime now
  | .interruptDelivery now => okTime now
  | .eoi req target _ now => Requester.wf k req && below 8 target && okTime now
  | .irqAck target now => below 8 target && okTime now
  | .maskSet req w _ now => Requester.wf k req && below 4 w && okTime now
  | .maskClr req w _ now => Requester.wf k req && below 4 w && okTime now
  | .pendSet req w _ now => Requester.wf k req && below 4 w && okTime now
  | .pendClr req w _ now => Requester.wf k req && below 4 w && okTime now
  | .targetWrite req src _ now => Requester.wf k req && below 256 src && okTime now
  | .tgtCtrlWrite req target _ now => Requester.wf k req && below 8 target && okTime now
  | .dumpStatusRelease req now => Requester.wf k req && okTime now
  | .selfTest unit _ _ now => TestUnit.wf k unit && okTime now
  | .powerOffRequest req domain now => Requester.wf k req && okDomain k domain && okTime now
  | .powerOnRequest req domain now => Requester.wf k req && okDomain k domain && okTime now
  | .pwrAck domain _ now => okSwitch k domain && okTime now
  | .powerAckTimeout domain now => okSwitch k domain && okTime now
  | .dvfsMeasure domain _ _ now => okLoop k domain && okTime now
  | .vok domain now => okLoop k domain && okTime now
  | .spreadStep domain now => okDomain k domain && okTime now
  | .clkSpreadWrite req _ now => Requester.wf k req && okTime now
  | .budgetStrobe _ => true
  | .budgetEpoch now => okTime now
  | .linkStateRecordAccess addr _ => okPort k (addr.toNat / 32)
  | .registerRead req off _ now => Requester.wf k req && below 0x4000000 off && okTime now
  | .landingFull port now => okPort k port && okTime now
  | .fuseBlowDone _ now => okTime now
  | .dynamicAddressAssignment _ => true
  | .endpointIdAssignment _ => true

end Sys2Proof
end

