-- ==== Sys2Proof/Safety.lean ====
section
/-! DEFINITION. What counts as a safe run, and the terms in which statements say when a command has its own effect: the block as a
command finds it, a requester that may reach a register, a step that stands dispatched at its engine, a block in which
nothing waits that could go on, fuse banks that only gain. -/

namespace Sys2Proof.Machine

/-- Every waiting command is well formed for the configuration. -/
def State.wf (s : State) : Bool := s.pending.all (Instr.wf s.dev.kind)

/-- n steps, stopping at the first fault or refusal. -/
def State.runs (n : Nat) (s : State) : Host.Outcome State Fault Refusal :=
  match n with
  | 0 => .next s
  | k + 1 => match step s with
    | .next t => t.runs k
    | .fault f => .fault f
    | .refused r => .refused r

/-- A run of n steps is safe when none of them stops the machine. -/
def State.safe (n : Nat) (s : State) : Bool :=
  match s.runs n with
  | .next _ => true
  | _ => false

/-- The indices of a table rise strictly from one above `low` on. -/
def rising {α : Type} (low : Nat) : Tbl α → Bool
  | [] => true
  | (i, _) :: r => decide (low ≤ i) && rising (i + 1) r

/-- The canonical form of a table: rising indices, no entry equal to what an unlisted index reads as. -/
def tblWf {α : Type} [DecidableEq α] (t : Tbl α) (d : α) : Bool := rising 0 t && t.all fun e => decide (e.2 ≠ d)

/-! ## What a command finds -/

/-- The block at the house time at which a command happens: nothing but house time and the interrupt controller's own progress
(R8, R434) is later than in s. -/
def State.at (s : State) (now : Nat) : Dev := s.dev.advance now

/-- A command that takes effect leaves the queue as it finds it and the block as e. -/
def State.left (s : State) (e : Dev) : Host.Outcome State Fault Refusal := .next { s with dev := e }

/-- The same for a command whose effect may let waiting work go on: the block as e, and then everything in e that waits and can go on does
so (R283; a quiet e stays as it is, Laws/Pump.lean). -/
def State.goesOn (s : State) (now : Nat) (e : Dev) : Host.Outcome State Fault Refusal :=
  .next { s with dev := e.pump.keep (s.at now) }

/-- The manager reaches the register port: class MANAGER (R24), HALL.STATUS.state READY, not frozen (R34, R444). -/
def Dev.managerMay (d : Dev) (r : Requester) : Prop := r.cls = 0 ∧ d.ready = true

/-- The partition's own software, or for the manager's thread the manager, reaches the registers of a Porch (R32, R35). -/
def Dev.ownerMay (d : Dev) (r : Requester) (thread : Nat) : Prop :=
  d.ready = true ∧
    ((r.cls = 0 ∧ thread = d.mgr) ∨ (r.cls = 1 ∧ thread = r.idx.toNat ∧ thread < d.nparts ∧ (d.part thread).bound = true))

/-- A step of an opcode stands dispatched at its engine in a READY block (R59), its turn has come, the objects it names are there (R56)
and the reserved keys its engine loads are intact (R86). -/
def Dev.dispatched (d : Dev) (thread row : Nat) (op : Opc) (x : Flight) : Prop :=
  d.ready = true ∧ thread ≤ d.mgr ∧ d.flight thread row = some x ∧ x.stage = .dispatched ∧ (Step.of x.step).op = some op ∧
    x.orphaned = false ∧ d.awaitsObject thread x = false ∧ d.loading thread row op = d

/-- The stage of a row in flight. -/
def Dev.stageOf (d : Dev) (thread row : Nat) : Option Stage := (d.flight thread row).map (·.stage)

/-- A row of a thread completes with a status that does not halt it, or carries `cont` (R62). -/
def Thread.completes (t : Thread) (row : Nat) (st : Byte) : Thread :=
  { t with flights := t.flights.map fun y =>
      if y.row = row then { y with stage := .completed st } else if y.stage = .barrier then { y with markers := row + 1 } else y }

/-- The public-key engine works on a row's request (R105). -/
def Dev.pkeServes (d : Dev) (thread row : Nat) : Prop :=
  ∃ q rest, d.larder.pke = q :: rest ∧ q.thread = thread ∧ q.row = some row

/-! ## Management commands (R120) -/

/-- A management message is taken as the command of a code: the port serves, it comes in a session or may come outside one, and where the
command asks for them its signatures verify and a token is live (R117, R120); the DRBG serves the nonce of an answer (R79, R80). -/
def Dev.mgmtTakes (d : Dev) (sess : Option Nat) (msg : Bytes) (code : Nat) (outside signed presence : Bool) (m : MgmtMsg) : Prop :=
  MgmtMsg.of msg = some m ∧ d.mgmtUp = true ∧ (d.limited = true → code ≤ 1) ∧ m.code = code ∧ m.reserved = false ∧
    (sess = none → outside = true) ∧ (sess ≠ none → d.mgmtSession sess = true) ∧ (signed = true → d.signedOk m = true) ∧
    (presence = true → d.tokenLive = true) ∧ d.canDraw = true

/-- The block as a command finds it that is taken: its session was heard (R136), its sequence is the last accepted one, the token is used
up (R117, R120). -/
def Dev.mgmtFinds (d : Dev) (sess : Option Nat) (m : MgmtMsg) (signed presence : Bool) : Dev :=
  (d.mgmtHeard sess).onMgmt fun x =>
    { x with lastSeq := if signed then some m.seq else x.lastSeq, armed := if presence then none else x.armed }

/-- The answer to a management command with its fresh nonce (R120), as a record of its session where it came in one (R132). -/
def Dev.mgmtAnswer (d : Dev) (sess : Option Nat) (m : MgmtMsg) (st : Byte) (body : Bytes) : Out :=
  let msg := [0x7F] ++ natBe 4 Config.iana.toNat ++ natLe 1 m.code ++ [st, 0] ++ natLe 4 m.seq ++ natLe 4 body.length
    ++ keyBytes (Config.drbg d.larder.drbg.draws (label 0 0 (partForm none) 0 0 0 0)) ++ body
  match d.mgmtLive sess with
  | some (_, s) => .secured .management (s.record msg)
  | none => .management sess msg

/-! ## Domain messages (R153) -/

/-- A whole domain message of a kind waits in the inbox of a READY block with its kind's length, its reserved bytes zero. -/
def Dev.domTakes (d : Dev) (kind : Nat) (msg : Bytes) : Prop :=
  d.ready = true ∧ (DMsg.of msg).kind = kind ∧ (∀ l, domLength kind = some l → (DMsg.of msg).body.length = l) ∧
    domZero kind (DMsg.of msg).body = true ∧ (d.inbox.find? fun x => x.2 = msg).isSome = true

/-- The block with the message taken from its inbox. -/
def Dev.took (d : Dev) (msg : Bytes) : Dev :=
  match d.inbox.find? fun x => x.2 = msg with
  | some e => { d with inbox := d.inbox.erase e }
  | none => d

/-! ## Requests and packets at the ports (R174, R488) -/

/-- A request of a type passes the checks every request has, on an open port of a block that has its node id, whose transmit path has met
no parity or code failure (R324, R488). -/
def Dev.requestTaken (d : Dev) (port : Nat) (hdr : BitVec 256) (payload : Bytes) (type : Nat) : Prop :=
  port < Kind.ports d.kind ∧ d.portOpen port = true ∧ d.reqBad hdr = false ∧ reqLength hdr payload = false ∧ d.hall.nodeValid = true ∧
    (d.port port).txSpoiled = false ∧ (TxReq.of hdr).type = type

/-- A packet of a kind for this node arrives on an open port that takes it: Landing has room for it (R190), and the port's receive path has met no parity or code failure
(R171, R173, R174, R324). -/
def Dev.packetTaken (d : Dev) (port : Nat) (bytes : Bytes) (kind : Nat) : Prop :=
  port < Kind.ports d.kind ∧ d.portOpen port = true ∧ (Pkt.of bytes).kind = kind ∧ d.forNode (Pkt.of bytes) = true ∧
    (Pkt.of bytes).version = 1 ∧ (d.port port).rxSpoiled = false ∧
    (d.needsLanding port (Pkt.of bytes) = true → d.landingRoom port (Pkt.of bytes).payload.length = true)

/-- The block with the packet's payload in the port's Landing, where it is held there while its tag is checked (R190, R206). -/
def Dev.tookIn (d : Dev) (port : Nat) (bytes : Bytes) : Dev :=
  if d.needsLanding port (Pkt.of bytes) then d.landingMark port (Pkt.of bytes).payload.length else d

/-- A CTRL packet of a type, well formed and within the port's rate (R180). -/
def Dev.ctrlTaken (d : Dev) (port : Nat) (bytes : Bytes) (type : Nat) : Prop :=
  d.packetTaken port bytes 0x30 ∧ d.ctrlMalformed (Pkt.of bytes) = false ∧ leAt (Pkt.of bytes).head 12 1 = type ∧
    (d.clearTake port).1 = true

/-- Node and partition a packet names as its sender (R175). -/
def Pkt.srcNode (p : Pkt) : Nat := fld (leAt p.head 8 4) 0 14
def Pkt.srcPart (p : Pkt) : Nat := fld (leAt p.head 8 4) 14 5

/-- Nothing of a page was ever stored: the Pantry holds neither its leaf nor its level-1 node, and its level-2 node has its chunk fresh
(R277). -/
def Engine.untouched (e : Engine) (q : Nat) : Bool :=
  (e.entry (leafLine q)).isNone && (e.entry (l1Line (q / 64))).isNone && !cPoison (e.l2Node (q / 64 / 64)) (q / 64 % 64) &&
    cFresh (e.l2Node (q / 64 / 64)) (q / 64 % 64)

/-! ## Frames of the Vault link (R392) -/

/-- A frame of a kind with its sequence and body, and its trailer where the link has a key for one. -/
def vaultFrame (kind seq : Nat) (body : Bytes) (key : Option Key) : Bytes :=
  let b := natLe 1 kind ++ [0x01, 0, 0] ++ natLe 4 body.length ++ natLe 8 seq ++ body
  match key with
  | some k => b ++ hmac (keyBytes k) b
  | none => b

/-- A frame that the link awaits arrives well formed, with its body. -/
def Dev.frameTaken (d : Dev) (f : Bytes) (kind : Nat) (await : VAwait) (key : Option Key) (body : Bytes) : Prop :=
  leAt f 0 1 = kind ∧ d.vault.st ≠ .closed ∧ d.powered 4 = true ∧ d.ready = true ∧ d.vault.body f kind key = some body ∧
    d.vault.await = await

/-! ## A block in which nothing waits that could go on -/

/-- A region's key is not near its budget (R289). -/
def Region.calm (r : Region) : Bool :=
  !r.reap && (decide (r.st ≠ .live) || decide (r.kind = 2) ||
    (if r.newSlot.isSome then decide (r.writes < budgetHigh) && decide (r.oldWrites < budgetHigh) else decide (r.writes < writeBudget)))

/-- No memory operation can go on, no merge entry, channel or region waits to be drained or freed, no region key is near its budget, no
Vault load runs, no Vault command, square response, square read or request waits, no policy core waits to be judged. -/
def Dev.quiet (d : Dev) : Bool :=
  d.nextOp.isNone && d.merge.all (fun e => !e.due) && d.vault.waiting.isEmpty && d.chans.all (fun e => !e.2.evicted) && d.regions.all (fun e => e.2.calm) && d.vault.loads.isEmpty &&
  d.sqResps.isEmpty && d.sqReads.all (fun r => r.sent) && d.parked.isEmpty &&
  d.parts.all (fun p => p.2.dom.tickets.all fun t => decide (t.2.length ≤ 1024))

/-! ## Fuses (R111, R498) -/

/-- Every fuse blown in f is blown in g: bits gained, none lost, and every credential slot of f as it was. -/
def Fuses.within (f g : Fuses) : Prop :=
  f.lc &&& g.lc = f.lc ∧ f.uds &&& g.uds = f.uds ∧ f.udsCheck &&& g.udsCheck = f.udsCheck ∧ f.credCount ≤ g.credCount ∧
    ∀ n, n < f.credCount → tget g.creds 0 n = tget f.creds 0 n

/-- The credential bank lists blown slots alone, by rising number, none of them all zeros. -/
def Fuses.wf (f : Fuses) : Bool := Tbl.wf 0 f.creds && f.creds.all fun e => decide (e.1 < f.credCount)

end Sys2Proof.Machine
end

