-- ==== Sys2Proof/Certificates/Slice0/Obligations.lean ====
section
/-! DEFINITION. The statements for the provers, family by family. -/

open Sys2Proof Sys2Proof.Machine

/-- A step takes the command at the front of the queue: it is exec of that command with the queue's rest waiting. -/
def Obligations.StepTakesFrontCommand : Prop :=
  ∀ (c : Instr) (rest : List Instr) (s : State), step { s with pending := c :: rest } = exec c { s with pending := rest }

/-- With nothing waiting one period of the 100 MHz reference passes (the model's choice, notes/assumptions/3.md): house time runs on by
10 ns, the queue stays empty, and nothing else of the block but the interrupt controller's own progress is later.
House time never runs back but at a cold boot (R8), a command leaves the queue as it finds it, and the configuration never
changes. -/
def Obligations.HouseTimeRunsOnAndNeverBack : Prop :=
  (∀ s : State, s.pending = [] →
     ∃ t, step s = .next t ∧ t.pending = [] ∧ t.dev.time = s.dev.time + 10 ∧
       { t.dev with time := s.dev.time, intc := s.dev.intc } = s.dev) ∧
  (∀ (c : Instr) (s t : State), exec c s = .next t →
     t.pending = s.pending ∧ t.dev.kind = s.dev.kind ∧ ((∀ i3c addr, c ≠ .coldBoot i3c addr) → s.dev.time ≤ t.dev.time))

/-- Every command is answered with a next state, one whose operands do not fit the wires of the configuration too. -/
def Obligations.WellFormedCommandsAnswer : Prop :=
  ∀ (c : Instr) (s : State), ∃ t, exec c s = .next t

/-- Fuse bits are only ever blown, never cleared (R111): whatever is blown before a step is blown after it, in a credential bank that
keeps its form. -/
def Obligations.StepsOnlyBlowFuses : Prop :=
  ∀ (f : Fuses) (s t : State), f.within s.dev.fuses → s.dev.fuses.wf = true → step s = .next t →
    f.within t.dev.fuses ∧ t.dev.fuses.wf = true

/-- The machine right after reset: no fuse is blown and the credential bank has its form, the queue is empty. -/
def Obligations.ResetMeetsFuseInvariant : Prop :=
  State.reset.pending = [] ∧ State.reset.dev.fuses = {} ∧ State.reset.dev.fuses.wf = true ∧
    ∀ f : Fuses, f.within State.reset.dev.fuses → f.lc = 0 ∧ f.uds = 0 ∧ f.credCount = 0

/-- MASK_SET, MASK_CLR, PEND_SET and PEND_CLR (R429, R439), source by source: a 1 in bit n of word w masks, unmasks, pends or clears source
64 w + n; pending bits only of edge sources that exist; every other bit, and everything else of the block, stays. -/
def Obligations.MaskAndPendWritesActBitByBit : Prop :=
  ∀ (s : State) (r : Requester) (w now : Nat) (v : Word), w < 4 → (s.at now).managerMay r →
    let d := s.at now
    let hit (n : Nat) : Bool := n / 64 = w && v.getLsbD (n % 64)
    let answered (c : Intc) := s.left { d with intc := c, out := d.out ++ [.regWrite false] }
    (∃ m, exec (.maskSet r w v now) s = answered { d.intc with mask := m } ∧
      ∀ n, n < 256 → m.getLsbD n = (d.intc.mask.getLsbD n || hit n)) ∧
    (∃ m, exec (.maskClr r w v now) s = answered { d.intc with mask := m } ∧
      ∀ n, n < 256 → m.getLsbD n = (d.intc.mask.getLsbD n && !hit n)) ∧
    (∃ p, exec (.pendClr r w v now) s = answered { d.intc with pend := p } ∧
      ∀ n, n < 256 → p.getLsbD n = (d.intc.pend.getLsbD n && !(hit n && !d.intc.isLevel n))) ∧
    (∃ p a, exec (.pendSet r w v now) s = answered { d.intc with pend := p, pendAt := a } ∧
      ∀ n, n < 256 →
        p.getLsbD n = (d.intc.pend.getLsbD n || (hit n && srcPresent d.kind n && !d.intc.isLevel n)) ∧
        tget a 0 n = if p.getLsbD n && !d.intc.pend.getLsbD n then d.time else tget d.intc.pendAt 0 n)

/-- The first write of INTC.TARGET[n] stores the fields a source has and locks them; the first write of INTC.TGT_CTRL[t] stores and locks
the mode; a write to a locked register changes nothing but the count of such writes (R430, R439, R440). -/
def Obligations.TargetsLockOnFirstWrite : Prop :=
  ∀ (s : State) (r : Requester) (n t now : Nat) (v : Word), (s.at now).managerMay r →
    let d := s.at now
    let answered (c : Intc) := s.left { d with intc := c, out := d.out ++ [.regWrite false] }
    let refused := answered { d.intc with lockedWrites := min (d.intc.lockedWrites + 1) 0xFFFF }
    (n < 132 → srcPresent d.kind n = true → (tget d.intc.target 0 n).getLsbD 7 = false →
      exec (.targetWrite r n v now) s = answered
        { d.intc with target := tset d.intc.target 0 n ((v.setWidth 8 &&& (if n < 128 then 0x0F else 0x2F)) ||| 0x80) }) ∧
    (132 ≤ n → n < 256 → (tget d.intc.target 0 n).getLsbD 7 = false →
      ∃ p a b, exec (.targetWrite r n v now) s = answered
        { d.intc with target := tset d.intc.target 0 n ((v.setWidth 8 &&& 0x3F) ||| 0x80), pend := p, pendAt := a, activeSince := b } ∧
        (v.getLsbD 4 = false → p = d.intc.pend) ∧
        ∀ m, m ≠ n → p.getLsbD m = d.intc.pend.getLsbD m ∧ tget a 0 m = tget d.intc.pendAt 0 m) ∧
    (n < 256 → srcPresent d.kind n = true → (tget d.intc.target 0 n).getLsbD 7 = true →
      exec (.targetWrite r n v now) s = refused) ∧
    (t < 8 → (tget d.intc.tgtCtrl 0 t).getLsbD 7 = false →
      exec (.tgtCtrlWrite r t v now) s = answered
        { d.intc with tgtCtrl := tset d.intc.tgtCtrl 0 t ((v.setWidth 8 &&& 1) ||| 0x80) }) ∧
    (t < 8 → (tget d.intc.tgtCtrl 0 t).getLsbD 7 = true → exec (.tgtCtrlWrite r t v now) s = refused)

/-- At a reference edge each target that serves nothing selects the lowest source that is pending, unmasked, enabled and locked to it: the source
enters service, an edge source's pending bit clears, and nothing else of the block but the interrupt outputs and the count of deliveries
changes (R432, R433).
A source in service leaves it by INTC.EOI of its own number on a MANUAL target and by the host chip's acknowledgement on a MESSAGE target:
the output is withdrawn and the next reference edge samples the end; another number written is counted as a mismatch; the other
way of ending is without effect (R431, R433). -/
def Obligations.DeliveryAndEndOfInterrupt : Prop :=
  (∀ (s : State) (now : Nat),
     let d := s.at now
     let edge := d.time / 10 * 10
     ∃ e, exec (.interruptDelivery now) s = s.left e ∧
       { e with intc := d.intc, out := d.out, count := d.count } = d ∧ e.intc.mask = d.intc.mask ∧ e.intc.target = d.intc.target ∧
       ∀ t, t < 8 →
         ((d.intc.freeAt t edge = false ∨ ∀ n, n < 256 → d.intc.candidate d.kind t edge n = false) →
           tget e.intc.serving 0 t = tget d.intc.serving 0 t) ∧
         ∀ n, n < 256 → d.intc.freeAt t edge = true → d.intc.candidate d.kind t edge n = true →
           (∀ m, m < n → d.intc.candidate d.kind t edge m = false) →
           tget e.intc.serving 0 t = n + 1 ∧ .irq t n true ∈ e.out ∧ e.intc.pend.getLsbD n = d.intc.isLevel n) ∧
  (∀ (s : State) (r : Requester) (t now : Nat) (v : Word), t < 8 → (s.at now).managerMay r →
     let d := s.at now
     let n := tget d.intc.serving 0 t - 1
     let ended := { d.intc with freeing := tset d.intc.freeing 0 t ((d.time / 10 + 1) * 10 + 1) }
     (d.intc.message t = false → d.intc.inService t = true → v.toNat % 256 = n → n < 256 →
       exec (.eoi r t v now) s = s.left { d with intc := ended, out := d.out ++ [.irq t n false, .regWrite false] }) ∧
     (d.intc.message t = false → (d.intc.inService t = false ∨ tget d.intc.serving 0 t ≠ v.toNat % 256 + 1) →
       exec (.eoi r t v now) s = s.left
         { d with intc := { d.intc with eoiMismatch := min (d.intc.eoiMismatch + 1) 0xFFFF }, out := d.out ++ [.regWrite false] }) ∧
     (d.intc.message t = true → exec (.eoi r t v now) s = s.left { d with out := d.out ++ [.regWrite false] }) ∧
     (d.intc.message t = true → d.intc.inService t = true →
       exec (.irqAck t now) s = s.left { d with intc := ended, out := d.out ++ [.irq t n false] }) ∧
     (d.intc.message t = false ∨ d.intc.inService t = false → exec (.irqAck t now) s = s.left d))

/-- Inputs of the controller: an edge of an integrator input pends it and counts for the storm guard of its 1 ms interval; one edge more than
STORM_LIMIT masks the source, flags it and counts a trip; a new interval starts the counts again; a level input pends while it is
active, and the rise of the seal line ends the seal's pending bit; a level source active for STUCK_TIME is masked, flagged and
counted; the presence line's level is its press and release, the seal line's fall is the seal's opening; sources inside the block have
no input (R116, R391, R427, R429, R435, R436). -/
def Obligations.ExternalInputsPendAndGuard : Prop :=
  ∀ (s : State) (n now : Nat), n < 256 →
    let d := s.at now
    let edges := tget (if d.intc.interval = d.time / 1000000 then d.intc.edges else []) 0 n
    (132 ≤ n → d.intc.isLevel n = false →
      ∃ c, exec (.externalEdge n now) s = s.left { d with intc := c } ∧ c.pend = d.intc.pend ||| oneBit 256 n ∧ tget c.edges 0 n = edges + 1 ∧
        (edges = tget d.intc.stormLimit 0x3E8 n →
          c.mask = d.intc.mask ||| oneBit 256 n ∧ c.guardFlag = d.intc.guardFlag ||| oneBit 256 n ∧
          c.stormTrips = min (d.intc.stormTrips + 1) 0xFFFF) ∧
        (edges ≠ tget d.intc.stormLimit 0x3E8 n → c.mask = d.intc.mask ∧ c.stormTrips = d.intc.stormTrips)) ∧
    (n < 132 ∨ d.intc.isLevel n = true → exec (.externalEdge n now) s = s.left d) ∧
    exec (.stormIntervalEnd now) s = s.left { d with intc := { d.intc with edges := [], interval := d.time / 1000000 } } ∧
    (132 ≤ n → d.intc.isLevel n = true →
      (∃ c, exec (.levelInputChange n true now) s = s.goesOn now { d with intc := c } ∧ c.pend = d.intc.pend ||| oneBit 256 n ∧
        c.raw = d.intc.raw ||| oneBit 256 n ∧ c.mask = d.intc.mask) ∧
      (∃ c, exec (.levelInputChange n false now) s = s.goesOn now { d with intc := c } ∧
        c.pend = d.intc.pend &&& ~~~(oneBit 256 n) ∧ c.raw = d.intc.raw &&& ~~~(oneBit 256 n) ∧ c.mask = d.intc.mask)) ∧
    (n = 128 ∨ 132 ≤ n ∧ d.intc.isLevel n = false → ∀ active, ∃ c, exec (.levelInputChange n active now) s = s.goesOn now { d with intc := c } ∧
      c.pend = d.intc.pend ∧ c.mask = d.intc.mask ∧
      c.raw = if active then d.intc.raw ||| oneBit 256 n else d.intc.raw &&& ~~~(oneBit 256 n)) ∧
    (∀ active e, exec (if active then .presencePress now else .presenceRelease now) s = s.left e →
      exec (.levelInputChange 129 active now) s = s.goesOn now e) ∧
    ((∀ active, exec (.levelInputChange 130 active now) s = exec (.levelInputChange 131 active now) s) ∧
      (d.vault.sealOpen = false → exec (.levelInputChange 131 true now) s = exec (.vaultSealOpen now) s) ∧
      ∃ c, exec (.levelInputChange 131 false now) s = s.goesOn now { d with intc := c, vault := { d.vault with sealOpen := false } } ∧
        c.pend = d.intc.pend &&& ~~~(oneBit 256 131) ∧ c.raw = d.intc.raw &&& ~~~(oneBit 256 131) ∧ c.mask = d.intc.mask) ∧
    (n < 128 → ∀ active, exec (.levelInputChange n active now) s = s.goesOn now d) ∧
    ∀ since, tget d.intc.activeSince 0 n = since + 1 → 128 ≤ n → d.intc.isLevel n = true →
      (since + d.intc.stuckTime * 1000000 ≤ d.time →
        ∃ c, exec (.stuckTimeout n now) s = s.left { d with intc := c } ∧ c.mask = d.intc.mask ||| oneBit 256 n ∧
          c.guardFlag = d.intc.guardFlag ||| oneBit 256 n ∧ c.stuckTrips = min (d.intc.stuckTrips + 1) 0xFFFF ∧ c.pend = d.intc.pend) ∧
      (d.time < since + d.intc.stuckTime * 1000000 → exec (.stuckTimeout n now) s = s.left d)

/-- R26: the accesses the port accepts are 64-bit reads and writes at 8-byte-aligned offsets and 128-bit writes at 16-byte-aligned ones; every
other size or alignment, a 128-bit read among them, is a fault of kind SIZE or ALIGN. -/
def Obligations.AccessSizesAndAlignments : Prop :=
  ∀ (d : Dev) (r : Requester) (write : Bool) (off size : Nat),
    ((size = 8 ∧ off % 8 = 0) ∨ (write = true ∧ size = 16 ∧ off % 16 = 0)) ↔
      (d.portFault r write off size ≠ some .size ∧ d.portFault r write off size ≠ some .align)

/-- An access with a fault is given the first kind that applies in the order SIZE, ALIGN, NOT_READY, UNMAPPED, DENIED, ROW_HALF (R29, R34, R36).
It reads zero or writes nothing, signals the error response unless the offset is unmapped, is counted, is captured where no capture
is held, and raises source 5 unless the offset is unmapped; nothing else of the block changes (R36, R39). -/
def Obligations.PortFaultsAreAnsweredCountedAndCaptured : Prop :=
  ∀ (s : State) (r : Requester) (off size now : Nat) (val : BitVec 128) (f : PortFault), (s.at now).reset.frozen = false →
    (s.at now).quiet = true →
    let d := s.at now
    let faulted (write : Bool) (e : Dev) (answer : Out) : Prop :=
      { e with hall := d.hall, intc := d.intc, out := d.out } = d ∧ e.out = d.out ++ [answer] ∧
      { e.intc with asserted := d.intc.asserted } = d.intc ∧
      tget e.intc.asserted 0 5 =
        (if f = .unmapped ∨ tget d.intc.asserted 0 5 ≠ 0 then tget d.intc.asserted 0 5 else d.time + 1) ∧
      { e.hall with faultCount := d.hall.faultCount, faultAddr := d.hall.faultAddr, faultInfo := d.hall.faultInfo } = d.hall ∧
      e.hall.faultCount = min (d.hall.faultCount + 1) 0xFFFFFFFF ∧
      (d.hall.faultInfo.getLsbD 63 = true → e.hall.faultInfo = d.hall.faultInfo ∧ e.hall.faultAddr = d.hall.faultAddr) ∧
      (d.hall.faultInfo.getLsbD 63 = false → e.hall.faultInfo = faultInfoWord r write f ∧ e.hall.faultAddr = BitVec.ofNat 26 off)
    (d.portFault r false off size = some f →
      ∃ e, exec (.registerRead r off size now) s = s.left e ∧ faulted false e (.regRead 0 (f ≠ .unmapped))) ∧
    (d.portFault r true off size = some f →
      ∃ e, exec (.registerWrite r off size val now) s = s.left e ∧ faulted true e (.regWrite (f ≠ .unmapped))) ∧
    (∀ write, size = 8 → off % 8 = 0 →
      (d.reset.status ≠ 1 → 0x10000 < off → d.portFault r write off size = some .notReady) ∧
      (d.reset.status = 1 → windowOf d.kind off = none → d.portFault r write off size = some .unmapped) ∧
      ∀ w o, d.reset.status = 1 → windowOf d.kind off = some (w, o) →
        (d.mayAccess r w write = false → d.portFault r write off size = some .denied) ∧
        (d.mayAccess r w write = true → (d.portFault r write off size = some .rowHalf ↔
          write = true ∧ ∃ n, w = .porch n ∧ (o < 0x1000 ∨ (0x8000 ≤ o ∧ o < 0xA000 ∧ o % 256 < 16)))))

/-- R35: an access to a window whose island is switched off reads as zero and its writes are ignored, without a fault. -/
def Obligations.SwitchedOffWindowsReadZero : Prop :=
  ∀ (s : State) (r : Requester) (off size now o : Nat) (w : Win) (val : BitVec 128), (s.at now).reset.frozen = false →
    (s.at now).quiet = true → windowOf (s.at now).kind off = some (w, o) → (s.at now).windowOn w = false →
    let d := s.at now
    (d.portFault r false off size = none →
      exec (.registerRead r off size now) s = s.left { d with out := d.out ++ [.regRead 0 false] }) ∧
    (d.portFault r true off size = none →
      exec (.registerWrite r off size val now) s = s.left { d with out := d.out ++ [.regWrite false] })

/-- Registers without a behaviour of their own store what is written (R31) and read it back; one with a range keeps its value outside it; a register
that a read clears returns its count and reads zero after, but a DEBUG read clears nothing (R12, R33); writing 1 to
PORT_FAULT_INFO.valid releases the capture alone (R39). -/
def Obligations.RegistersStoreReadAndClear : Prop :=
  ∀ (s : State) (r : Requester) (now : Nat) (v : BitVec 128), (s.at now).managerMay r → (s.at now).quiet = true →
    let d := s.at now
    let x := v.toNat % 2 ^ 64
    exec (.registerWrite r (hallAt 0x0808) 8 v now) s =
      s.left { d with hall := { d.hall with chSelect := x % 65536 }, out := d.out ++ [.regWrite false] } ∧
    (10 ≤ x % 2 ^ 20 → x % 2 ^ 20 ≤ 1000000 → exec (.registerWrite r (hallAt 0x0800) 8 v now) s =
      s.left { d with hall := { d.hall with chTimeout := x % 2 ^ 20 }, out := d.out ++ [.regWrite false] }) ∧
    (x % 2 ^ 20 < 10 ∨ 1000000 < x % 2 ^ 20 → exec (.registerWrite r (hallAt 0x0800) 8 v now) s =
      s.left { d with out := d.out ++ [.regWrite false] }) ∧
    exec (.registerRead r (hallAt 0x0808) 8 now) s =
      s.left { d with out := d.out ++ [.regRead (BitVec.ofNat 64 d.hall.chSelect) false] } ∧
    exec (.counterReadClear r 0x2000010 now) s = s.left
      { d with larder := { d.larder with fallbackCount := 0 }, out := d.out ++ [.regRead (BitVec.ofNat 64 d.larder.fallbackCount) false] } ∧
    (∀ g : Requester, g.cls = 2 → d.lc = .debug → exec (.counterReadClear g 0x2000010 now) s = s.left
      { d with out := d.out ++ [.regRead (BitVec.ofNat 64 d.larder.fallbackCount) false] }) ∧
    exec (.portFaultInfoRelease r now) s = s.left
      { d with hall := { d.hall with faultInfo := d.hall.faultInfo &&& 0x7FFFFFFFFFFFFFFF }, out := d.out ++ [.regWrite false] }

/-- The driver's side of a thread: a row is stored unless its go bit is set, which sets `overwrite` instead (R49); a read of EVENT_LO removes the
oldest entry and latches its upper word for the requester, of an empty FIFO it returns and latches zero (R30, R44); resume, discard and
clear_overwrite act on a HALTED thread as R46 says. -/
def Obligations.PorchAccessesOfTheDriver : Prop :=
  ∀ (s : State) (r : Requester) (n row now : Nat) (v : BitVec 128), (s.at now).ownerMay r n → row < 256 →
    let d := s.at now
    let t := d.th n
    let answered (u : Thread) (o : Out) := s.left { d with threads := tset d.threads {} n u, out := d.out ++ [o] }
    ((tget t.rows 0 row).getLsbD 119 = false →
      exec (.rowWrite r n row v now) s = answered { t with rows := tset t.rows 0 row v } (.regWrite false)) ∧
    ((tget t.rows 0 row).getLsbD 119 = true →
      exec (.rowWrite r n row v now) s = answered { t with overwrite := true } (.regWrite false)) ∧
    (t.fifo = [] → exec (.eventLoRead r n now) s =
      answered { t with evHigh := tset t.evHigh 0 (r.cls.toNat * 32 + r.idx.toNat) 0 } (.regRead 0 false)) ∧
    (∀ x rest, t.fifo = x :: rest → exec (.eventLoRead r n now) s =
      answered { t with fifo := rest, fifoFull := false, evHigh := tset t.evHigh 0 (r.cls.toNat * 32 + r.idx.toNat) ((x >>> 64).setWidth 64) }
        (.regRead (x.setWidth 64) false)) ∧
    (t.halted = true → exec (.resume r n now) s = answered { t with halted := false, held := false } (.regWrite false)) ∧
    (t.halted = true → exec (.discard r n now) s = answered
      { t with held := false, rows := (t.rows.map fun e => (e.1, if t.flights.any fun x => x.row = e.1 then e.2 else clearGo e.2)).filter fun e => e.2 ≠ 0 }
      (.regWrite false)) ∧
    (t.halted = false → exec (.resume r n now) s = answered t (.regWrite false) ∧ exec (.discard r n now) s = answered t (.regWrite false)) ∧
    exec (.clearOverwrite r n now) s = answered { t with overwrite := false } (.regWrite false)

/-- One selection takes the row at the issue pointer of the first eligible thread from the round robin's place on (R59): NOP, FENCE, WAIT and an
unencoded opcode are decoded; any other step goes through its checks, is dispatched with what the checks took and the deadline of its class
(R445), EVENT and a step the full queue of the public-key engine keeps at dispatch (R105) staying checked, ATTEST with its report (R129), or
completes with the status of the check that fails, or is held (R53, R56). A held step whose entry has come free is selectable
again. An EVENT of the thread that is still checked completes first. -/
def Obligations.IssueTakesTheNextEligibleRow : Prop :=
  ∀ (s : State) (now n : Nat), (s.at now).ready = true → n ≤ (s.at now).mgr → (s.at now).eligible n = true →
    (s.at now).lastPicked ≤ (s.at now).mgr →
    (∀ i, i < (n + (s.at now).mgr + 1 - (s.at now).lastPicked) % ((s.at now).mgr + 1) →
      (s.at now).eligible (((s.at now).lastPicked + i) % ((s.at now).mgr + 1)) = false) →
    let d := { (s.at now).eventFirst n with lastPicked := (n + 1) % ((s.at now).mgr + 1) }
    let t := d.th n
    let w := tget t.rows 0 t.issueRow
    let inFlight (e : Dev) (x : Flight) : Dev := e.onTh n fun u =>
      { u with flights := u.flights ++ [{ x with row := t.issueRow, step := w, decodedAt := d.time, depth := u.flights.length }],
               issueRow := (t.issueRow + 1) % 256 }
    let decoded (x : Option Opc) : Prop := x = none ∨ x = some .nop ∨ x = some .fence ∨ x = some .wait
    (decoded (Step.of w).op → exec (.rowIssue now) s = s.left (inFlight d { row := 0, step := 0, stage := .decoded })) ∧
    ∀ op, (Step.of w).op = some op → ¬ decoded (some op) →
      (∀ e slot key b old, d.check n op (Step.of w) = .pass e slot key b old →
        let unstopped := if op = .seal ∨ op = .unseal then e.onTh n fun u => { u with sealStop := none } else e
        ∃ r c g, (op ≠ .attest → op ≠ .save → op ≠ .restore → r = [] ∧ c = 0 ∧ g = none) ∧
          (op = .attest → r = e.reportBody (e.partOf n) (bytesKey ((e.th n).xferBytes (256 * fld (Step.of w).c 0 4) 32)) none false) ∧
          exec (.rowIssue now) s = s.left (inFlight (if op.onPke then unstopped.pkeAdd n (some t.issueRow) else unstopped)
            { row := 0, step := 0, stage := if op = .event ∨ op.onPke = true ∧ e.pkeFull = true then .checked else .dispatched, slot := slot,
              keySlot := key, bSlot := b, oldGen := old, dispatchedAt := e.time, limit := e.limitOf op, report := r, consent := c, ruling := g,
              baseSeq := if op = .mapreg ∧ mapKind (Step.of w) = 1 then d.larder.baseSeq else 0 })) ∧
      (∀ st, d.check n op (Step.of w) = .fail st → (t.flights.all fun x => x.row ≠ t.issueRow) = true →
        ∃ e, exec (.rowIssue now) s = s.left e ∧ (e.th n).issueRow = (t.issueRow + 1) % 256 ∧
          e.stageOf n t.issueRow = some (.completed st)) ∧
      (d.check n op (Step.of w) = .held →
        exec (.rowIssue now) s = s.left (d.onTh n fun u => { u with held := true }) ∧
        ∀ later, s.dev.time ≤ later → ((s.at later).th n).held = true →
          (∃ e a b c f, (s.at later).check n op (Step.of w) = .pass e a b c f) →
          exec (.blockedStepRelease n later) s = s.left ((s.at later).onTh n fun u => { u with held := false }))

/-- Rows that complete in the sequencer: NOP with its fields zero completes at decode with DONE, a row of an unencoded opcode with BAD_OPCODE,
EVENT at dispatch with DONE; FENCE becomes a pending barrier (R50, R59). WAIT goes by the distance of its cookie from the named
thread's register: zero or more than 2^31 completes with DONE, 2^31 with COOKIE_RANGE, any other pends (R68). -/
def Obligations.SequencerRowsCompleteOrPend : Prop :=
  ∀ (s : State) (n row now : Nat) (x : Flight), (s.at now).ready = true → n ≤ (s.at now).mgr → (s.at now).flight n row = some x →
    let d := s.at now
    let st := Step.of x.step
    let dist := (fld st.d 0 32 + 2 ^ 32 - (d.th (waitThread n st)).cookie.toNat) % 2 ^ 32
    (x.stage = .decoded → st.op = some .nop → d.checkFields n .nop st = none →
      exec (.nop n row now) s = s.left (d.setTh n ((d.th n).completes row Status.done))) ∧
    (x.stage = .checked → st.op = some .event →
      exec (.event n row now) s = s.left (d.setTh n ((d.th n).completes row Status.done))) ∧
    (x.stage = .decoded → st.op = none →
      ∃ e, exec (.reservedOpcode n row now) s = s.left e ∧ (e.th n).rows = (d.th n).rows ∧ (e.th n).cookie = (d.th n).cookie ∧
        e.stageOf n row = some (.completed Status.badOpcode) ∧
        (st.cont = true → e = d.setTh n ((d.th n).completes row Status.badOpcode)) ∧
        (st.cont = false → (e.th n).halting.isSome = true ∧ { e with threads := d.threads, larder := d.larder } = d)) ∧
    (x.stage = .decoded → st.op = some .fence → d.checkFields n .fence st = none →
      ∃ m, exec (.fence n row now) s = s.left (d.onFlight n row fun y => { y with stage := .barrier, markers := m })) ∧
    (x.stage = .decoded → st.op = some .wait → d.checkFields n .wait st = none →
      (0 < dist → dist < 2 ^ 31 →
        exec (.wait n row now) s = s.left (d.onFlight n row fun y => { y with stage := .barrier, limit := d.limitOf .wait })) ∧
      (dist = 0 ∨ 2 ^ 31 < dist →
        ∃ e, exec (.wait n row now) s = s.left e ∧ e.stageOf n row = some (.completed Status.done) ∧
          { e with threads := d.threads, parts := d.parts, attic := d.attic, count := d.count } = d) ∧
      (dist = 2 ^ 31 →
        ∃ e, exec (.wait n row now) s = s.left e ∧ e.stageOf n row = some (.completed Status.cookieRange) ∧
          { e with threads := d.threads, parts := d.parts, attic := d.attic, count := d.count, larder := d.larder } = d))

/-- Pending barriers and engines' reports: a FENCE that is the oldest row in flight completes, with RANGE_NEAR where a remote add has passed
the partition's guard band, which its retirement settles (R231); a WAIT completes once the named thread's register is at or after its cookie; a row its engine
has finished completes with the engine's status, a row whose object has drained with DONE (R60, R67, R68, R231). -/
def Obligations.BarriersAndEngineReportsComplete : Prop :=
  ∀ (s : State) (n row now : Nat) (x : Flight), (s.at now).ready = true → n ≤ (s.at now).mgr → (s.at now).flight n row = some x →
    let d := s.at now
    let frame (e : Dev) : Prop := { e with threads := d.threads, parts := d.parts, attic := d.attic, count := d.count } = d
    (d.barrierOf n .fence = some x → (d.th n).flights.head? = some x → x.row = row →
      ∃ e, exec (.fenceComplete n now) s = s.left e ∧ frame e ∧ (e.part n).addRange = (d.part n).addRange ∧
        e.stageOf n row = some (.completed (if n < d.nparts ∧ (d.part n).addRange = true then Status.rangeNear else Status.done))) ∧
    (d.barrierOf n .fence = some x → (d.th n).flights.head?.map (·.row) ≠ some x.row → exec (.fenceComplete n now) s = s.left d) ∧
    (d.barrierOf n .wait = some x → x.row = row →
      let c := (d.th (waitThread n (Step.of x.step))).cookie
      (cookieAtOrAfter c (BitVec.ofNat 32 (fld (Step.of x.step).d 0 32)) = true →
        ∃ e, exec (.waitComplete n now) s = s.left e ∧ frame e ∧ e.stageOf n row = some (.completed Status.done)) ∧
      (cookieAtOrAfter c (BitVec.ofNat 32 (fld (Step.of x.step).d 0 32)) = false → exec (.waitComplete n now) s = s.left d)) ∧
    (∀ st, x.stage = .finished st →
      ∃ e, exec (.engineCompletion n row now) s = s.left e ∧ e.stageOf n row = some (.completed st)) ∧
    (x.stage = .running → d.drainedNow x = true →
      ∃ e, exec (.engineCompletion n row now) s = s.left e ∧ e.stageOf n row = some (.completed Status.done)) ∧
    (x.stage = .running → d.drainedNow x = false → exec (.engineCompletion n row now) s = s.left d)

/-- The oldest row of a thread retires once it has completed: its go bit is cleared, the retire pointer moves on, and it leaves an event exactly
where R66 says so; a FENCE that finds the guard band passed as it retires ends RANGE_NEAR and clears it (R231); an event is posted while the
FIFO has space. Cookies are compared by serial arithmetic, and a FENCE's or EVENT's
cookie moves the thread's register when it is after it; no other event, and no job event, moves it (R49, R60, R66, R67, R69). -/
def Obligations.RowsRetireAndEventsPostInOrder : Prop :=
  (∀ a b : BitVec 32, cookieAtOrAfter a b = true ↔ (a.toNat + 2 ^ 32 - b.toNat) % 2 ^ 32 < 2 ^ 31) ∧
  ∀ (s : State) (n now : Nat), (s.at now).ready = true → n ≤ (s.at now).mgr →
    let d := s.at now
    let t := d.th n
    (∀ x rest st, t.flights = x :: rest → x.stage = .completed st →
      let p := Step.of x.step
      let own : Bool := p.op = some .fence || p.op = some .event
      let near : Bool := p.op = some .fence && statusOk st && decide (n < d.nparts) && (d.part n).addRange
      let st' := if near then Status.rangeNear else st
      let makes : Bool := own || p.notify || st' ≠ Status.done
      (makes = false ∨ t.fifo.length + t.posts.length < 64 →
        ∃ e, exec (.rowRetire n now) s = s.left e ∧ { e with threads := d.threads, parts := d.parts, count := d.count, intc := d.intc } = d ∧
          (e.th n).flights = rest ∧ (e.th n).retireRow = (x.row + 1) % 256 ∧ (e.th n).rows = tmod t.rows 0 x.row clearGo ∧
          (e.th n).cookie = t.cookie ∧ (e.th n).fifo = t.fifo ∧ (∀ m, m ≠ n → e.th m = d.th m) ∧
          (e.part n).addRange = ((d.part n).addRange && !near) ∧
          (e.th n).posts = t.posts ++ (if makes then
            [{ row := x.row, opcode := BitVec.ofNat 8 p.opcode, status := st',
               cookie := if own then some (BitVec.ofNat 32 (fld p.d 0 32)) else none, moves := own }] else [])) ∧
      (makes = true → 64 ≤ t.fifo.length + t.posts.length →
        exec (.rowRetire n now) s = s.left (d.setTh n { t with fifoFull := true }))) ∧
    (∀ p rest, t.posts = p :: rest → t.fifo.length < 64 →
      let c := p.cookie.getD t.cookie
      let ahead := (c.toNat + 2 ^ 32 - t.cookie.toNat) % 2 ^ 32
      ∃ e, exec (.eventPost n now) s = s.left e ∧ { e with threads := d.threads, parts := d.parts, intc := d.intc } = d ∧
        (e.th n).posts = rest ∧ (e.th n).fifo = t.fifo ++ [eventBits n p.row p.opcode p.status c d.time] ∧
        (e.th n).cookie = (if p.moves = true ∧ 1 ≤ ahead ∧ ahead < 2 ^ 31 then c else t.cookie) ∧ ∀ m, m ≠ n → e.th m = d.th m) ∧
    (∀ p rest, t.jobEnds = p :: rest → t.posts = [] → t.fifo.length < 64 →
      ∃ e, exec (.jobEvent n now) s = s.left e ∧ { e with threads := d.threads, parts := d.parts, intc := d.intc } = d ∧
        (e.th n).jobEnds = rest ∧ (e.th n).cookie = t.cookie ∧ (p.job = true → (e.th n).jobs = t.jobs - 1) ∧
        (e.th n).fifo = t.fifo ++ [eventBits n p.row p.opcode p.status (p.cookie.getD t.cookie) d.time] ∧ ∀ m, m ≠ n → e.th m = d.th m)

/-- A step that reaches its deadline completes with HANG, a Cellar record of cause 0x03 is written and the engine is told to withdraw it; the
confirmation ends the withdrawal, a freeing step's object stays in use where its unit was left; no confirmation within 100 us is
partition-fatal (R443, R445). -/
def Obligations.HungStepsAreWithdrawn : Prop :=
  ∀ (s : State) (n row now : Nat) (x : Flight), (s.at now).ready = true → n < (s.at now).nparts →
    let d := s.at now
    let st := Step.of x.step
    let cause (e : Dev) : Nat := (tget e.cellar.log 0 (d.cellar.head % 256)).toNat / 2 ^ 96 % 2 ^ 8
    (d.flight n row = some x → x.row = row → (d.late n x).isSome = true →
      ∃ e, exec (.stepDeadline n row now) s = s.goesOn now e ∧ e.stageOf n row = some (.completed Status.hang) ∧
        e.cellar.head = (d.cellar.head + 1) % 2 ^ 32 ∧ cause e = 0x03 ∧
        (st.op ≠ some .wait → ∃ y ∈ (e.th n).withdrawals, y.row = row ∧ y.step = x.step ∧ y.decodedAt = d.time)) ∧
    (d.flight n row = some x → d.late n x = none → exec (.stepDeadline n row now) s = s.goesOn now d) ∧
    ((d.th n).withdrawals = [x] → x.row = row →
      (st.op = some .genkey → ∀ finished, exec (.withdrawalConfirm n row finished now) s =
        s.goesOn now (d.onTh n fun t => { t with withdrawals := [] })) ∧
      (st.op = some .erase → exec (.withdrawalConfirm n row false now) s = s.goesOn now
        (((d.onTh n fun t => { t with withdrawals := [] }).onTh n fun t => t.setHandle .key (hIndex st.a)
          { t.handle .key (hIndex st.a) with gen := x.oldGen, st := .live, slot := x.slot }).onSlot x.slot fun l => { l with st := 1 })) ∧
      (x.decodedAt + 100000 ≤ d.time → (d.part n).st ≠ .resetting →
        ∃ e, exec (.withdrawalTimeout n row now) s = s.goesOn now e ∧ (e.part n).st = .resetting ∧ cause e = 0x03) ∧
      (d.time < x.decodedAt + 100000 → exec (.withdrawalTimeout n row now) s = s.goesOn now d))

/-- R94: GENKEY fills its new slot with 256 bits from the DRBG, drawn for the thread and the slot (R79), with the usage of c[3:0] and wrappable as c[4] says, origin generated, level
purpose, epoch zero; c[3:0] zero is BAD_FIELD and c[4] is no breach. The slot belongs to the step's thread and handle; no other slot and
nothing else of the block changes but the generator's counts and the row. -/
def Obligations.GenkeyFillsANewSlotFromTheDrbg : Prop :=
  ∀ (s : State) (n row now : Nat) (x : Flight), (s.at now).dispatched n row .genkey x → (s.at now).canDraw = true →
    let d := s.at now
    let st := Step.of x.step
    (∃ e, exec (.genkey n row now) s = s.left e ∧
      (e.slot x.slot).key = Config.drbg d.larder.drbg.draws (label 0 0 (if n < d.nparts then n % 32 else 0x80) 0 0 x.slot 0) ∧
       (e.slot x.slot).usage = st.c % 16 ∧ (e.slot x.slot).wrappable = bitOf st.c 4 ∧
      (e.slot x.slot).origin = Origin.generated ∧ fld (e.slot x.slot).attr.toNat 10 2 = 2 ∧ (e.slot x.slot).epoch = 0 ∧
      (e.slot x.slot).spent = false ∧ (e.slot x.slot).st = 1 ∧ (e.slot x.slot).owner = ownerWord n (hIndex st.a) (hGen st.a) 0 ∧
      e.larder.drbg.draws = d.larder.drbg.draws + 1 ∧ e.stageOf n row = some (.finished Status.done) ∧
      (∀ j, j ≠ x.slot → e.slot j = d.slot j) ∧ { e with larder := d.larder, threads := d.threads, count := d.count } = d) ∧
    ∀ t (u : Step), (t ≤ d.mgr) → (t < d.nparts → (d.part t).st = .bound) → u.reserved = 0 → u.b = 0 → u.d = 0 →
      (u.c % 16 = 0 → d.checkFields t .genkey u = some Status.badField) ∧
      (u.c % 16 ≠ 0 → u.c < 32 → d.checkFields t .genkey u = none)

/-- The steps of the public-key engine at the head of its queue: DERIVE puts kdf(parent, label) into its slot (R95), WRAP the KW form of key a
into its transfer buffer and zeros behind it, UNWRAP a key whose KW check passes into its slot (R96), IMPORT a decapsulated key (R99);
a use that an attribute forbids is KEY_ATTR, a failed check UNWRAP_FAIL, and neither fills a slot (R90). -/
def Obligations.PublicKeyEngineStepsFillSlots : Prop :=
  ∀ (s : State) (n row now b : Nat) (x : Flight), (s.at now).pkeServes n row →
    let d := s.at now
    let st := Step.of x.step
    let part := if n < d.nparts then n % 32 else 0x80
    let filled (key : Key) (attr owner : Word) := s.left ((d.fillSlot x.slot key attr owner 1).finish n row Status.done)
    let ended (status : Byte) := s.left (d.finish n row status)
    (d.dispatched n row .derive x → x.bSlot = some b → st.b ≠ 0 → d.keyLook n st.b b = .ok → d.slotPasses b = true →
      (d.keyMay b useDerive .seq (d.worldOf n b) = true → fld st.d 32 16 ≠ 0xFFFF →
        exec (.derive n row now) s = filled
          (kdfKey (d.slot b).key (label (fld st.d 0 32) 0 part 0 0x80 (fld st.d 48 16) (fld st.d 32 16)))
          (attrWord d.kind (st.c % 16) false Origin.derived 2 (fld st.d 32 16) (d.slot b).masks) (ownerOf n st.a Purpose.wrap)) ∧
      (d.keyMay b useDerive .seq (d.worldOf n b) = false → exec (.derive n row now) s = ended Status.keyAttr)) ∧
    (d.dispatched n row .derive x → st.b = 0 → d.impliedParent n = none → exec (.derive n row now) s = ended Status.denied) ∧
    (d.dispatched n row .wrap x → x.bSlot = some b → d.keyLook n st.b b = .ok → d.keyLook n st.a x.slot = .ok →
      d.slotPasses b = true → d.slotPasses x.slot = true →
      (d.keyMay b useWrap .seq (d.worldOf n b) = true → (d.slot x.slot).wrappable = true →
        exec (.wrap n row now) s = s.left ((d.onTh n fun t =>
          t.putXfer (256 * (st.c % 16)) (padTo 256 (kwWrap (d.slot b).key (keyBytes (d.slot x.slot).key)))).finish n row Status.done)) ∧
      ((d.slot x.slot).wrappable = false → exec (.wrap n row now) s = ended Status.keyAttr)) ∧
    (d.dispatched n row .unwrap x → x.bSlot = some b → d.keyLook n st.b b = .ok → d.slotPasses b = true →
      d.keyMay b useWrap .seq (d.worldOf n b) = true →
      (∀ k, kwUnwrap (d.slot b).key ((d.th n).xferBytes (256 * (st.d % 16)) 40) = some k →
        exec (.unwrap n row now) s = filled (bytesKey k) (attrWord d.kind (st.c % 16) false Origin.unwrapped 2 0 (d.slot b).masks)
          (ownerOf n st.a 0)) ∧
      (kwUnwrap (d.slot b).key ((d.th n).xferBytes (256 * (st.d % 16)) 40) = none →
        exec (.unwrap n row now) s = ended Status.unwrapFail)) ∧
    (d.dispatched n row .import x →
      (∀ key, d.importPair n ≠ 0 →
        decapsulate (if n < d.nparts then some n else none) (d.importPair n) (wrapLabel d.hall.node.toNat part) ((d.th n).xferBytes (256 * (st.d % 16)) 1792) = some key →
        exec (.import n row now) s = filled key
          (attrWord d.kind (st.c % 16) (bitOf st.c 4) Origin.imported 2 0 (masksFrom (fld st.d 32 5) (fld st.d 40 3) (fld st.d 48 5)))
          (ownerOf n st.a 0)) ∧
      (d.importPair n = 0 → exec (.import n row now) s = ended Status.unwrapFail))

/-- ERASE is done once the uses of its key have drained and works on until then (R97). The public-key engine ends one operation at a time: the
next request starts and the first that waited outside joins the queue, its row dispatched (R59, R105).
The generator and the scrub: a reseed falls due after 65,536 requests or 100 ms (R79); a failed entropy test stops the DRBG, the third in a
row for good with the block-critical error 0x06, a completed start-up test lets it serve again (R80); the requests that waited are then made
again, oldest first; the scrub retires a slot both of
whose copies fail, or the only one, and tells its owner (R86, R87). -/
def Obligations.KeysDrainRequestsServeAndSlotsRetire : Prop :=
  (∀ (s : State) (n row now : Nat) (x : Flight),
     let d := s.at now
     (d.dispatched n row .erase x →
       (d.keyDrained x.slot = true → exec (.erase n row now) s = s.left (d.finish n row Status.done)) ∧
       (d.keyDrained x.slot = false → exec (.erase n row now) s = s.left (d.working n row))) ∧
     ∀ q rest, d.ready = true → d.larder.pke = q :: rest →
       ∃ e, exec (.pkeOperationDone now) s = s.left e ∧
         { e with larder := d.larder, threads := d.threads, parts := d.parts, count := d.count } = d ∧
         e.larder.pke = startHead d.time (rest ++ (d.larder.pkeWait.take 1).map fun w => { w with since := d.time }) ∧
         e.larder.pkeWait = d.larder.pkeWait.drop 1 ∧
         ∀ w r y, d.larder.pkeWait.head? = some w → w.row = some r → d.flight w.thread r = some y → y.stage = .checked →
           e.stageOf w.thread r = some .dispatched) ∧
  (∀ (s : State) (now i : Nat), (s.at now).ready = true →
     let d := s.at now
     let g := d.larder.drbg
     let again (e : Dev) := s.goesOn now (forEach d.drawWait Dev.drawAgain { e with drawWait := [] })
     (g.st = .ready → 65536 ≤ g.sinceReseed ∨ g.lastReseed + 100000000 ≤ d.time → exec (.drbgReseed now) s = again
       { d with larder := { d.larder with drbg := { g with sinceReseed := 0, lastReseed := d.time, reseeds := min (g.reseeds + 1) 0xFFFFFFFF } } }) ∧
     (g.sinceReseed < 65536 → d.time < g.lastReseed + 100000000 → exec (.drbgReseed now) s = again d) ∧
     (g.seeded = true → g.st ≠ .failed → g.fails < 2 → exec (.entropyTestFail now) s = s.left
       { d with larder := { d.larder with healthFails := min (d.larder.healthFails + 1) 0xFFFFFFFF,
                                          drbg := { g with fails := g.fails + 1, st := .healthHold } } }) ∧
     (g.seeded = true → g.st ≠ .failed → g.fails = 2 → ∃ e, exec (.entropyTestFail now) s = s.left e ∧ e.larder.drbg.st = .failed ∧ e.reset.frozen = true ∧
       e.reset.cause = 0x06 ∧ ∀ j, e.slot j = d.slot j) ∧
     (g.seeded = true → g.st = .healthHold → exec (.entropyStartupTestDone now) s = again
       { d with larder := { d.larder with drbg := { g with fails := 0, st := .ready } } }) ∧
     (g.seeded = true → g.st ≠ .healthHold → g.st ≠ .instantiating → exec (.entropyStartupTestDone now) s = again d) ∧
     exec (.larderScrub [] now) s = s.left { d with larder := { d.larder with scrubTime := d.time } } ∧
     (96 ≤ i → i < Kind.keySlots d.kind → (d.slot i).retired = false → (d.slot i).st = 1 →
       ∃ e, exec (.larderScrub [{ slot := i, primary := true, shadow := true }] now) s = s.left e ∧
         (e.slot i).retired = true ∧ (e.slot i).key = 0 ∧ (e.slot i).attr = 0 ∧ (e.slot i).owner = 0 ∧
         e.larder.retiredCount = d.larder.retiredCount + 1 ∧ e.cellar.head = (d.cellar.head + 1) % 2 ^ 32 ∧ e.larder.scrubTime = d.time ∧
         ∀ j, j ≠ i → e.slot j = d.slot j))

/-- MAPREG maps its region as its fields say and gives it a key: a PRIVATE region 256 bits of the DRBG drawn for its owner, slot and epoch, a BASE
region a key derived under the base sequence value that its checks took, a BASE_MAP none of its own; a region on an engine that is not ON is DENIED (R77, R290, R291, R473). -/
def Obligations.MapregMapsAndKeysARegion : Prop :=
  ∀ (s : State) (n row now : Nat) (x : Flight), (s.at now).dispatched n row .mapreg x →
    let d := s.at now
    let st := Step.of x.step
    let mapped (e : Dev) (kind : BitVec 2) : Prop :=
      (e.reg x.slot).st = .live ∧ (e.reg x.slot).kind = kind ∧ (e.reg x.slot).thread = n ∧ (e.reg x.slot).index = hIndex st.a ∧
      (e.reg x.slot).gen = hGen st.a ∧ (e.reg x.slot).base = mapBase st ∧ (e.reg x.slot).log2 = mapLog st ∧
      (e.reg x.slot).dma = BitVec.ofNat 2 (mapDma st) ∧ (e.reg x.slot).dbg = BitVec.ofNat 2 (mapDebug st) ∧
      (e.reg x.slot).epoch = 0 ∧ (e.reg x.slot).writes = 0 ∧ e.stageOf n row = some (.finished Status.done) ∧
      (∀ j, j ≠ x.slot → e.reg j = d.reg j) ∧
      { e with regions := d.regions, larder := d.larder, engines := d.engines, threads := d.threads, count := d.count } = d
    let keyed (e : Dev) (key : Key) : Prop :=
      (e.slot x.keySlot).key = key ∧ (e.slot x.keySlot).st = 1 ∧ (e.reg x.slot).loaded = key ∧ (e.reg x.slot).keySlot = x.keySlot ∧
      ∀ j, j ≠ x.keySlot → e.slot j = d.slot j
    (d.engineOff (mapBase st) (mapLog st) = true → exec (.mapreg n row now) s = s.left (d.finish n row Status.denied)) ∧
    (d.engineOff (mapBase st) (mapLog st) = false →
      (mapKind st = 0 → d.canDraw = true →
        ∃ e, exec (.mapreg n row now) s = s.left e ∧ mapped e 0 ∧ keyed e (Config.drbg d.larder.drbg.draws (label Purpose.regn 0 (if n < d.nparts then n % 32 else 0x80) 0 0 x.slot 0)) ∧
          (e.reg x.slot).square = x.bSlot) ∧
      (mapKind st = 1 → ∀ root, d.resKey 3 = some root →
        ∃ e, exec (.mapreg n row now) s = s.left e ∧ mapped e 1 ∧
          keyed e (kdfKey root (label Purpose.base 0 0x80 0 0 x.baseSeq 0)) ∧ e.larder.baseSeq = d.larder.baseSeq) ∧
      (mapKind st = 2 →
        ∃ e, exec (.mapreg n row now) s = s.left e ∧ mapped e 2 ∧ e.larder = d.larder))

/-- UNMAPREG closes its region and drains; REKEY makes the region's new key and queues the job, an export locks the region and spends the export
key; SWEEP of a frozen partition crypto-erases it and queues its job; each job takes one of its thread's slots (R69, R92, R331, R338,
R349, R350).
SEAL and UNSEAL start a run on every engine that holds segments of it, once the run lies in the region and the region may be written; PAGEOUT and
PAGEIN queue their page at its engine; what R307, R401 and R344 to R346 refuse ends at once with its status. An operation takes the next
number, and carries the key epochs whose budget was spent as it came (R289). -/
def Obligations.RegionJobsSegmentsAndPagesStart : Prop :=
  (∀ (s : State) (n row now i : Nat) (x : Flight),
     let d := s.at now
     let st := Step.of x.step
     let queued (e : Dev) (kind : JKind) (target : Nat) : Prop :=
       (e.job i).st = .queued ∧ (e.job i).kind = kind ∧ (e.job i).target = target ∧ (e.job i).thread = n ∧ (e.job i).row = row ∧
       (e.th n).jobs = (d.th n).jobs + 1 ∧ e.stageOf n row = some (.finished Status.done)
     (d.dispatched n row .unmapreg x → d.jobOn x.slot = none →
       exec (.unmapreg n row now) s = s.goesOn now ((d.onReg x.slot fun r => { r with st := .closing }).working n row)) ∧
     (d.dispatched n row .rekey x → d.rekeyRefusal n x.slot st = none → d.freeJob = some i →
       (bitOf st.c 1 = false → (d.reg x.slot).kind = 0 → d.canDraw = true →
         let key := Config.drbg d.larder.drbg.draws (label Purpose.regn 0 (if (d.reg x.slot).thread < d.nparts then (d.reg x.slot).thread % 32 else 0x80)
           0 0 x.slot ((d.reg x.slot).epoch + 1))
         ∃ e k, exec (.rekey n row now) s = s.goesOn now e ∧ queued e .rekey x.slot ∧ (e.reg x.slot).newSlot = some k ∧
           (e.slot k).key = key ∧ (e.reg x.slot).loadedNew = key ∧
           (e.reg x.slot).oldWrites = (d.reg x.slot).writes ∧ (e.reg x.slot).writes = 0 ∧ (e.reg x.slot).keySlot = (d.reg x.slot).keySlot) ∧
       (∀ k, bitOf st.c 1 = true → x.bSlot = some k → d.exportKeyCheck n k = none →
         ∃ e, exec (.rekey n row now) s = s.goesOn now e ∧ queued e .rekey x.slot ∧ (e.reg x.slot).newSlot = some k ∧
           (e.reg x.slot).exportLocked = true ∧ (e.slot k).spent = true ∧ (e.slot k).key = (d.slot k).key)) ∧
     (∀ status, d.dispatched n row .rekey x → bitOf st.c 1 = false → d.rekeyRefusal n x.slot st = some status →
       exec (.rekey n row now) s = s.goesOn now (d.finish n row status)) ∧
     (d.dispatched n row .sweep x → d.sweepRefusal n x.slot = none → d.freeJob = some i → n ≠ x.slot →
       ∃ e, exec (.sweep n row now) s = s.goesOn now e ∧ queued e .sweep x.slot ∧ (e.job i).cookie = BitVec.ofNat 32 (fld st.d 0 32) ∧
         (e.part x.slot).importPair = 0 ∧ e.dom x.slot = {} ∧ (e.part x.slot).st = .frozen) ∧
     (∀ status, d.dispatched n row .sweep x → d.sweepRefusal n x.slot = some status →
       exec (.sweep n row now) s = s.goesOn now (d.finish n row status))) ∧
  (∀ (s : State) (n row now : Nat) (x : Flight),
     let d := s.at now
     let st := Step.of x.step
     let r := d.reg x.slot
     let first := (r.base + fld st.d 0 40) / 2048
     let stop := first + if st.c = 0 then 65536 else st.c
     let spent := (d.reg (d.keyReg x.slot)).spentEpochs
     let readOnly : Prop := r.kind = 2 ∨ (r.kind = 1 ∧ r.share ≠ 0)
     (∀ (i : Instr) (unsealing : Bool), d.dispatched n row (if unsealing then .unseal else .seal) x →
       i = (if unsealing then .unseal n row now else .seal n row now) →
       (sealLong r.log2 st = true → exec i s = s.goesOn now (d.finish n row Status.length)) ∧
       (sealLong r.log2 st = false → readOnly → exec i s = s.goesOn now (d.finish n row Status.denied)) ∧
       (sealLong r.log2 st = false → ¬ readOnly → r.loadLocked = true → exec i s = s.goesOn now (d.finish n row Status.regionFault)) ∧
       (sealLong r.log2 st = false → ¬ readOnly → r.loadLocked = false →
         ∃ e, exec i s = s.goesOn now e ∧ e.stageOf n row = some .running ∧ (e.th n).sealStop = (d.th n).sealStop ∧ e.regions = d.regions ∧
           ∀ m, m < Kind.engines d.kind → (e.eng m).ops = (d.eng m).ops ++ if d.segOn m first < stop then
             [{ id := d.opSeq + ((List.range m).filter fun k => d.segOn k first < stop).length, origin := .row n row,
                act := .segs (d.segOn m first) stop unsealing, addr := 16 * d.segOn m first, part := r.thread, region := x.slot, spent := spent }]
             else [])) ∧
     (∀ (i : Instr) (read : Bool), d.dispatched n row (if read then .pagein else .pageout) x →
       i = (if read then .pagein n row now else .pageout n row now) →
       let a := r.base / 128 + 64 * fld st.d 13 27
       (∀ status, d.pageRefusal n x.slot st read = some status → exec i s = s.goesOn now (d.finish n row status)) ∧
       (d.pageRefusal n x.slot st read = none →
         exec i s = s.goesOn now { (d.working n row).onEng (d.engineOf a) fun e => { e with ops := e.ops ++
           [{ id := d.opSeq, origin := .row n row, act := if read then .pageIn (pageSlot st) [] 0 else .pageOut (pageSlot st) 0 0, addr := a,
              part := r.thread, region := x.slot, spent := spent }] } with opSeq := d.opSeq + 1 })))

/-- CHOPEN opens a transmit channel at once and raises the partition's transmit id floor; a receive channel starts syncing under a nonce from the
DRBG. Without a node id or a domain key it is DENIED; this node, a channel already there, or an id below the floor is BAD_FIELD (R181,
R182, R183). CHEPOCH advances a transmit channel's epoch by one; on a receive channel it is BAD_FIELD, on a DOWN one CHANNEL_DOWN, at the last
epoch KEY_EPOCH (R187). CHCLOSE closes: done at once where nothing is held, else once it has drained (R194). -/
def Obligations.ChannelStepsOpenAdvanceAndClose : Prop :=
  ∀ (s : State) (n row now : Nat) (x : Flight),
    let d := s.at now
    let st := Step.of x.step
    let rx := bitOf st.c 0
    let node := fld st.d 0 14
    let part := fld st.d 16 5
    let id := fld st.d 32 32
    let c := d.ch x.slot
    let nonce := Config.drbg d.larder.drbg.draws (label 0 0 (if n < d.nparts then n % 32 else 0x80) 0 0 x.slot 0)
    let badOpen : Prop := node = d.hall.node.toNat ∨ (d.findChan rx n node part id).isSome = true ∨ (rx = false ∧ id < (d.part n).txFloor)
    (d.dispatched n row .chopen x →
      (d.hall.nodeValid = false ∨ d.domKey n = none → exec (.chopen n row now) s = s.left (d.finish n row Status.denied)) ∧
      (d.hall.nodeValid = true → (d.domKey n).isSome = true → badOpen →
        exec (.chopen n row now) s = s.left (d.finish n row Status.badField)) ∧
      (d.hall.nodeValid = true → (d.domKey n).isSome = true → ¬ badOpen → (rx = true → d.canDraw = true) →
        ∃ e, exec (.chopen n row now) s = s.left e ∧ e.stageOf n row = some (.finished Status.done) ∧
          (e.ch x.slot).st = (if rx then .syncing else .open_) ∧ (e.ch x.slot).rx = rx ∧ (e.ch x.slot).thread = n ∧
          (e.ch x.slot).peerNode = node ∧ (e.ch x.slot).peerPart = part ∧ (e.ch x.slot).id = id ∧ (e.ch x.slot).epoch = 0 ∧
          (e.ch x.slot).next = 0 ∧ (e.ch x.slot).held = [] ∧ (e.part n).txFloor = (if rx then (d.part n).txFloor else id + 1) ∧
          (rx = true → (e.ch x.slot).syncNonce = nonce ∧ (e.ch x.slot).syncSends = 1 ∧
            (e.ch x.slot).syncSent = d.time ∧ (e.ch x.slot).syncMsg = natLe 4 id ++ List.replicate 28 0 ++ keyBytes nonce) ∧
          ∀ j, j ≠ x.slot → e.ch j = d.ch j)) ∧
    (d.dispatched n row .chepoch x →
      (c.rx = true → exec (.chepoch n row now) s = s.left (d.finish n row Status.badField)) ∧
      (c.rx = false → c.st = .down → exec (.chepoch n row now) s = s.left (d.finish n row Status.channelDown)) ∧
      (c.rx = false → c.st ≠ .down → 0xFFFE ≤ c.epoch → exec (.chepoch n row now) s = s.left (d.finish n row Status.keyEpoch)) ∧
      (c.rx = false → c.st ≠ .down → c.epoch < 0xFFFE →
        ∃ e, exec (.chepoch n row now) s = s.left e ∧ e.stageOf n row = some (.finished Status.done) ∧
          (e.ch x.slot).epoch = c.epoch + 1 ∧ (e.ch x.slot).epochPkts = 0 ∧ (e.ch x.slot).epochBytes = 0 ∧
          (e.ch x.slot).former = c.former ++ [(c.epoch, d.time)] ∧ (e.ch x.slot).next = c.next ∧ (e.ch x.slot).held = c.held ∧
          { e with chans := d.chans, threads := d.threads } = d ∧ ∀ j, j ≠ x.slot → e.ch j = d.ch j)) ∧
    (d.dispatched n row .chclose x →
      (c.st = .down → ∃ e, exec (.chclose n row now) s = s.goesOn now e ∧ (∀ j, e.ch j = d.ch j) ∧
        e.stageOf n row = some (.finished Status.done)) ∧
      (c.st = .open_ → c.rx = false →
        ∃ e, exec (.chclose n row now) s = s.goesOn now e ∧ (e.ch x.slot).st = .closing ∧
          e.stageOf n row = some (if c.held = [] ∧ c.marker = none then .finished Status.done else .running) ∧
          ∀ j, j ≠ x.slot → e.ch j = d.ch j))

/-- RFENCE gives every transmit channel in OPEN or CLOSING a marker with its next sequence and waits for their acknowledgements; with none it is
done at once. It completes with CHANNEL_DOWN where a channel was lost, PEER_TIMEOUT where one timed out, else DONE (R196, R199). -/
def Obligations.RemoteFencesWaitForTheirMarkers : Prop :=
  ∀ (s : State) (n row now : Nat) (x : Flight),
    let d := s.at now
    let lost : Bool := d.chans.any fun e => e.2.thread = n && !e.2.rx && e.2.st = .down
    (d.dispatched n row .rfence x → d.txSlots n = [] → x.timedOut = 0 →
      ∃ e, exec (.rfence n row now) s = s.left e ∧
        e.stageOf n row = some (.finished (if lost then Status.channelDown else Status.done))) ∧
    (d.dispatched n row .rfence x → d.txSlots n ≠ [] → (d.txSlots n).Nodup →
      (∀ k, k ∈ d.txSlots n → (d.ch k).rx = false ∧ (d.ch k).marker = none ∧ (d.ch k).next + 1 < 2 ^ 62 ∧
        (d.ch k).epoch + 2 * (d.ch k).held.length + 4 ≤ 0xFFFE) →
      ∃ e, exec (.rfence n row now) s = s.left e ∧ e.stageOf n row = some .running ∧
        (e.flight n row).map (·.markers) = some (d.txSlots n).length ∧
        (∀ k, k ∈ d.txSlots n → (e.ch k).next = (d.ch k).next + 1 ∧
          ∃ m, (e.ch k).marker = some m ∧ m.m = (d.ch k).next ∧ m.thread = n ∧ m.row = row) ∧
        ∀ k, k ∉ d.txSlots n → e.ch k = d.ch k) ∧
    (d.ready = true → n ≤ d.mgr → d.flight n row = some x → x.stage = .running → (Step.of x.step).op = some .rfence →
      ((∀ e ∈ d.chans, ∀ k, e.2.marker = some k → ¬ (k.thread = n ∧ k.row = row)) →
        ∃ e, exec (.rfenceComplete n row now) s = s.left e ∧ e.stageOf n row = some (.finished
            (if x.lost = true then Status.channelDown else if x.timedOut ≠ 0 then Status.peerTimeout else Status.done)) ∧
          e.chans = d.chans) ∧
      ((∃ e ∈ d.chans, ∃ k, e.2.marker = some k ∧ k.thread = n ∧ k.row = row) →
        exec (.rfenceComplete n row now) s = s.left d))

/-- SQJOIN makes its square LIVE with a key from the domain key; DENIED without one, SQUARE_GONE or BAD_FIELD where the partition has the square
already (R239, R241). SUMSET installs a context with its floor raised, waits while 16 are live, and is BAD_FIELD where R213 says so; SQLEAVE
closes the square and its multicast windows, done once nothing of it pends (R240, R242, R213, R216). -/
def Obligations.SquaresAreJoinedLeftAndGivenContexts : Prop :=
  ∀ (s : State) (n row now : Nat) (x : Flight),
    let d := s.at now
    let st := Step.of x.step
    let id := fld st.d 0 32
    let pair := fld st.d 0 32 * 65536 + fld st.d 32 16
    (d.dispatched n row .sqjoin x →
      (d.domKey n = none → exec (.sqjoin n row now) s = s.left (d.finish n row Status.denied)) ∧
      (∀ key, d.domKey n = some key → d.findSquare n id = none →
        ∃ e, exec (.sqjoin n row now) s = s.left e ∧ (e.sq x.slot).st = .live ∧ (e.sq x.slot).id = id ∧ (e.sq x.slot).thread = n ∧
          (e.sq x.slot).key = kdfKey key (label Purpose.sqre 0 0x80 0 0x80 id 0) ∧ (e.sq x.slot).ctxs = [] ∧ (e.sq x.slot).windows = [] ∧
          e.stageOf n row = some (.finished Status.done) ∧ { e with squares := d.squares, threads := d.threads } = d ∧
          ∀ j, j ≠ x.slot → e.sq j = d.sq j) ∧
      (∀ key j q, d.domKey n = some key → d.findSquare n id = some (j, q) → exec (.sqjoin n row now) s =
        s.left (d.finish n row (if q.st = .gone then Status.squareGone else Status.badField)))) ∧
    (d.dispatched n row .sumset x → (d.sq x.slot).st ≠ .gone →
      (d.sumsetBad n st = true → exec (.sumset n row now) s = s.goesOn now (d.finish n row Status.badField)) ∧
      (d.sumsetBad n st = false → 16 ≤ (d.sq x.slot).ctxs.length → exec (.sumset n row now) s = s.goesOn now d) ∧
      (d.sumsetBad n st = false → (d.sq x.slot).ctxs.length < 16 →
        ∃ e c, exec (.sumset n row now) s = s.goesOn now e ∧ (e.sq x.slot).ctxs = (d.sq x.slot).ctxs ++ [c] ∧
          c.sumId = fld st.d 0 32 ∧ c.ringId = fld st.d 32 16 ∧ c.index = fld st.c 0 14 ∧ c.n = fld st.d 48 14 + 1 ∧
          c.st = (if bitOf st.c 15 then .fallback else .open_) ∧ c.accs = [] ∧ c.committed = [] ∧
          (e.part n).sumFloor = (if bitOf st.c 15 then (d.part n).sumFloor else pair + 1) ∧
          e.stageOf n row = some (.finished Status.done) ∧ (∀ j, j ≠ x.slot → e.sq j = d.sq j) ∧
          { e with squares := d.squares, threads := d.threads, parts := d.parts } = d)) ∧
    (d.dispatched n row .sumset x → (d.sq x.slot).st = .gone →
      exec (.sumset n row now) s = s.goesOn now (d.finish n row Status.squareGone)) ∧
    (d.dispatched n row .sqleave x →
      ((d.sq x.slot).st = .gone → exec (.sqleave n row now) s = s.goesOn now (d.finish n row Status.done)) ∧
      ((d.sq x.slot).st ≠ .gone →
        ∃ e, exec (.sqleave n row now) s = s.goesOn now e ∧ (e.sq x.slot).st = .closing ∧ (e.sq x.slot).windows = [] ∧
          (e.sq x.slot).ctxs = (d.sq x.slot).ctxs ∧ (∀ j, j ≠ x.slot → e.sq j = d.sq j) ∧
          e.stageOf n row = some (if d.squareDrained x.slot then .finished Status.done else .running)))

/-- MEASURE extends the register c names by SHA-384 over the old value and the 48 bytes of its buffer; the manager's set the fallback flag
(R126, R127). ATTEST writes the report that was composed at its dispatch, signed, to host memory at d (R129, R130).
SNAP waits for its latch, behind one of its thread that has not latched yet; the latch comes once every earlier row has retired where order is set: a partition's copies its sixteen counters and starts
them again with step_reset, the manager's latches all. TRACE leaves a record of kind 8 with its d as key (R413, R414, R416, R418). -/
def Obligations.MeasureAttestSnapAndTrace : Prop :=
  (∀ (s : State) (n row now : Nat) (x : Flight), (s.at now).pkeServes n row →
     let d := s.at now
     let st := Step.of x.step
     let i := fld st.c 0 8
     let v := sha384d (digestBytes (if n = d.mgr then tget d.mgmt.measure 0 i else tget (d.part n).measure 0 i) ++
       digestBytes (bytesDigest ((d.th n).xferBytes (256 * fld st.d 0 4) 48)))
     (d.dispatched n row .measure x →
       ∃ e, exec (.measure n row now) s = s.left e ∧ e.stageOf n row = some (.finished Status.done) ∧
         { e with mgmt := d.mgmt, parts := d.parts, threads := d.threads } = d ∧
         (if n = d.mgr then tget e.mgmt.measure 0 i else tget (e.part n).measure 0 i) = v ∧
         (∀ j, j ≠ i → tget e.mgmt.measure 0 j = tget d.mgmt.measure 0 j ∧ tget (e.part n).measure 0 j = tget (d.part n).measure 0 j) ∧
         (n = d.mgr → e.mgmt.fallback = true ∧ e.parts = d.parts) ∧ (n ≠ d.mgr → e.mgmt = d.mgmt ∧ ∀ m, m ≠ n → e.part m = d.part m)) ∧
     (d.dispatched n row .attest x →
       let body := x.report
       ∃ e r, exec (.attest n row now) s = s.left e ∧ e.stageOf n row = some .running ∧ r ∈ e.host.reqs ∧ r.tag = d.host.nextTag ∧
         r.write = true ∧ r.addr = st.d ∧ r.length = 8384 ∧ r.use = .attest n row ∧
         r.inst = (if n < d.nparts then n + 1 else 0) ∧
         r.data = body ++ (match d.larder.identity with
           | some (k, seed) => padTo 96 (Config.p384Sign k d.free body) ++ padTo 4627 (Config.mldsaSign seed d.free reportContext body) ++
             List.replicate 29 0
           | none => List.replicate 4752 0))) ∧
  (∀ (s : State) (n row now : Nat) (x : Flight),
     let d := s.at now
     let st := Step.of x.step
     let p := d.part n
     (d.dispatched n row .snap x → (d.th n).snapWait.isSome = true → exec (.snap n row now) s = s.left d) ∧
     (d.dispatched n row .snap x → (d.th n).snapWait = none →
       ∃ e, exec (.snap n row now) s = s.left e ∧ e.stageOf n row = some .running ∧ (e.th n).snapWait = some row ∧
         { e with threads := d.threads } = d) ∧
     (d.ready = true → n ≤ d.mgr → (d.th n).snapWait = some row → d.flight n row = some x → x.stage = .running →
       (st.order = true → (∀ y ∈ (d.th n).flights.head?, y.row ≠ row) →
         exec (.snapLatch n now) s = s.left d) ∧
       ((st.order = true → (d.th n).flights.head? = some x) →
         ∃ e, exec (.snapLatch n now) s = s.left e ∧ e.stageOf n row = some (.finished Status.done) ∧ (e.th n).snapWait = none ∧
           { e with threads := d.threads, parts := d.parts, count := d.count } = d ∧
           (n < d.mgr → e.count = d.count ∧ (∀ m, m ≠ n → e.part m = d.part m) ∧
             (e.part n).snap = p.counts ∧ (e.part n).snaps = (p.snaps + 1) % 2 ^ 32 ∧ (e.part n).snapTime = d.time ∧
             (e.part n).snapReset = p.stepReset ∧ (e.part n).counts = (if p.stepReset then [] else p.counts)) ∧
           (n = d.mgr → e.parts = d.parts ∧ (d.count.snaps = 0 ∨ d.count.time ≠ d.time → e.count.globalSnap = d.count.global ∧
             e.count.snaps = (d.count.snaps + 1) % 2 ^ 32 ∧ e.count.time = d.time ∧ e.count.global = d.count.global)))) ∧
     (d.dispatched n row .trace x →
       ∃ e, exec (.trace n row now) s = s.left e ∧ e.stageOf n row = some (.finished Status.done) ∧
         { e with threads := d.threads, attic := d.attic, count := d.count } = d ∧
         (d.attic.ctrl.getLsbD 0 = true → d.attic.ctrl.getLsbD 1 = false → d.powered 3 = true → d.attic.queue.length < 64 →
           ∃ r, e.attic.queue = d.attic.queue ++ [r] ∧ r.bits = atticBits d.time 8 n row 0 (fld st.d 0 32) 0 0 x.dispatchedAt ∧
             r.thread = n ∧ r.own = (d.th n).atticNext ∧ r.numbering = (d.th n).atticFirst) ∧
         (d.attic.ctrl.getLsbD 0 = false → e.attic = d.attic)))

/-- FREEZE of a BOUND partition freezes it and works on, THAW of a FROZEN one binds it again and sets NOTICE's thawed bit; where the partition is
in that state already they are done, in any other BAD_FIELD (R361, R375, R376). QUOTA sets its limit, a change sets NOTICE's quota bit, a limit out of range is
BAD_FIELD (R366, R367).
SAVE and RESTORE read the consent as they dispatch, and SAVE is judged by, and composes its blob from, the partition's state of that cc (R379,
R384): a SAVE of a frozen, consenting, drained partition spends key b and writes the enciphered blob to host memory; RESTORE into an empty
frozen one reads the blob's header first. Without consent they are DENIED, before it or after it BAD_FIELD as R379 and R381 order the checks; a key
without the usage bit is KEY_ATTR (R377 to R381). -/
def Obligations.PartitionStepsFreezeLimitSaveAndRestore : Prop :=
  (∀ (s : State) (n row now : Nat) (x : Flight),
     let d := s.at now
     let st := Step.of x.step
     let p := d.part x.slot
     let res := fld st.c 0 8
     let v := fld st.d 0 32
     let others (e : Dev) : Prop := ∀ j, j ≠ x.slot → e.part j = d.part j
     (d.dispatched n row .freeze x →
       (p.st = .bound → ∃ e, exec (.freeze n row now) s = s.left e ∧ e.part x.slot = { p with st := .frozen } ∧ others e ∧
         e.stageOf n row = some .running ∧ { e with parts := d.parts, threads := d.threads } = d) ∧
       (p.st = .frozen → exec (.freeze n row now) s = s.left (d.finish n row Status.done)) ∧
       (p.st ≠ .bound → p.st ≠ .frozen → exec (.freeze n row now) s = s.left (d.finish n row Status.badField))) ∧
     (d.dispatched n row .thaw x →
       (p.st = .frozen → ∃ e, exec (.thaw n row now) s = s.left e ∧
         e.part x.slot = { p with st := .bound, notice := p.notice ||| 2#6 } ∧ others e ∧
         e.stageOf n row = some (.finished Status.done) ∧ { e with parts := d.parts, threads := d.threads, intc := d.intc } = d) ∧
       (p.st = .bound → exec (.thaw n row now) s = s.left (d.finish n row Status.done)) ∧
       (p.st ≠ .bound → p.st ≠ .frozen → exec (.thaw n row now) s = s.left (d.finish n row Status.badField))) ∧
     (d.dispatched n row .quota x →
       (d.quotaBad x.slot res v = false → d.limit x.slot res = v → exec (.quota n row now) s = s.left (d.finish n row Status.done)) ∧
       (d.quotaBad x.slot res v = false → d.limit x.slot res ≠ v → ∃ e, exec (.quota n row now) s = s.left e ∧
         tget (e.part x.slot).quotas 0 res = v ∧ (∀ k, k ≠ res → tget (e.part x.slot).quotas 0 k = tget p.quotas 0 k) ∧
         (e.part x.slot).notice = p.notice ||| 4#6 ∧ others e ∧
         e.stageOf n row = some (.finished Status.done) ∧ { e with parts := d.parts, threads := d.threads, intc := d.intc } = d) ∧
       (d.quotaBad x.slot res v = true → exec (.quota n row now) s = s.left (d.finish n row Status.badField)) ∧
       (7 ≤ res → d.quotaBad x.slot res v = true) ∧ (res < 4 → 4096 < v → d.quotaBad x.slot res v = true) ∧
       (res < 4 → v ≤ 4096 → d.quotaBad x.slot res v = false))) ∧
  (∀ (s : State) (n row now b : Nat) (x : Flight),
     let d := s.at now
     let st := Step.of x.step
     let p := d.part x.slot
     let keyOk (u : Nat) : Prop := d.keyLook x.slot st.b b = .ok ∧ d.slotPasses b = true ∧ d.keyMay b u .seq (d.worldOf n b) = true
     (∀ z : Flight, (d.migrDispatch .restore z).consent = (d.part z.slot).migrate ∧ (d.migrDispatch .save z).consent = (d.part z.slot).migrate ∧
       (d.migrDispatch .save z).ruling = d.saveRefusal z.slot (Step.of z.step) ∧
       ∀ k, z.bSlot = some k → (d.migrDispatch .save z).report = (d.blob z.slot k).1 ++ (d.blob z.slot k).2) ∧
     ((p.st ≠ .frozen → d.saveRefusal x.slot st = some Status.badField) ∧
       (st.d % 64 = 0 → d.hall.nodeValid = true → p.st = .frozen → p.restoreCount < 0xFFFE → p.migrate.getLsbD 63 = false →
         d.saveRefusal x.slot st = some Status.denied)) ∧
     (d.dispatched n row .save x → x.bSlot = some b → keyOk useEncrypt → (d.slot b).spent = false →
       (x.ruling = none →
         ∃ e r, exec (.save n row now) s = s.left e ∧ e.stageOf n row = some .running ∧ (e.slot b).spent = true ∧
           (e.slot b).key = (d.slot b).key ∧ r ∈ e.host.reqs ∧ r.tag = d.host.nextTag ∧ r.write = true ∧ r.addr = st.d ∧
           r.data = x.report.take (x.report.length - 16) ∧ r.length = r.data.length ∧
           r.use = .save n row x.slot (x.report.drop (x.report.length - 16)) ∧ e.parts = d.parts) ∧
       (∀ status, x.ruling = some status → exec (.save n row now) s = s.left (d.finish n row status))) ∧
     (d.dispatched n row .save x → x.bSlot = some b → d.keyLook x.slot st.b b = .ok → d.slotPasses b = true →
       (d.slot b).spent = true → exec (.save n row now) s = s.left (d.finish n row Status.keyAttr)) ∧
     (d.dispatched n row .restore x → x.bSlot = some b → keyOk useDecrypt →
       (d.restoreBad x.slot b st = true → exec (.restore n row now) s = s.left (d.finish n row Status.badField)) ∧
       (d.restoreBad x.slot b st = false → consents x.consent st.b = false →
         exec (.restore n row now) s = s.left (d.finish n row Status.denied)) ∧
       (d.restoreBad x.slot b st = false → consents x.consent st.b = true →
         ∃ e r, exec (.restore n row now) s = s.left e ∧ e.stageOf n row = some .running ∧ r ∈ e.host.reqs ∧ r.tag = d.host.nextTag ∧
           r.write = false ∧ r.addr = st.d ∧ r.length = 64 ∧ r.use = .restore n row ∧ e.parts = d.parts ∧ e.larder = d.larder)))

/-- DOMJOIN sends HELLO with a nonce from the DRBG and waits; with d[24] set it leaves: out of the domain, the domain key gone. A second join, an
empty ticket or another domain's is DENIED. DOMLEAD reads the head of its policy core from host memory (R151, R152, R156, R164). -/
def Obligations.DomainStepsJoinLeaveAndLead : Prop :=
  ∀ (s : State) (n row now : Nat) (x : Flight),
    let d := s.at now
    let st := Step.of x.step
    let t := (d.th n).xferBytes 0 1024
    let m := d.dom n
    let nonce := Config.drbg d.larder.drbg.draws (label 0 0 (if n < d.nparts then n % 32 else 0x80) 0 0 0 0)
    let bad : Prop := zeroAt t 0 48 = true ∨ zeroAt t 792 232 = false ∨ ticketDomain t = 0 ∨ m.joinRow.isSome = true ∨
      (m.st = .member ∧ ticketDomain t ≠ m.id.toNat)
    (d.dispatched n row .domjoin x → bitOf st.d 24 = true →
      ∃ e, exec (.domjoin n row now) s = s.left e ∧ e.stageOf n row = some (.finished Status.done) ∧
        (m.st ≠ .none → e.dom n = {} ∧ e.domKey n = none)) ∧
    (d.dispatched n row .domjoin x → bitOf st.d 24 = false →
      (bad → exec (.domjoin n row now) s = s.left (d.finish n row Status.denied)) ∧
      (¬ bad → d.canDraw = true →
        ∃ e q, exec (.domjoin n row now) s = s.left e ∧ e.stageOf n row = some .running ∧ (e.dom n).joinRow = some row ∧
          (e.dom n).st = (if m.st = .member then .member else .joining) ∧ (e.dom n).id = BitVec.ofNat 64 (ticketDomain t) ∧
          q ∈ (e.dom n).sessions ∧ q.role = .parent ∧ q.stage = .helloSent ∧ q.node = fld st.d 0 14 ∧ q.part = fld st.d 16 5 ∧
          q.ownNonce = nonce ∧ q.sends = 1 ∧ q.lastSent = d.time ∧
          q.lastMsg = d.domMessage n (fld st.d 0 14) (fld st.d 16 5) DomKind.hello 0 q.id (ticketDomain t)
            (keyBytes nonce) ∧
          e.larder.drbg.draws = d.larder.drbg.draws + 1)) ∧
    (d.dispatched n row .domlead x →
      ∃ e r, exec (.domlead n row now) s = s.goesOn now e ∧ e.stageOf n row = some .running ∧ tget (e.dom n).tickets [] row = t ∧
        r ∈ e.host.reqs ∧ r.tag = d.host.nextTag ∧ r.write = false ∧ r.addr = st.d ∧ r.length = 32 ∧ r.use = .policy n row)

/-- Each of VOPEN, VLOAD and VCLOSE completes under the conditions the spec gives it. VOPEN, in its turn, with the Vault island on, the seal closed
and no seal event held, the link closed and nothing programming, begins an open: HELLO with a nonce from the DRBG, IDENT awaited (R391,
R395). VLOAD of an entry of the open manifest into a BASE region that holds it, shared exactly where it replaces and then with frozen partitions alone,
takes its place in the queue of four and one of its thread's job slots (R400). VCLOSE without loads closes an open link and zeroises the link
and content keys (R405). Else each ends with the status R391, R395, R400 and R405 give it; a step waits while an exchange runs (R408). -/
def Obligations.VaultStepsOpenLoadAndClose : Prop :=
  ∀ (s : State) (n row now : Nat) (x : Flight),
    let d := s.at now
    let st := Step.of x.step
    let v := d.vault
    let r := d.reg x.slot
    let replace := bitOf st.d 32
    let nonce := Config.drbg d.larder.drbg.draws (label 0 0 0x80 0 0 0 0)
    (d.dispatched n row .vopen x → v.stepTurn x = true →
      (d.powered 4 = true → v.sealOpen = false → v.sealEvent = false → v.st = .closed → v.progBusy = false → d.canDraw = true →
        ∃ e, exec (.vopen n row now) s = s.left e ∧ e.stageOf n row = some .running ∧ e.vault.st = .opening ∧ e.vault.purpose = 0 ∧
          e.vault.await = .ident ∧ e.vault.since = d.time ∧ e.vault.nK = nonce ∧ e.vault.seqOut = 1 ∧
          e.vault.seqIn = 0 ∧ e.vault.req.row = some (n, row) ∧
          e.out = d.out ++ [.vault (natLe 1 0x01 ++ [0x01, 0, 0] ++ natLe 4 36 ++ natLe 8 0 ++ (keyBytes nonce ++ [0, 0, 0, 0]))]) ∧
      (∀ status, d.vaultRefusal false = some status → exec (.vopen n row now) s = s.left (d.finish n row status)) ∧
      (d.powered 4 = true → v.sealOpen = true ∨ v.sealEvent = true → d.vaultRefusal false = some Status.vaultSeal) ∧
      (d.powered 4 = false → d.vaultRefusal false = some Status.denied) ∧
      (d.powered 4 = true → v.sealOpen = false → v.sealEvent = false → v.st ≠ .closed ∨ v.progBusy = true →
        d.vaultRefusal false = some Status.denied)) ∧
    (d.dispatched n row .vload x → v.stepTurn x = true →
      (d.powered 4 = true → v.st = .open_ ∨ v.st = .loading → st.c < leAt v.manifest 6 2 →
        entryLength (entryOf v.manifest st.c) ≤ 2 ^ r.log2 → r.kind = 1 → (replace = true ↔ r.share ≠ 0) →
        (replace = true → ∀ k, k < d.nparts → r.share.getLsbD k = true → (d.part k).st = .frozen) →
        (∀ l ∈ v.loads, l.region ≠ x.slot) → v.loads.length < 4 → (d.th n).jobs < 8 →
        ∃ e l, exec (.vload n row now) s = s.left e ∧ e.vault = { v with loads := v.loads ++ [l] } ∧ l.thread = n ∧ l.row = row ∧
          l.region = x.slot ∧ l.entry = st.c ∧ l.cookie = BitVec.ofNat 32 st.d ∧ l.replace = replace ∧
          (e.th n).jobs = (d.th n).jobs + 1 ∧ e.stageOf n row = some (.finished Status.done) ∧
          { e with vault := d.vault, threads := d.threads } = d) ∧
      (∀ status, d.vloadRefusal n x.slot st = some status → exec (.vload n row now) s = s.left (d.finish n row status)) ∧
      (d.powered 4 = true → v.st ≠ .open_ → v.st ≠ .loading → d.vloadRefusal n x.slot st = some Status.denied)) ∧
    (d.dispatched n row .vclose x → v.stepTurn x = true →
      (v.loads ≠ [] → exec (.vclose n row now) s = s.left (d.finish n row Status.badField)) ∧
      (v.loads = [] →
        ∃ e, exec (.vclose n row now) s = s.left e ∧ e.stageOf n row = some (.finished Status.done) ∧ e.vault.contentKey = 0 ∧
          e.resKey 6 = none ∧ (v.st = .open_ → e.vault.st = .closed ∧ e.vault.trailer = none ∧ e.vault.manifest = []) ∧
          (v.st ≠ .open_ → e.vault.st = v.st ∧ e.out = d.out))) ∧
    (v.stepTurn x = false →
      (d.dispatched n row .vopen x → exec (.vopen n row now) s = s.left d) ∧
      (d.dispatched n row .vload x → exec (.vload n row now) s = s.left d) ∧
      (d.dispatched n row .vclose x → exec (.vclose n row now) s = s.left d))

/-- Management commands that read or release: each is answered once, with a fresh nonce from the DRBG and inside its session where it came in
one, and a signed one's sequence is the latest (R120, R132). GET_STATE gives SIDE.LC, SIDE.FUSE_STATUS and HALL.STATUS; CRED_PRESENT accepts the keys whose digest the newest blown slot holds;
CELLAR_READ gives a record's 64 bytes; DUMP_RELEASE frees the dump; LEAVE_BOARDED clears the escalation history, leaves a record and
requests a SERVICE reset; an undefined code is BAD_OPCODE; a nonzero reserved field is discarded and counted (R11, R121, R122, R456,
R463). -/
def Obligations.ManagementCommandsAreAnswered : Prop :=
  ∀ (s : State) (sess : Option Nat) (msg : Bytes) (m : MgmtMsg) (now : Nat),
    let d := s.at now
    let tells (e : Dev) (st : Byte) (body : Bytes) : Prop :=
      e.out = d.out ++ [d.mgmtAnswer sess m st body] ∧
      e.mgmt.nonce = some (Config.drbg d.larder.drbg.draws (label 0 0 (partForm none) 0 0 0 0)) ∧
      { e.mgmt with nonce := none, cred := none, lastSeq := none } = { d.mgmt with nonce := none, cred := none, lastSeq := none } ∧
      (∀ p i, sess ≠ some i → e.session p i = d.session p i) ∧ { e.host with sessions := d.host.sessions } = d.host ∧
      { e with out := d.out, mgmt := d.mgmt, larder := d.larder, count := d.count, cellar := d.cellar, host := d.host } = d
    (d.mgmtTakes sess msg 0x00 true false false m →
      ∃ e, exec (.getNonce sess msg now) s = s.left e ∧ tells e Status.done [] ∧ e.cellar = d.cellar ∧ e.mgmt.cred = d.mgmt.cred) ∧
    (d.mgmtTakes sess msg 0x01 true false false m →
      ∃ e, exec (.getState sess msg now) s = s.left e ∧ e.cellar = d.cellar ∧ e.mgmt.cred = d.mgmt.cred ∧
        tells e Status.done (natLe 8 d.sideLc.toNat ++ natLe 8 d.fuseStatus.toNat ++ natLe 8 d.hallStatus.toNat)) ∧
    (d.mgmtTakes sess msg 0x02 true false false m → m.body.length = 2689 →
      let accepted : Prop := d.fuses.credCount ≠ 0 ∧ credDigest m.body = tget d.fuses.creds 0 (d.fuses.credCount - 1)
      (accepted → ∃ e, exec (.credPresent sess msg now) s = s.left e ∧ tells e Status.done [] ∧ e.mgmt.cred = some m.body ∧ e.cellar = d.cellar) ∧
      (¬ accepted → ∃ e, exec (.credPresent sess msg now) s = s.left e ∧ tells e Status.denied [] ∧ e.mgmt.cred = d.mgmt.cred ∧
        e.cellar = d.cellar)) ∧
    (MgmtMsg.of msg = some m → d.mgmtUp = true → m.code = 0 → m.reserved = true → exec (.getNonce sess msg now) s =
      s.left { d with mgmt := { d.mgmt with discarded := d.mgmt.discarded + 1 } }) ∧
    (MgmtMsg.of msg = some m → d.mgmtUp = true → mgmtCodes.contains m.code = false → d.canDraw = true →
      ∃ e, exec (.mgmtUnknownCommand sess msg now) s = s.left e ∧ tells e Status.badOpcode [] ∧ e.cellar = d.cellar) ∧
    (d.mgmtTakes sess msg 0x30 false true false m → m.body.length = 8 → zeroAt m.body 1 3 = true →
      (leAt m.body 0 1 = 0 → leAt m.body 4 4 < 256 →
        ∃ e, exec (.cellarRead sess msg now) s = s.left e ∧ e.mgmt.lastSeq = some m.seq ∧ e.cellar = d.cellar ∧
          tells e Status.done (natLe 64 (tget d.cellar.log 0 (leAt m.body 4 4)).toNat)) ∧
      (leAt m.body 0 1 = 1 → leAt m.body 4 4 < 512 → d.cellar.dumpValid = false →
        ∃ e, exec (.cellarRead sess msg now) s = s.left e ∧ e.mgmt.lastSeq = some m.seq ∧ e.cellar = d.cellar ∧
          tells e Status.done (List.replicate 1024 0)) ∧
      (1 < leAt m.body 0 1 → ∃ e, exec (.cellarRead sess msg now) s = s.left e ∧ tells e Status.badField [] ∧ e.cellar = d.cellar)) ∧
    (d.mgmtTakes sess msg 0x31 false true false m →
      ∃ e, exec (.dumpRelease sess msg now) s = s.left e ∧ tells e Status.done [] ∧ e.mgmt.lastSeq = some m.seq ∧
        e.cellar = { d.cellar with dumpValid := false, dumpMissed := 0 }) ∧
    (d.mgmtTakes sess msg 0x09 false true true m → d.reset.status = 3 →
      ∃ e, exec (.leaveBoarded sess msg now) s = s.left e ∧ e.out = d.out ++ [d.mgmtAnswer sess m Status.done [], .resetRequest 0] ∧
        e.cellar.boarded = false ∧ e.cellar.escTimes = [] ∧ e.cellar.head = (d.cellar.head + 1) % 2 ^ 32 ∧ e.reset.request = some 0 ∧
        e.mgmt.armed = none ∧ e.mgmt.lastSeq = some m.seq) ∧
    (∀ ty : Byte, ty ≠ 0x05 → ty ≠ 0x06 → ty ≠ 0x7F → exec (.mctpOtherType ty) s =
      s.left { s.at 0 with mgmt := { (s.at 0).mgmt with discarded := (s.at 0).mgmt.discarded + 1 } })

/-- The transitions: where R113 allows one, with its length, signatures and token, every enabled, bound or frozen partition is reset and the fuse
port is asked to blow the bits, the token consumed; PROVISION draws the UDS, CRED_INSTALL blows the next slot. Where R113 does not
allow it the answer is DENIED, without a live token PRESENCE_REQUIRED (R112 to R115, R117, R122). -/
def Obligations.TransitionsResetPartitionsAndBlowFuses : Prop :=
  ∀ (s : State) (sess : Option Nat) (msg : Bytes) (m : MgmtMsg) (now : Nat),
    let d := s.at now
    let moves : List (Byte × Instr × Bool × Bool) :=
      [(0x03, .provision sess msg now, true, false), (0x04, .deploy sess msg now, false, true), (0x05, .debugEnter sess msg now, false, true),
       (0x06, .debugExit sess msg now, false, true), (0x07, .retire sess msg now, decide (d.lc = .manufacture), false)]
    (∀ code i outside signed, (code, i, outside, signed) ∈ moves →
      (d.mgmtTakes sess msg code.toNat outside signed true m → d.mayMove code = true →
        m.body.length = (if code = 0x03 then 2689 else 0) →
        ∃ e b, exec i s = s.left e ∧ e.mgmt.blow = some b ∧ b.code = code ∧ b.seq = BitVec.ofNat 32 m.seq ∧ b.sess = sess ∧
          b.failed = false ∧ e.mgmt.armed = none ∧ (signed = true → e.mgmt.lastSeq = some m.seq) ∧ e.fuses = d.fuses ∧
          d.blows b <:+ e.out ∧
          (∀ n, n < d.nparts → (d.part n).st = .enabled ∨ (d.part n).st = .bound ∨ (d.part n).st = .frozen → (e.part n).st = .resetting) ∧
          (code = 0x03 → b.data = keyBytes (Config.drbg d.larder.drbg.draws (label 0 0 (partForm none) 0 0 0 0)) ++ m.body ∧
            e.larder.drbg.draws = d.larder.drbg.draws + 1) ∧
          (code = 0x05 ∨ code = 0x06 ∨ code = 0x07 → e.larder.identity = none ∧ e.larder.slotKey = none ∧ ∀ k, (e.slot k).key = 0)) ∧
      (d.mgmtTakes sess msg code.toNat outside false false m → d.mayMove code = false →
        ∃ e, exec i s = s.left e ∧ e.out = d.out ++ [d.mgmtAnswer sess m Status.denied []] ∧ e.mgmt.blow = none ∧ e.parts = d.parts) ∧
      (d.mgmtTakes sess msg code.toNat outside signed false m → d.mayMove code = true →
        m.body.length = (if code = 0x03 then 2689 else 0) → d.tokenLive = false →
        ∃ e, exec i s = s.left e ∧ e.out = d.out ++ [d.mgmtAnswer sess m Status.presenceRequired []] ∧ e.mgmt.blow = none ∧
          e.parts = d.parts)) ∧
    (d.mgmtTakes sess msg 0x08 false true true m → 0 < d.fuses.credCount → d.fuses.credCount < 4 → m.body.length = 2689 →
      ∃ e b, exec (.credInstall sess msg now) s = s.left e ∧ e.mgmt.blow = some b ∧ b.code = 0x08 ∧ b.data = m.body ∧
        e.mgmt.armed = none ∧ e.mgmt.lastSeq = some m.seq ∧ e.out = d.out ++ d.blows b ∧ e.parts = d.parts)

/-- The fuse port's report (R114, R115, R498): a blow that reads back is in the fuses and is answered DONE (once the DRBG serves its nonce); a
transition then asks for a SERVICE reset, PROVISION awaits its cold boot, RETIRE begins RETIRED behaviour, an installed credential is the
presented one. The first failure blows again; the second is answered HANG and sets blow_fail, and the transition ends as it does.
The presence line (R116 to R118): a press while idle is held; a release after 2 s to 30 s arms a token for 600 s and counts it, one after
30 s or in LOCKOUT arms none; over 30 s of holding is a LOCKOUT, counted; the token ends at 600 s. -/
def Obligations.FuseReportsAndPresenceTokens : Prop :=
  (∀ (s : State) (now : Nat) (b : Blow), (s.at now).mgmt.blow = some b →
     let d := s.at now
     let answer (st : Byte) (body : Bytes) : Out :=
       let msg := [0x7F] ++ natBe 4 Config.iana.toNat ++ natLe 1 b.code.toNat ++ [st, 0] ++ natLe 4 b.seq.toNat ++ natLe 4 body.length ++
         keyBytes (Config.drbg d.larder.drbg.draws (label 0 0 (partForm none) 0 0 0 0)) ++ body
       match d.mgmtLive b.sess with
       | some (_, x) => .secured .management (x.record msg)
       | none => .management b.sess msg
     let bit : BitVec 9 := BitVec.ofNat 9 (2 ^ lcBit b.code d.fuses.lc)
     let done (e : Dev) : Prop := exec (.fuseBlowDone true now) s = s.left e ∧ e.mgmt.blow = none ∧ e.mgmt.blowFail = d.mgmt.blowFail
     (d.canDraw = true → b.code = 0x04 ∨ b.code = 0x05 ∨ b.code = 0x06 →
       ∃ e, done e ∧ e.fuses = { d.fuses with lc := d.fuses.lc ||| bit } ∧ e.reset.request = some 0 ∧
         e.out = d.out ++ [answer Status.done b.body, .resetRequest 0]) ∧
     (d.canDraw = true → b.code = 0x03 →
       ∃ e, done e ∧ e.fuses.lc = d.fuses.lc ||| bit ∧ e.fuses.uds = d.fuses.uds ||| BitVec.ofNat 256 (leAt (slice b.data 0 32) 0 32) ∧
         e.fuses.udsCheck = d.fuses.udsCheck ||| BitVec.ofNat 32 (crc32 (slice b.data 0 32)) ∧
         (credDigest (b.data.drop 32) ≠ 0 → e.fuses.credCount = d.fuses.credCount + 1 ∧
           tget e.fuses.creds 0 d.fuses.credCount = credDigest (b.data.drop 32)) ∧
         e.mgmt.coldNeeded = true ∧ e.reset.status = 0 ∧ e.out = d.out ++ [answer Status.done b.body]) ∧
     (d.canDraw = true → b.code = 0x07 →
       ∃ e, done e ∧ e.fuses = { d.fuses with lc := d.fuses.lc ||| bit } ∧ e.mgmt.lcWord = d.fuses.lc ||| bit ∧
         e.out = d.out ++ [answer Status.done b.body] ∧ e.reset.status = 0) ∧
     (d.canDraw = true → b.code = 0x08 → credDigest b.data ≠ 0 →
       ∃ e, done e ∧ e.fuses.lc = d.fuses.lc ∧ e.fuses.uds = d.fuses.uds ∧ e.fuses.credCount = d.fuses.credCount + 1 ∧
         tget e.fuses.creds 0 d.fuses.credCount = credDigest b.data ∧ e.mgmt.cred = some b.data ∧
         e.out = d.out ++ [answer Status.done b.body]) ∧
     (b.failed = false → exec (.fuseBlowDone false now) s = s.left
       { d with mgmt := { d.mgmt with blow := some { b with failed := true } }, out := d.out ++ d.blows b }) ∧
     (b.failed = true → d.canDraw = true →
       ∃ e tail, exec (.fuseBlowDone false now) s = s.left e ∧ e.mgmt.blow = none ∧ e.mgmt.blowFail = true ∧ d.fuses.within e.fuses ∧
         e.out = d.out ++ answer Status.hang [] :: tail ∧ (b.code = 0x03 ∨ b.code = 0x07 → e.reset.status = 0) ∧
         (b.code = 0x04 ∨ b.code = 0x05 ∨ b.code = 0x06 → e.reset.request = some 0 ∧ tail = [.resetRequest 0]))) ∧
  (∀ (s : State) (now : Nat),
     let d := s.at now
     let p := d.mgmt
     let h := d.time - p.lowSince
     let frame (e : Dev) : Prop := { e with mgmt := d.mgmt, intc := d.intc } = d
     (p.lineLow = false → ∃ e, exec (.presencePress now) s = s.left e ∧ frame e ∧
       e.mgmt = { p with lineLow := true, lowSince := d.time, presence := if p.presence = .idle then .held else p.presence } ∧
       e.intc.raw.getLsbD 129 = true) ∧
     (p.lineLow = true → exec (.presencePress now) s = s.left d) ∧
     (p.lineLow = true → p.presence = .held → 2000000000 ≤ h → h ≤ 30000000000 →
       ∃ e, exec (.presenceRelease now) s = s.left e ∧ frame e ∧ e.intc.raw.getLsbD 129 = false ∧
         e.mgmt = { p with lineLow := false, presence := .idle, armed := some d.time, armedAt := d.time,
                           armedCount := sat 16 (p.armedCount + 1) }) ∧
     (p.lineLow = true → p.presence = .held → h < 2000000000 →
       ∃ e, exec (.presenceRelease now) s = s.left e ∧ frame e ∧ e.mgmt = { p with lineLow := false, presence := .idle }) ∧
     (p.lineLow = true → p.presence = .held → 30000000000 < h →
       ∃ e, exec (.presenceRelease now) s = s.left e ∧ frame e ∧
         e.mgmt = { p with lineLow := false, presence := .idle, lockouts := sat 16 (p.lockouts + 1) }) ∧
     (p.lineLow = true → p.presence = .lockout →
       ∃ e, exec (.presenceRelease now) s = s.left e ∧ frame e ∧ e.mgmt = { p with lineLow := false, presence := .idle }) ∧
     (p.lineLow = true → p.presence = .held → p.lowSince + 30000000000 < d.time →
       ∃ e, exec (.presenceLockout now) s = s.left e ∧ frame e ∧
         e.mgmt = { p with presence := .lockout, lockouts := sat 16 (p.lockouts + 1) }) ∧
     (p.presence ≠ .held → exec (.presenceLockout now) s = s.left d) ∧
     (∀ t, p.armed = some t →
       (t + 600000000000 ≤ d.time → exec (.tokenExpiry now) s = s.left { d with mgmt := { p with armed := none } }) ∧
       (d.time < t + 600000000000 → d.tokenLive = true ∧ exec (.tokenExpiry now) s = s.left d)) ∧
     (p.armed = none → exec (.tokenExpiry now) s = s.left d))

/-- Management commands on partitions and the Vault (R365, R396, R406, R410): PART_CTRL enables, disables or resets and answers with the
partition's state, PART_QUOTA sets a limit, VAULT_STATE answers the four registers; a pairing, an unpairing and a programming begin, the
answer left to their end, or wait while another exchange runs (R408). -/
def Obligations.ManagementHandlesPartitionsAndVault : Prop :=
  ∀ (s : State) (sess : Option Nat) (msg : Bytes) (m : MgmtMsg) (now : Nat),
    let d := s.at now
    let v := leAt m.body 0 8
    let n := fld v 0 5
    let replied (e : Dev) : Prop := ∃ pre, e.out = pre ++ [d.mgmtAnswer sess m Status.done (natLe 8 (e.partState n).toNat)]
    (d.mgmtTakes sess msg 0x10 false true false m → m.body.length = 8 → bitOf v 63 = true → n < d.nparts →
      (fld v 8 3 = 1 → (d.part n).st = .disabled →
        ∃ e, exec (.partCtrl sess msg now) s = s.left e ∧ replied e ∧ (e.part n).st = .enabled ∧ (e.part n).quotas = [] ∧
          (e.part n).refused = false ∧ ∀ j, j ≠ n → e.part j = d.part j) ∧
      (fld v 8 3 = 2 → (d.part n).st = .enabled → (d.part n).tdi = .unlocked →
        ∃ e, exec (.partCtrl sess msg now) s = s.left e ∧ replied e ∧ (e.part n).st = .disabled ∧ ∀ j, j ≠ n → e.part j = d.part j) ∧
      (fld v 8 3 = 3 → (d.part n).st = .enabled ∨ (d.part n).st = .bound ∨ (d.part n).st = .frozen →
        ∃ e, exec (.partCtrl sess msg now) s = s.left e ∧ replied e ∧ (e.part n).st = .resetting ∧ (e.part n).resetCause = 0) ∧
      (fld v 8 3 = 1 → (d.part n).st ≠ .disabled →
        ∃ e, exec (.partCtrl sess msg now) s = s.left e ∧ replied e ∧ e.part n = { d.part n with refused := true } ∧
          ∀ j, j ≠ n → e.part j = d.part j)) ∧
    (d.mgmtTakes sess msg 0x11 false true false m → m.body.length = 8 → zeroAt m.body 2 2 = true →
      let q := leAt m.body 0 1
      let res := leAt m.body 1 1
      q < d.nparts → (d.part q).st ≠ .disabled → d.quotaBad q res (leAt m.body 4 4) = false →
        ∃ e, exec (.partQuota sess msg now) s = s.left e ∧ tget (e.part q).quotas 0 res = leAt m.body 4 4 ∧
          (∀ k, k ≠ res → tget (e.part q).quotas 0 k = tget (d.part q).quotas 0 k) ∧ (e.part q).st = (d.part q).st ∧
          (∀ j, j ≠ q → e.part j = d.part j) ∧
          e.out = d.out ++ [d.mgmtAnswer sess m Status.done (natLe 8 (e.partState q).toNat)]) ∧
    (d.mgmtTakes sess msg 0x20 false false false m →
      ∃ e, exec (.vaultState sess msg now) s = s.left e ∧ e.vault = d.vault ∧
        e.out = d.out ++ [d.mgmtAnswer sess m Status.done (natLe 8 d.vault.status ++ natLe 8 d.vault.serial.toNat ++ natLe 8 d.vault.counts ++
          natLe 8 d.vault.pairing)]) ∧
    (∀ (i : Instr) (pairing : Bool), i = (if pairing then .vaultPair sess msg now else .vaultUnpair sess msg now) →
      d.mgmtTakes sess msg (if pairing then 0x21 else 0x22) false true true m →
      (d.commandTurn d.time = true → d.vaultRefusal pairing = none →
        ∃ e, exec i s = s.left e ∧ e.vault.st = .pairing ∧ e.vault.purpose = (if pairing then 1 else 3) ∧ e.vault.await = .ident ∧
          e.vault.nK = Config.drbg d.larder.drbg.draws (label 0 0 (partForm none) 0 0 0 0) ∧ e.vault.req.code = BitVec.ofNat 8 m.code ∧ e.vault.req.sess = sess ∧
          e.mgmt.armed = none ∧ e.mgmt.nonce = d.mgmt.nonce ∧ e.out = d.out ++ [.vault (natLe 1 0x01 ++ [0x01, 0, 0] ++ natLe 4 36 ++ natLe 8 0 ++
            (keyBytes (Config.drbg d.larder.drbg.draws (label 0 0 (partForm none) 0 0 0 0)) ++ natLe 1 (if pairing then 1 else 3) ++ [0, 0, 0]))]) ∧
      (∀ st, d.commandTurn d.time = true → d.vaultRefusal pairing = some st →
        ∃ e, exec i s = s.left e ∧ e.out = d.out ++ [d.mgmtAnswer sess m st []] ∧ e.vault = d.vault) ∧
      (d.commandTurn d.time = false → exec i s =
        s.left { d with vault := { d.vault with waiting := d.vault.waiting ++ [{ sess := sess, msg := msg, came := d.time }] } })) ∧
    (d.mgmtTakes sess msg 0x23 false true true m → d.commandTurn d.time = true → d.vaultRefusal false = none → m.body.length = 8 →
      ∃ e r, exec (.vaultProgram sess msg now) s = s.left e ∧ e.vault.st = .programming ∧ e.vault.imageLength = v ∧ e.vault.progBytes = 0 ∧
        e.vault.req.code = BitVec.ofNat 8 m.code ∧ e.mgmt.armed = none ∧ e.mgmt.nonce = d.mgmt.nonce ∧ r ∈ e.host.reqs ∧ r.tag = d.host.nextTag ∧
        r.write = false ∧ r.addr = d.vault.progAddr.toNat ∧ r.length = min v 16384 ∧ r.use = .image 0)

/-- The SPDM requests outside a session (R110, R124, R132 to R137): each is answered once with the code of the standard; GET_DIGESTS and GET_CERTIFICATE from the
stored chains, CHALLENGE signed under the P-384 identity key over a fresh nonce, GET_MEASUREMENTS with a register or a report, KEY_EXCHANGE with
a drawn share opening one of the instance's sessions; without identity a request after NEGOTIATE_ALGORITHMS is UnsupportedRequest, as is any other. The
response codes are those of SPDM 1.3 (PRESUMED, notes/assumptions/13.md).
Sessions (R13, R132, R133, R136): what Kerre says in one leaves as a record sealed under its keys; FINISH whose verify data hold
establishes one, else ends it; an established one is heard at every message, HEARTBEAT answers, KEY_UPDATE counts and lets the next report be signed, END_SESSION ends it; two heartbeat periods without a message
end it. -/
def Obligations.SpdmRequestsAndSessions : Prop :=
  (∀ (s : State) (p : SpdmPort) (now : Nat), (s.at now).spdmUp = true → spdmPresent s.dev.kind p = true →
     let d := s.at now
     let said (e : Dev) (code : Byte) (content : Bytes) : Prop := e.out = d.out ++ [.spdm p none code (Config.spdmBody code.toNat content)]
     let frame (e : Dev) : Prop := { e with out := d.out, count := d.count, larder := d.larder, free := d.free, host := d.host } = d
     let queueFull (e : Dev) : Prop := said e 0x7F [SpdmErr.busy] ∧ frame e
     (∃ e, exec (.getVersion p now) s = s.left e ∧ said e 0x04 [0x13] ∧ frame e) ∧
     (∃ e c, exec (.getCapabilities p now) s = s.left e ∧ said e 0x61 c ∧ c.length = 13 ∧ frame e) ∧
     (∃ e c, exec (.negotiateAlgorithms p now) s = s.left e ∧ said e 0x63 c ∧ frame e) ∧
     (∀ code, ∃ e, exec (.spdmUnsupportedRequest p code now) s = s.left e ∧ said e 0x7F [SpdmErr.unsupported] ∧ frame e) ∧
     (d.spdmFull = false → ∃ e, exec (.getDigests p none now) s = s.left e ∧ said e 0x7F [SpdmErr.unsupported] ∧ frame e) ∧
     (d.spdmFull = true → d.pkeFull = true → ∃ e, exec (.getDigests p none now) s = s.left e ∧ queueFull e) ∧
     (d.spdmFull = true → d.pkeFull = false →
       (∃ e, exec (.getDigests p none now) s = s.left e ∧ frame e ∧ said e 0x01 (natLe 1 (b2n (d.chain 0).isSome + 2 * b2n (d.chain 1).isSome) ++
         ((d.chain 0).map sha384).getD [] ++ ((d.chain 1).map sha384).getD [])) ∧
       (∀ slot c k x nonce, d.chain slot = some c → d.larder.identity = some (k, x) → d.canDraw = true →
         let own := keyBytes (Config.drbg d.larder.drbg.draws (label 0 0 (partForm (spdmPart p)) 0 0 0 0))
         ∃ e, exec (.challenge p slot nonce now) s = s.left e ∧ frame e ∧ e.larder.drbg.draws = d.larder.drbg.draws + 1 ∧
           said e 0x03 (natLe 1 slot ++ sha384 c ++ own ++
             padTo 96 (Config.p384Sign k d.free (Config.spdmBody 0x83 (sha384 c ++ keyBytes nonce ++ own))))) ∧
       (∀ index nonce, 1 ≤ index → index ≤ 16 → ∃ e, exec (.getMeasurements p none index nonce now) s = s.left e ∧ frame e ∧
         said e 0x60 (natLe 1 index ++ natLe 4 48 ++ digestBytes (tget d.mgmt.measure 0 (index - 1)))) ∧
       (∀ nonce, ∃ e r, exec (.getMeasurements p none 0x20 nonce now) s = s.left e ∧ frame e ∧
         r = ((d.spdmPke p).signedReport (spdmPart p) nonce none).1 ∧ said e 0x60 (natLe 1 0x20 ++ natLe 4 r.length ++ r)) ∧
       (∀ reqId t, (if p = .management then 4 else 2) ≤ (d.host.sessions.filter fun x => x.port = p).length →
           ∃ e, exec (.keyExchange p reqId t now) s = s.left e ∧ said e 0x7F [SpdmErr.sessionLimit] ∧ frame e ∧ e.host = d.host) ∧
       (∀ (reqId : BitVec 16) t k y,
         let n := d.larder.drbg.draws
         let draw (i : Nat) : Key := Config.drbg (n + i) (label 0 0 (partForm (spdmPart p)) 0 0 0 0)
         let r := fld (draw 0).toNat 0 16
         let own := padTo 97 (importPoint (spdmPart p) (n + 2))
         let th1 := Config.spdmTh1 (t ++ natLe 2 r ++ keyBytes (draw 1) ++ own)
         let secret := Config.p384Ecdh (importScalar (spdmPart p) (n + 2)) (Config.spdmShare t)
         (d.host.sessions.filter fun x => x.port = p).length < (if p = .management then 4 else 2) → d.canDraws 3 = true → r ≠ 0 → r ≠ 0xFFFF →
         (d.host.sessions.any fun x => fld x.id.toNat 16 16 = r) = false → d.larder.identity = some (k, y) →
         (Config.p384OnCurve (Config.spdmShare t) = true →
           ∃ e, exec (.keyExchange p reqId t now) s = s.left e ∧ frame e ∧ e.larder.drbg.draws = n + 3 ∧
             said e 0x64 (natLe 2 r ++ natLe 1 60 ++ keyBytes (draw 1) ++ own ++
               padTo 96 (Config.p384Sign k d.free (Config.spdmBody 0xE4 th1)) ++ Config.spdmVerify secret th1) ∧
             e.host = { d.host with sessions := d.host.sessions ++
               [{ port := p, id := BitVec.ofNat 32 (reqId.toNat + r * 65536), th1 := th1, secret := secret, lastHeard := d.time }] }) ∧
         (Config.p384OnCurve (Config.spdmShare t) = false →
           ∃ e, exec (.keyExchange p reqId t now) s = s.left e ∧ said e 0x7F [SpdmErr.invalidRequest] ∧ frame e ∧ e.host = d.host))) ∧
     (d.spdmFull = true → ∀ slot off len c, d.chain slot = some c → off < c.length →
       let k := min len (c.length - off)
       ∃ e, exec (.getCertificate p none slot off len now) s = s.left e ∧ frame e ∧
         said e 0x02 (natLe 1 slot ++ natLe 2 k ++ natLe 2 (c.length - off - k) ++ slice c off k))) ∧
  (∀ (s : State) (p : SpdmPort) (i now : Nat) (x : Session), (s.at now).session p i = some x →
     let d := s.at now
     let said (e : Dev) (y : Session) (code : Byte) (content : Bytes) : Prop :=
       e.out = d.out ++ [.secured p (y.record ([0x13, code] ++ Config.spdmBody code.toNat content))]
     let frame (e : Dev) : Prop :=
       { e.host with sessions := d.host.sessions } = d.host ∧ { e with out := d.out, count := d.count, host := d.host } = d
     let left : List Session := d.host.sessions.filter fun y => y.id.toNat ≠ i
     let fresh : Session := { x with updates := x.updates + 1, reported := false, sent := 0 }
     (d.spdmFull = true → d.pkeFull = false → x.established = false → ∀ t,
       (Config.spdmFinishOk x.th1 t = true → ∃ e, exec (.finish p i t now) s = s.left e ∧ said e x 0x65 [] ∧ frame e ∧
         e.session p i = some { x with established := true, th2 := Config.spdmTh2 x.th1 t, sent := 0, lastHeard := d.time }) ∧
       (Config.spdmFinishOk x.th1 t = false → ∃ e, exec (.finish p i t now) s = s.left e ∧ frame e ∧
         e.out = d.out ++ [.spdm p none 0x7F (Config.spdmBody 0x7F [SpdmErr.decryptError])] ∧ e.host.sessions = left)) ∧
     (d.spdmFull = true → x.established = true →
       (∃ e, exec (.heartbeat p i now) s = s.left e ∧ said e x 0x68 [] ∧ frame e ∧
         e.session p i = some { x with lastHeard := d.time, sent := x.sent + 1 }) ∧
       (x.updates < 0xFFFE → ∃ e, exec (.keyUpdate p i now) s = s.left e ∧ said e fresh 0x69 [] ∧ frame e ∧
         e.session p i = some { fresh with lastHeard := d.time, sent := 1 }) ∧
       (0xFFFE ≤ x.updates → ∃ e, exec (.keyUpdate p i now) s = s.left e ∧ said e x 0x7F [SpdmErr.invalidRequest] ∧ frame e ∧
         e.session p i = some { x with lastHeard := d.time, sent := x.sent + 1 }) ∧
       (∃ e, exec (.endSession p i now) s = s.left e ∧ said e x 0x6C [] ∧ frame e ∧ e.host.sessions = left)) ∧
     (x.lastHeard + 120000000000 ≤ d.time →
       exec (.spdmSessionTimeout p i now) s = s.left { d with host := { d.host with sessions := left } }) ∧
     (d.time < x.lastHeard + 120000000000 → exec (.spdmSessionTimeout p i now) s = s.left d))

/-- TDISP (R138, R361 to R363): the queries answer; LOCK of an ENABLED, unlocked partition locks it, START of a locked one binds it with its next
bind count, a fresh import pair and measurements zero, STOP of a locked or bound one resets it; out of place each is an error response.
IDE_KM and its key port (R139, R495): QUERY answers, KEY_PROG, K_SET_GO and K_SET_STOP put their operation to the port and are answered
at its acknowledge, or with an error where none comes within 1 us, which is counted; a stream above 63 is answered at once. -/
def Obligations.TdispAndIdeRequests : Prop :=
  (∀ (s : State) (n now : Nat), n < s.dev.nparts → (s.at now).spdmFull = true →
     let d := s.at now
     let p := d.part n
     let said (e : Dev) (code : Byte) (ok : Bool) (body : Bytes) : Prop := e.out = d.out ++ [.tdisp n code ok body]
     let only (e : Dev) : Prop := { e with out := d.out, count := d.count, parts := d.parts } = d
     let refused (i : Instr) : Prop := ∃ e, exec i s = s.left e ∧ said e 0x7F false [] ∧ only e ∧ e.parts = d.parts
     (∃ e, exec (.getTdispVersion n now) s = s.left e ∧ said e 0x01 true [0x10] ∧ only e) ∧
     (∃ e c, exec (.getTdispCapabilities n now) s = s.left e ∧ said e 0x02 true c ∧ only e) ∧
     (∃ e c, exec (.getDeviceInterfaceReport n now) s = s.left e ∧ said e 0x04 true c ∧ only e ∧ c.length = 16) ∧
     (∃ e, exec (.getDeviceInterfaceState n now) s = s.left e ∧ said e 0x05 true [BitVec.ofNat 8 (TdiState.code p.tdi)] ∧ only e) ∧
     (∀ code, ∃ e, exec (.tdispUnsupportedRequest n code now) s = s.left e ∧ said e 0x7F false [0x07] ∧ only e) ∧
     (d.ready = true → p.st = .enabled → p.tdi = .unlocked →
       ∃ e, exec (.lockInterfaceRequest n now) s = s.left e ∧ said e 0x03 true [] ∧ only e ∧ e.part n = { p with tdi := .locked } ∧
         ∀ j, j ≠ n → e.part j = d.part j) ∧
     (p.st ≠ .enabled ∨ p.tdi ≠ .unlocked → refused (.lockInterfaceRequest n now)) ∧
     (d.ready = true → p.st = .enabled → p.tdi = .locked → d.canDraw = true → (d.resKey 3).isSome = true → p.bindCount + 1 < 0xFFFF →
       (d.placeReserved (40 + n)).isSome = true →
       ∃ e, exec (.startInterfaceRequest n now) s = s.left e ∧ said e 0x06 true [] ∧ (e.part n).st = .bound ∧ (e.part n).tdi = .run ∧
         (e.part n).bindCount = p.bindCount + 1 ∧ (e.part n).importPair = d.larder.drbg.draws ∧ (e.part n).measure = [] ∧ (e.part n).mbx = [] ∧
         (e.part n).seqOut = 1 ∧ (e.part n).seqIn = 1 ∧ (e.part n).counts = [] ∧ e.larder.drbg.draws = d.larder.drbg.draws + 1 ∧
         ∀ j, j ≠ n → e.part j = d.part j) ∧
     (p.st ≠ .enabled ∨ p.tdi ≠ .locked → refused (.startInterfaceRequest n now)) ∧
     (p.st = .enabled → p.tdi = .error → ∃ e, exec (.stopInterfaceRequest n now) s = s.left e ∧ said e 0x07 true [] ∧
       (e.part n).tdi = .unlocked ∧ (e.part n).st = .enabled) ∧
     (p.st = .bound ∨ p.st = .frozen ∨ (p.st = .enabled ∧ p.tdi = .locked) →
       ∃ e pre, exec (.stopInterfaceRequest n now) s = s.left e ∧ e.out = pre ++ [.tdisp n 0x07 true []] ∧ (e.part n).st = .resetting ∧
         (e.part n).resetCause = 1 ∧ (e.part n).toUnlocked = true) ∧
     (p.st = .disabled ∨ p.st = .resetting ∨ (p.st = .enabled ∧ p.tdi = .unlocked) → refused (.stopInterfaceRequest n now))) ∧
  (∀ (s : State) (now stream : Nat) (id : BitVec 8) (keySet tx : Bool) (sub : BitVec 2) (key : Key) (iv : BitVec 64),
     let d := s.at now
     let said (e : Dev) (code : Byte) (ok : Bool) (body : Bytes) : Prop := e.out = d.out ++ [.ideKm code ok body]
     let frame (e : Dev) : Prop := { e with out := d.out, count := d.count, host := d.host } = d
     let op (k : Nat) (key : Key) (iv : BitVec 64) : IdeOp :=
       { op := k, stream := stream, keySet := keySet, tx := tx, sub := sub, key := key, iv := iv, since := d.time }
     let put (i : Instr) (o : IdeOp) : Prop := ∃ e, exec i s = s.left e ∧ e.out = d.out ++ [.ideKey o] ∧ e.host.ide = d.host.ide ++ [o] ∧ frame e
     (d.spdmFull = true →
       (∃ e c, exec (.query now) s = s.left e ∧ said e 0x01 true c ∧ frame e ∧ e.host = d.host) ∧
       (stream < 64 → sub ≠ 3 →
         (∃ e, exec (.keyProg stream id keySet tx sub key iv now) s = s.left e ∧ e.out = d.out ++ [.ideKey (op 1 key iv)] ∧
           e.host.ide = d.host.ide ++ [op 1 key iv] ∧ (tget e.host.streams {} stream).id = id ∧
           (tget e.host.streams {} stream).programmed = true ∧ frame e) ∧
         put (.kSetGo stream keySet tx sub now) (op 2 0 0) ∧ put (.kSetStop stream keySet tx sub now) (op 3 0 0)) ∧
       (64 ≤ stream ∨ sub = 3 → ∃ e, exec (.kSetGo stream keySet tx sub now) s = s.left e ∧ said e 0x06 false [0x02] ∧ frame e ∧
         e.host = d.host)) ∧
     ∀ o rest, d.host.ide = o :: rest → o.own = false →
       (∃ e, exec (.ideKeyPortAck now) s = s.left e ∧ said e (if o.op = 1 then 0x03 else 0x06) true [] ∧ e.host.ide = rest ∧ frame e ∧
         (o.op = 2 → (tget e.host.streams {} o.stream).running = true ∧ (tget e.host.streams {} o.stream).activeSet = o.keySet) ∧
         (o.op = 3 → (tget d.host.streams {} o.stream).activeSet = o.keySet → (tget e.host.streams {} o.stream).running = false)) ∧
       (o.since + 1000 ≤ d.time → ∃ e, exec (.ideKeyPortTimeout now) s = s.left e ∧ said e (if o.op = 1 then 0x03 else 0x06) false [0x01] ∧
         e.host = { d.host with ide := rest } ∧ e.power.ideLate = sat 16 (d.power.ideLate + 1)) ∧
       (d.time < o.since + 1000 → exec (.ideKeyPortTimeout now) s = s.left d))

/-- The join handshake (R11, R154 to R157, R159, R168): a message with a reserved byte set is malformed; a member answers HELLO with PROOF_P over a fresh nonce, one in no domain refuses it; a proof that holds takes the
requester and the responder on, one that does not ends the session with REFUSE; KEY with its confirmation makes the requester a member under
the decapsulated key and completes its DOMJOIN; KEY_ACK makes the child count (a child whose
key is behind gets EPOCH_NEW), CONFIRM ends an attest-only handshake; REFUSE ends the join
DENIED, HOLD restarts its clock.
Epoch changes and the rest of the protocol (R158, R159, R162 to R164): EPOCH_NEW under the current key is stored as pending and passed on, or
held while another join runs;
EPOCH_READY counts a child in, and a leader whose last child is ready commits; EPOCH_COMMIT under the pending key moves it into force and keeps the
old one for 1 s, then erased; LEAVE ends a session, from the parent it makes an orphan; REPORT_REQ is answered, REPORT taken in; an
unanswered message goes again at the channel timeout, four times, then its session ends; late fragments are dropped. -/
def Obligations.DomainMessagesJoinChangeAndEnd : Prop :=
  (∀ (s : State) (msg : Bytes) (now : Nat),
     let d := s.at now
     let g := DMsg.of msg
     let n := g.dstPart
     let m := d.dom n
     let body := g.body
     (∀ w, d.inbox.find? (fun x => x.2 = msg) = some w → d.ready = true → g.kind = DomKind.proofP → zeroAt body 1 3 = false →
       exec (.proofP msg now) s = s.goesOn now ({ d with inbox := d.inbox.erase w }.dropMalformed w.1)) ∧
     (d.domTakes DomKind.hello msg → (m.sessions.all fun x => !(x.role ≠ .parent && x.node = g.srcNode && x.part = g.srcPart && x.peerNonce = bytesKey body)) = true →
       (∀ r, m.helloRefused g = some r → exec (.hello msg now) s = s.goesOn now ((d.took msg).refuseDom g r)) ∧
       (m.helloRefused g = none → m.st = .member → d.canDraw = true →
         ∃ e q, exec (.hello msg now) s = s.goesOn now e ∧ q ∈ (e.dom n).sessions ∧ q.role = (if bitOf g.flags 0 then .peer else .child) ∧
           q.stage = .proofPSent ∧ q.node = g.srcNode ∧ q.part = g.srcPart ∧ q.peerNonce = bytesKey body ∧
           q.ownNonce = Config.drbg d.larder.drbg.draws (label 0 0 (partForm (some n)) 0 0 0 0) ∧ q.sends = 1 ∧ q.lastSent = d.time ∧
           e.larder.drbg.draws = d.larder.drbg.draws + 1) ∧
       (m.helloRefused g = none → m.st = .joining →
         ∃ e q, exec (.hello msg now) s = s.goesOn now e ∧ (e.dom n).sessions = m.sessions ++ [q] ∧ q.stage = .helloHeld ∧
           q.peerNonce = bytesKey body)) ∧
     (∀ x row, d.domTakes DomKind.proofP msg → m.joining g = some x → m.joinRow = some row → x.stage = .helloSent →
       let k := leAt body 0 1
       let nonces := slice body 4 (32 * k)
       let rest := body.drop (36 + 32 * k)
       let c := rest.take (coreLength rest)
       let p := Proof.of (rest.drop (coreLength rest))
       body.length = 36 + 32 * k + coreLength rest + 736 + 2689 + 8384 → (m.st = .member → coreVerifier c = m.verifier) →
       ((List.range k).any fun i => slice nonces (32 * i) 32 = keyBytes x.ownNonce) = true → coreAccepted (tget m.tickets [] row) c = true →
       d.ticketAccepted n (tget m.tickets [] row) c = true → bitOf (entryFlags p.ep) 0 = true →
       (proofRefused c g.srcNode g.srcPart (batchNonce nonces) p = none →
         ∃ e q, exec (.proofP msg now) s = s.goesOn now e ∧ (e.dom n).joinCore = c ∧ q ∈ (e.dom n).sessions ∧ q.stage = .proofCSent ∧
           q.role = x.role ∧ q.id = g.id ∧ q.peerNonce = bytesKey (slice body (4 + 32 * k) 32) ∧ q.sends = 1 ∧ q.lastSent = d.time) ∧
       (∀ r, proofRefused c g.srcNode g.srcPart (batchNonce nonces) p = some r →
         exec (.proofP msg now) s = s.goesOn now ((d.took msg).endJoin n Status.denied))) ∧
     (∀ x key, d.domTakes DomKind.proofC msg → m.sess g (fun x => x.role ≠ .parent) = some x → d.domKey n = some key → x.stage = .proofPSent →
       let p := Proof.of body
       (∀ r, proofRefused m.core x.node x.part (keyBytes x.ownNonce) p = some r →
         exec (.proofC msg now) s = s.goesOn now (((d.took msg).refuseDom g r).onDom n fun m => m.dropSess x)) ∧
       (proofRefused m.core x.node x.part (keyBytes x.ownNonce) p = none → x.role = .child →
         recipientOk (slice p.rep 0x7A0 97) (slice p.rep 0x808 1568) = false →
         exec (.proofC msg now) s = s.goesOn now (((d.took msg).refuseDom g 0x08).onDom n fun m => m.dropSess x)) ∧
       (proofRefused m.core x.node x.part (keyBytes x.ownNonce) p = none → x.role = .child → d.canDraw = true →
         recipientOk (slice p.rep 0x7A0 97) (slice p.rep 0x808 1568) = true →
         ∃ e q, exec (.proofC msg now) s = s.goesOn now e ∧ q ∈ (e.dom n).sessions ∧ q.role = .child ∧ q.stage = .keySent ∧ q.id = x.id ∧
           q.importP = slice p.rep 0x7A0 97 ∧ q.importK = slice p.rep 0x808 1568 ∧ e.larder.drbg.draws = d.larder.drbg.draws + 1) ∧
       (proofRefused m.core x.node x.part (keyBytes x.ownNonce) p = none → x.role = .peer →
         ∃ e q, exec (.proofC msg now) s = s.goesOn now e ∧ q ∈ (e.dom n).sessions ∧ q.role = .peer ∧ q.stage = .confirmSent ∧ q.id = x.id ∧
           q.th = sha384 (x.transcript ++ g.head ++ body))) ∧
     (∀ x y row key, d.domTakes DomKind.key msg → m.sess g (fun x => x.role = .parent) = some x → x.stage = .proofCSent → m.joinRow = some row →
       m.st = .joining → m.heldHellos = [] → m.heldNew = [] → d.flight n row = some y → y.stage = .running →
       (d.slot (d.resSlot (8 + n))).retired = false →
       decapsulate (some n) (d.importPair n) (wrapLabel d.hall.node.toNat n) (slice body 4 1792) = some key →
       confirmation key (sha384 (x.transcript ++ g.head ++ slice body 0 1796)) 1 = body.drop 1796 →
       ∃ e, exec (.key msg now) s = s.goesOn now e ∧ (e.dom n).st = .member ∧ (e.dom n).epoch = leAt body 0 2 ∧ e.domKey n = some key ∧
         (e.dom n).parentNode = x.node ∧ (e.dom n).parentPart = x.part ∧ (e.dom n).core = m.joinCore ∧ (e.dom n).joinRow = none ∧
         e.stageOf n row = some (.finished Status.done)) ∧
     (∀ x y row, d.domTakes DomKind.key msg → m.sess g (fun x => x.role = .parent) = some x → x.stage = .proofCSent → m.joinRow = some row →
       m.heldHellos = [] → d.flight n row = some y → y.stage = .running →
       decapsulate (some n) (d.importPair n) (wrapLabel d.hall.node.toNat n) (slice body 4 1792) = none →
       ∃ e, exec (.key msg now) s = s.goesOn now e ∧ e.stageOf n row = some (.finished Status.unwrapFail) ∧ e.domKey n = d.domKey n) ∧
     (∀ x, d.domTakes DomKind.keyAck msg → m.sess g (fun x => x.role = .child && x.stage = .keySent) = some x → m.pending = none →
       let t : DSess := { x with stage := .keyed, commits := 0, reported := false }
       let held := (d.domKeys n).find? fun k => confirmation k.1 x.th 2 = body
       (∀ k, held = some k → m.epoch ≤ k.2 →
         ∃ e, exec (.keyAck msg now) s = s.goesOn now e ∧ t ∈ (e.dom n).sessions ∧
           (∀ q ∈ (e.dom n).sessions, q.role = .child → q.node = x.node → q.part = x.part → q.live = true → q = t) ∧
           { e with inbox := d.inbox, parts := d.parts } = d) ∧
       (∀ k key, held = some k → k.2 < m.epoch → d.canDraw = true → d.domKey n = some key →
         ∃ e q, exec (.keyAck msg now) s = s.goesOn now e ∧ q ∈ (e.dom n).sessions ∧ q.stage = .epochNewSent ∧ q.role = .child ∧
           q.node = x.node ∧ q.part = x.part ∧ q.id = x.id ∧ e.larder.drbg.draws = d.larder.drbg.draws + 1) ∧
       (held = none → exec (.keyAck msg now) s = s.goesOn now (d.took msg))) ∧
     (∀ x, d.domTakes DomKind.confirm msg → m.sess g (fun x => x.role = .peer && x.stage = .confirmSent) = some x →
       (((d.domKeys n).any fun k => confirmation k.1 x.th 2 = body) = true → exec (.confirm msg now) s =
         s.goesOn now ((d.took msg).onDom n fun m => m.setSess x { x with stage := .keyed, commits := 0, reported := false })) ∧
       (((d.domKeys n).any fun k => confirmation k.1 x.th 2 = body) = false → exec (.confirm msg now) s = s.goesOn now (d.took msg))) ∧
     (∀ x y row, m.joining g = some x → m.joinRow = some row → d.flight n row = some y → y.stage = .running →
       (d.domTakes DomKind.refuse msg →
         ∃ e, exec (.refuse msg now) s = s.goesOn now e ∧ e.stageOf n row = some (.finished Status.denied) ∧ (e.dom n).joinRow = none ∧
           (m.st = .joining → (e.dom n).st = .none) ∧ (m.st = .member → (e.dom n).st = .member)) ∧
       (d.domTakes DomKind.hold msg → x.stage = .helloSent → exec (.hold msg now) s =
         s.goesOn now ((d.took msg).onDom n fun m => m.setSess x { x with sends := 0, lastSent := d.time })))) ∧
  (∀ (s : State) (msg : Bytes) (now n : Nat),
     let d := s.at now
     let g := DMsg.of msg
     let m := d.dom n
     let body := g.body
     let committed (e : Dev) (slot pe : Nat) : Prop :=
       (e.dom n).epoch = pe ∧ (e.dom n).pending = none ∧ (e.dom n).old = m.old ++ [(slot, m.epoch, d.time)] ∧ (e.dom n).core = m.pendingCore ∧
         (e.dom n).st = m.st ∧ (e.part n).txFloor = 0 ∧ (e.part n).sumFloor = 0 ∧ (e.part n).multicast = 0
     (g.dstPart = n →
       (∀ x cur key, d.domTakes DomKind.epochNew msg → m.joinRow = none → m.leader = false → m.pending = none → d.canDraw = true →
         m.sess g (fun x => x.role = .parent && x.live) = some x → d.domKey n = some cur →
         let rest := body.drop 4
         let c := rest.take (coreLength rest)
         let signed := body.take (4 + coreLength rest + 1792)
         let ep := leAt body 0 2
         body.length = 4 + coreLength rest + 1792 + 48 → hmac (keyBytes cur) (g.head ++ signed) = body.drop signed.length →
         coreLayout c = true → coreVerifier c = m.verifier → coreSigned c = true → coreDomain c = m.id.toNat → coreFollows m.core c = true →
         m.epoch < 0xFFFE → ep = m.epoch + 1 → (coreRevoked c).contains d.hall.node.toNat = false →
         decapsulate (some n) (d.importPair n) (wrapLabel d.hall.node.toNat n) (slice rest (coreLength rest) 1792) = some key →
         d.keyUse n < d.limit n 0 → d.larder.pool.take.isSome = true →
         ∃ e slot, exec (.epochNew msg now) s = s.goesOn now e ∧ (e.dom n).pending = some (slot, ep) ∧ (e.dom n).pendingCore = c ∧
           (e.slot slot).key = key ∧ (e.dom n).epoch = m.epoch) ∧
       (d.domTakes DomKind.epochNew msg → m.joinRow.isSome = true → exec (.epochNew msg now) s =
         s.goesOn now ((d.took msg).onDom n fun m => { m with heldNew := m.heldNew ++ [g.head ++ body] })) ∧
       (∀ x slot pe, d.domTakes DomKind.epochReady msg → m.sess g (fun x => x.role = .child && x.live) = some x → m.pending = some (slot, pe) →
         x.stage = .epochNewSent → leAt body 0 2 = pe → hmac (keyBytes (d.slot slot).key) (g.head ++ slice body 0 6) = body.drop 6 →
         let heard := (d.took msg).onDom n fun m => m.setSess x { x with stage := .keyed, ready := some (leAt body 2 4) }
         ((∃ q ∈ m.sessions, q ≠ x ∧ q.role = .child ∧ q.stage = .epochNewSent) → exec (.epochReady msg now) s = s.goesOn now heard) ∧
         ((∀ q ∈ m.sessions, q.role = .child → q.stage = .epochNewSent → q = x) → m.leader = true →
           (d.slot (d.resSlot (8 + n))).retired = false →
           ∃ e, exec (.epochReady msg now) s = s.goesOn now e ∧ committed e slot pe)) ∧
       (∀ x slot pe, d.domTakes DomKind.epochCommit msg → m.sess g (fun x => x.role = .parent && x.live) = some x → m.pending = some (slot, pe) →
         leAt body 0 2 = pe → (d.slot (d.resSlot (8 + n))).retired = false →
         hmac (keyBytes (d.slot slot).key) (g.head ++ slice body 0 2) = body.drop 2 →
         ∃ e, exec (.epochCommit msg now) s = s.goesOn now e ∧ committed e slot pe) ∧
       (∀ x, d.domTakes DomKind.leave msg → m.sess g DSess.live = some x → m.pending = none →
         ((d.domKeys n).any fun k => hmac (keyBytes k.1) g.head = body) = true → exec (.leave msg now) s =
         s.goesOn now ((d.took msg).onDom n fun m => { m.dropSess x with orphan := m.orphan || x.role = .parent })) ∧
       (∀ x ans, d.domTakes DomKind.reportReq msg → m.sess g DSess.live = some x →
         d.answerKey n g.srcNode g.srcPart x.id.toNat x.commits x.th = some ans →
         ∃ e, exec (.reportReq msg now) s = s.goesOn now e ∧ { x with reported := true } ∈ (e.dom n).sessions ∧
           tget e.count.global 0 328 = (tget d.count.global 0 328 + 1) % 2 ^ 64 ∧ (e.dom n).epoch = m.epoch) ∧
       (d.domTakes DomKind.report msg → exec (.report msg now) s = s.goesOn now (d.took msg))) ∧
     (n < d.nparts → d.ready = true →
       (∀ i x, m.sessions[i]? = some x → x.waits = true → x.lastSent + d.chTimeout ≤ d.time →
         (x.sends < 4 → ∃ e, exec (.domainRetransmit n i now) s = s.goesOn now e ∧
           { x with lastSent := d.time, sends := x.sends + 1 } ∈ (e.dom n).sessions ∧ (e.dom n).st = m.st) ∧
         (4 ≤ x.sends → x.role ≠ .parent → m.pending = none →
           exec (.domainRetransmit n i now) s = s.goesOn now (d.onDom n fun m => m.dropSess x)) ∧
         (∀ row y, 4 ≤ x.sends → x.role = .parent → x.live = false → m.joinRow = some row → d.flight n row = some y → y.stage = .running →
           ∃ e, exec (.domainRetransmit n i now) s = s.goesOn now e ∧ e.stageOf n row = some (.finished Status.peerTimeout))) ∧
       (∀ i x, m.sessions[i]? = some x → d.time < x.lastSent + d.chTimeout → exec (.domainRetransmit n i now) s = s.goesOn now d) ∧
       (∀ slot ep t, m.old = [(slot, ep, t)] →
         (t + 1000000000 ≤ d.time → ∃ e, exec (.oldDomainKeyErase n now) s = s.goesOn now e ∧ (e.slot slot).key = 0 ∧
           e.dom n = { m with old := [] } ∧ ∀ j, j ≠ slot → e.slot j = d.slot j) ∧
         (d.time < t + 1000000000 → exec (.oldDomainKeyErase n now) s = s.goesOn now d))) ∧
     (∀ node part, d.ready = true → exec (.domainReassemblyTimeout node part now) s = s.left
       { d with assembling := d.assembling.filter fun r => !(r.srcNode = node && r.srcPart = part && decide (r.since + d.chTimeout ≤ d.time)) }))

/-- Channel sends (R171, R185, R187, R192, R324, R488): one that may go leaves as a DATA packet with the channel's next sequence and is answered DONE; with
no link it is held; a stale handle, a receive channel, a DOWN one, a frozen partition or a bad field refuses it, counted. A reserved
request type is refused, as every request is while no node id is set, and the one that meets a transmit failure.
Requests on squares (R222, R223, R226, R247, R252, R256, R488): a contributor's masked partial leaves at once where it gathers nothing, else opens an
accumulator, as the receiver's own does; a multicast store leaves enciphered under the square key with the partition's next sequence, or is
held without a link; a square read pends with its READ_REQ sent. -/
def Obligations.PortRequestsLeavePendOrAreRefused : Prop :=
  (∀ (s : State) (port now : Nat) (hdr : BitVec 256) (payload : Bytes),
     let d := s.at now
     let r := TxReq.of hdr
     let op := fld hdr.toNat 96 4
     let data := padTo (32 * r.cells) payload
     let refused (st : Byte) : Prop := ∃ e, exec (.channelSend port hdr payload now) s = s.goesOn now e ∧
       e.out = d.out ++ [.response port r.tag st] ∧ tget (e.part r.part).counts 0 15 = (tget (d.part r.part).counts 0 15 + 1) % 2 ^ 64 ∧
       { e with out := d.out, parts := d.parts } = d
     let said (st : Byte) : Dev := { d with out := d.out ++ [.response port r.tag st] }
     (port < Kind.ports d.kind → d.portOpen port = true → 5 ≤ r.type ∨ r.type = 0 →
       exec (.reservedRequestType port hdr payload now) s = s.goesOn now (said Status.badField)) ∧
     (port < Kind.ports d.kind → d.portOpen port = true → d.reqBad hdr = false → reqLength hdr payload = false →
       (d.hall.nodeValid = false → exec (.channelSend port hdr payload now) s = s.goesOn now (said Status.denied)) ∧
       (d.hall.nodeValid = true → (d.port port).txSpoiled = true → exec (.channelSend port hdr payload now) s =
         s.goesOn now ((said Status.hang).onPort port fun x => { x with txSpoiled := false }))) ∧
     (d.requestTaken port hdr payload 1 →
       (1 < op → refused Status.badField) ∧ (op ≤ 1 → r.offset % 32 ≠ 0 → refused Status.align) ∧
       (op ≤ 1 → r.offset % 32 = 0 → d.liveSlot r.part .channel r.handle = none → refused Status.staleHandle) ∧
       ∀ slot, op ≤ 1 → r.offset % 32 = 0 → d.liveSlot r.part .channel r.handle = some slot →
         let c := d.ch slot
         (c.st = .open_ → c.rx = true → refused Status.denied) ∧ (c.st = .down → c.rx = false → refused Status.channelDown) ∧
         (c.st = .open_ → c.rx = false → (d.part r.part).st = .frozen → refused Status.frozen) ∧
         (c.st = .open_ → c.rx = false → (d.part r.part).st ≠ .frozen → c.next + 1 < 2 ^ 62 → c.held = [] → c.marker = none →
           c.epochFull = false →
           (∀ key e', c.next < c.credited + 1024 → port ∈ d.routes c.peerNode →
             (touched r.offset data.length).length ≤ (c.grant + 65536 - c.touches % 65536) % 65536 →
             d.chanKey slot c.epoch (d.domBit c.thread) = some (key, e') →
             ∃ e, exec (.channelSend port hdr payload now) s = s.goesOn now e ∧ (e.ch slot).next = c.next + 1 ∧ (e.ch slot).held = [] ∧
               (e.ch slot).epochPkts = c.epochPkts + 1 ∧ (∀ j, j ≠ slot → e.ch j = d.ch j) ∧
               { e with out := d.out, parts := d.parts, chans := d.chans, count := d.count, ports := d.ports } = d ∧
               e.out = d.out ++ [.packet port (sealPacket key (chanIv c.id c.next) (chanHead 1 (d.domBit c.thread) (data.length / 32) op c.peerPart
                 c.peerNode c.thread d.hall.node.toNat c.id c.next c.epoch r.offset) data), .response port r.tag Status.done]) ∧
           (d.routes c.peerNode = [] → d.stalled port < 64 →
             ∃ e h, exec (.channelSend port hdr payload now) s = s.goesOn now e ∧ (e.ch slot).next = c.next + 1 ∧ (e.ch slot).held = [h] ∧
               h.seq = c.next ∧ h.tag = r.tag ∧ h.port = port ∧ h.offset = r.offset ∧ h.payload = data ∧ h.since = d.time ∧
               { e with chans := d.chans } = d ∧ ∀ j, j ≠ slot → e.ch j = d.ch j)))) ∧
  (∀ (s : State) (port now sq : Nat) (hdr : BitVec 256) (payload : Bytes),
     let d := s.at now
     let r := TxReq.of hdr
     let n := hdr.toNat
     let data := padTo (32 * r.cells) payload
     let live : Prop := d.liveSlot r.part .square r.handle = some sq ∧ (d.sq sq).st ≠ .gone
     (∀ c, d.requestTaken port hdr payload 2 → live →
       let q := SumReq.of hdr
       let pair := q.sumId * 65536 + q.ringId
       let at_ : MaskAt := { sumId := q.sumId, ringId := q.ringId, pktsM1 := q.pktsM1, pkt := q.pkt, offset := r.offset }
       let x := (words32 data).map fun w => (toField w).1
       let mask := at_.mask (expand (((d.sq sq).keyFor (d.domBit r.part)).getD (d.sq sq).key)) c.index c.n x
       d.ctxOf sq pair = some c → c.st = .open_ → c.status = 0 →
       (∀ st, d.sumRefusal r q c = some st → exec (.sumRequest port hdr payload now) s = s.goesOn now (d.refuseReq port r.tag r.part st)) ∧
       (d.sumRefusal r q c = none → c.acc q.pkt = none → d.accsOpen port < 64 →
         (c.index ≠ 0 → q.gather = 1 → port ∈ d.routes q.node →
           ∃ e, exec (.sumRequest port hdr payload now) s = s.goesOn now e ∧ (∀ k, e.ctxOf sq pair = some k → q.pkt ∈ k.sent) ∧
             e.out = d.out ++ [.response port r.tag Status.done, .packet port (sumBytes (d.domBit r.part) q.node q.part at_ 1 q.expect mask.1 mask.2)]) ∧
         (c.index ≠ 0 → 1 < q.gather →
           ∃ e k a, exec (.sumRequest port hdr payload now) s = s.goesOn now e ∧ e.ctxOf sq pair = some k ∧ q.pkt ∈ k.sent ∧ a ∈ k.accs ∧
             a.pkt = q.pkt ∧ a.count = 1 ∧ a.target = q.gather ∧ a.lanes = addVec [] mask.1 ∧ a.taus = addVec [] mask.2 ∧
             a.hop = some (q.node, q.part, q.expect) ∧ e.out = d.out ++ [.response port r.tag Status.done]) ∧
         (c.index = 0 → 1 < c.n → q.pkt ∉ c.committed → (c.failed.all fun f => f.1 ≠ q.pkt) = true →
           d.inOneRegion (d.sq sq).thread r.offset (4 * x.length) = true →
           ∃ e k a, exec (.sumRequest port hdr payload now) s = s.goesOn now e ∧ e.ctxOf sq pair = some k ∧ q.pkt ∈ k.sent ∧ a ∈ k.accs ∧
             a.pkt = q.pkt ∧ a.count = 1 ∧ a.target = c.n ∧ a.own = some mask ∧ e.out = d.out ++ [.response port r.tag Status.done]))) ∧
     (d.requestTaken port hdr payload 3 → live → r.offset % 32 = 0 → (d.part r.part).st ≠ .frozen → (d.part r.part).multicast < 2 ^ 64 →
       let group := fld n 96 14
       let seq := (d.part r.part).multicast
       (port ∈ d.routes group →
         ∃ e, exec (.multicastRequest port hdr payload now) s = s.goesOn now e ∧ (e.part r.part).multicast = seq + 1 ∧
           (∀ j, j ≠ r.part → e.part j = d.part j) ∧
           e.out = d.out ++ [.packet port (sealPacket (d.sq sq).key (mstoreIv d.hall.node.toNat seq) (headFirst 0x20 (d.sq sq).keyDom r.cells 0 r.part group ++
             natLe 4 (d.hall.node.toNat + r.part % 32 * 2 ^ 14) ++ natLe 4 (d.sq sq).id ++ natLe 8 seq ++ [0, 0] ++ natLe 6 r.offset) data),
             .response port r.tag Status.done]) ∧
       (d.routes group = [] →
         ∃ e, exec (.multicastRequest port hdr payload now) s = s.goesOn now e ∧ { e with parked := d.parked } = d ∧
           e.parked = d.parked ++ [{ port := port, hdr := hdr, payload := data, since := d.time, slot := some sq }])) ∧
     (d.requestTaken port hdr payload 4 → live →
       let q := ReadReq.of hdr
       (r.offset % 128 ≠ 0 → exec (.squareRead port hdr payload now) s = s.goesOn now (d.refuseReq port r.tag r.part Status.align)) ∧
       (r.offset % 128 = 0 → r.offset % 2048 / 128 + q.lines ≤ 16 → q.node ≠ d.hall.node.toNat → (d.part r.part).st ≠ .frozen →
         (d.sqReads.filter fun x => x.port = port).length < 256 →
         (d.sqReads.all fun x => !(x.port = port && x.square = sq && x.node = q.node && x.respPart = q.part && x.offset = r.offset
           && x.lines = q.lines)) = true →
         ∃ e x, exec (.squareRead port hdr payload now) s = s.goesOn now e ∧ x ∈ e.sqReads ∧ x.port = port ∧ x.tags = [(r.tag, d.time)] ∧
           x.part = r.part ∧ x.square = sq ∧ x.node = q.node ∧ x.respPart = q.part ∧ x.offset = r.offset ∧ x.lines = q.lines ∧
           (d.routes q.node = [] → x.sent = false ∧ e.out = d.out) ∧
           (port ∈ d.routes q.node → x.sent = true ∧ e.out = d.out ++ [.packet port (clearPacket (headFirst 0x21 false 1 0 q.part q.node ++
             natLe 4 (d.hall.node.toNat + r.part % 32 * 2 ^ 14) ++ natLe 4 (d.sq sq).id ++ natLe 6 r.offset ++ natLe 1 (q.lines - 1) ++
             List.replicate 9 0) (List.replicate 32 0))]))))

/-- Packets for a receive channel (R188 to R191, R193, R197, R198, R318, R319): one that verifies in order is accepted, advances the floor and goes to the line-merge
buffers or, a MARKER, awaits its acknowledgement; one above a gap waits, deciphered in a staging register or enciphered in Landing; one below the floor or seen before is a replay; a tag that fails is
counted; one for no channel is dropped. -/
def Obligations.ReceiveChannelsTakePacketsOnceInOrder : Prop :=
  ∀ (s : State) (port now slot : Nat) (bytes : Bytes) (c : Chan),
    let d := s.at now
    let t := d.tookIn port bytes
    let p := Pkt.of bytes
    let id := leAt p.head 12 4
    let seq := leAt p.head 16 8
    let offset := leAt p.head 26 6
    let line := offset / 128
    let cmd := if p.kind = 2 then Instr.marker port bytes now else Instr.data port bytes now
    d.packetTaken port bytes p.kind → p.kind = 1 ∨ p.kind = 2 → d.chanMalformed p = false →
    (d.findChan true p.dstPart p.srcNode p.srcPart id = none → exec cmd s = s.goesOn now (t.dropNoChannel port)) ∧
    (d.findChan true p.dstPart p.srcNode p.srcPart id = some (slot, c) → d.ch slot = c → c.st = .open_ → leAt p.head 24 2 = c.epoch →
      (seq < c.floor → c.latestMarker ≠ some seq → exec cmd s = s.goesOn now (t.dropReplay port)) ∧
      (c.floor + 1024 ≤ seq → exec cmd s = s.goesOn now (t.dropReplay port)) ∧
      (c.floor ≤ seq → seq < c.floor + 1024 → seq ∈ c.seen → exec cmd s = s.goesOn now (t.dropReplay port)) ∧
      (∀ key e', c.floor ≤ seq → seq < c.floor + 1024 → seq ∉ c.seen → d.chanKey slot c.epoch p.dom = some (key, e') →
        let opened := d.chanOpen slot c.epoch p.dom key (chanIv id seq) p.head p.payload p.tag
        (opened = none →
          ∃ e, exec cmd s = s.goesOn now e ∧ (e.ch slot).floor = c.floor ∧ (e.ch slot).seen = c.seen ∧ (e.ch slot).waiting = c.waiting ∧
            (e.port port).tagFails = sat 32 ((d.port port).tagFails + 1) ∧ e.merge = d.merge) ∧
        (∀ k plain, opened = some (k, plain) → (p.kind = 2 → zeroAt plain 8 24 = true) →
          (c.floor < seq → c.floor ∉ c.seen → (∀ x ∈ c.seen, c.floor ≤ x) → (∀ x ∈ c.waiting, c.floor ≤ x.seq) →
            ∃ e w, exec cmd s = s.goesOn now e ∧ (e.ch slot).floor = c.floor ∧ (e.ch slot).seen = c.seen ++ [seq] ∧
              (e.ch slot).waiting = c.waiting ++ [w] ∧ w.seq = seq ∧ w.offset = offset ∧ w.port = port ∧
              w.staged = d.stages port p.payload.length ∧ w.payload = (if w.staged then plain else p.payload) ∧
              w.key = (if w.staged then 0 else k) ∧
              (e.port port).rxPackets = sat 64 ((d.port port).rxPackets + 1) ∧ e.merge = d.merge) ∧
          (seq = c.floor → c.seen = [] → c.waiting = [] →
            (p.kind = 2 →
              ∃ e, exec cmd s = s.goesOn now e ∧ (e.ch slot).floor = c.floor + 1 ∧ (e.ch slot).seen = [] ∧ (e.ch slot).waiting = [] ∧
                (e.ch slot).markerDue = some (seq, c.epoch) ∧ (e.ch slot).latestMarker = some seq ∧ e.merge = d.merge) ∧
            (p.kind = 1 → ∀ region, d.regionAt c.thread line = some region →
              offset + plain.length ≤ (d.reg region).base + 2 ^ (d.reg region).log2 → 0 < plain.length → offset % 128 + plain.length ≤ 128 →
              (d.merge.find? fun m => m.line = line) = none →
              ∃ e m, exec cmd s = s.goesOn now e ∧ (e.ch slot).floor = c.floor + 1 ∧ (e.ch slot).seen = [] ∧ (e.ch slot).waiting = [] ∧
                m ∈ e.merge ∧ m.line = line ∧ m.region = region ∧ m.part = c.thread ∧ m.touches = [(slot, seq)] ∧
                m.words = mergeWords (p.up = 1) (List.replicate 32 (.none, 0)) (lineWords offset plain line))))))

/-- Acknowledgements and credit of a transmit channel, and synchronisation (R183, R184, R192, R198, R512, R513): MARK_ACK ends the marker of its
RFENCE, CREDIT raises what may be sent once per number; SYNC_REQ is answered with the next epoch or, where that cannot be, the channel goes
DOWN, a nonce answered before changes nothing; SYNC_ACK opens the receive channel at the floor and epoch it names or puts it DOWN; a domain fragment joins its message; a kind
that is not defined is malformed. -/
def Obligations.AcknowledgementsCreditsAndSync : Prop :=
  ∀ (s : State) (port now slot : Nat) (bytes : Bytes) (c : Chan),
    let d := s.at now
    let p := Pkt.of bytes
    let id := leAt p.head 12 4
    let seq := leAt p.head 16 8
    let pid := leAt p.payload 0 4
    let nonce := slice p.payload 32 32
    let g := DMsg.of p.payload
    let piece := (p.payload.drop 32).take (g.total - 32 - g.offset)
    (∀ key e' plain, d.chanMalformed p = false → d.findChan false p.dstPart p.srcNode p.srcPart id = some (slot, c) → d.ch slot = c →
      c.st = .open_ ∨ c.st = .closing → leAt p.head 24 2 = c.epoch → d.chanKey slot c.epoch p.dom = some (key, e') →
      (d.chanOpen slot c.epoch p.dom key (chanIv id seq) p.head p.payload p.tag).map (·.2) = some plain →
      (∀ k x, d.packetTaken port bytes 3 → zeroAt plain 8 24 = true → c.marker = some k → k.sent = true → seq = 2 ^ 63 + k.m →
        d.flight c.thread k.row = some x →
        ∃ e, exec (.markAck port bytes now) s = s.goesOn now e ∧ (e.ch slot).marker = none ∧
          (e.flight c.thread k.row).map (·.acked) = some (if k.thread = c.thread then x.acked + 1 else x.acked)) ∧
      (d.packetTaken port bytes 3 → zeroAt plain 8 24 = true → c.marker = none →
        ∃ e, exec (.markAck port bytes now) s = s.goesOn now e ∧ (e.port port).replays = sat 32 ((d.port port).replays + 1) ∧
          (e.ch slot).next = c.next) ∧
      (d.packetTaken port bytes 4 → zeroAt plain 10 22 = true → 2 ^ 63 + 2 ^ 62 ≤ seq →
        (∀ l, c.lastCredit = some l → l < seq - (2 ^ 63 + 2 ^ 62)) →
        ∃ e, exec (.credit port bytes now) s = s.goesOn now e ∧ (e.ch slot).credited = max c.credited (leAt plain 0 8) ∧
          (e.ch slot).grant = leAt plain 8 2 ∧ (e.ch slot).lastCredit = some (seq - (2 ^ 63 + 2 ^ 62)))) ∧
    (∀ key, d.ctrlTaken port bytes 2 → d.domKey p.dstPart = some key →
      d.findChan false p.dstPart p.srcNode p.srcPart pid = some (slot, c) → d.ch slot = c → c.st = .open_ →
      let first := (c.answered.all fun a => a.1 ≠ nonce) = true
      (¬ first → ∃ e, exec (.syncReq port bytes now) s = s.goesOn now e ∧ e.chans = d.chans) ∧
      (first → c.sendNext ≤ c.credited → c.epoch < 0xFFFE →
        ∃ e m, exec (.syncReq port bytes now) s = s.goesOn now e ∧ (e.ch slot).st = .open_ ∧ (e.ch slot).epoch = c.epoch + 1 ∧
          (e.ch slot).lastCredit = none ∧ (e.ch slot).answered = c.answered ++ [(nonce, m)]) ∧
      (first → c.credited < c.sendNext → ∃ e, exec (.syncReq port bytes now) s = s.goesOn now e ∧ (e.ch slot).st = .down ∧ (e.ch slot).cause = 5)) ∧
    (∀ k, d.ctrlTaken port bytes 3 → d.findChan true p.dstPart p.srcNode p.srcPart pid = some (slot, c) → d.ch slot = c → c.st = .syncing →
      nonce = keyBytes c.syncNonce → k ∈ d.domKeys c.thread → syncMac k.1 p.head p.payload = slice p.payload 64 48 →
      (leAt p.payload 4 1 ≤ 1 →
        ∃ e, exec (.syncAck port bytes now) s = s.goesOn now e ∧ (e.ch slot).st = .open_ ∧ (e.ch slot).floor = leAt p.payload 8 8 ∧
          (e.ch slot).epoch = leAt p.payload 6 2 ∧ (e.ch slot).seen = []) ∧
      (1 < leAt p.payload 4 1 →
        ∃ e, exec (.syncAck port bytes now) s = s.goesOn now e ∧ (e.ch slot).st = .down ∧ (e.ch slot).cause = 5)) ∧
    (d.ctrlTaken port bytes 1 → d.fragBad p = false →
      (d.assembling.all fun r => !(r.srcNode = g.srcNode && r.srcPart = g.srcPart && r.dstPart = g.dstPart && r.head = g.head)) = true →
      g.offset = 0 →
      (piece.length = g.total - 32 →
        ∃ e, exec (.ctrlDomainFragment port bytes now) s = s.goesOn now e ∧ e.inbox = d.inbox ++ [(port, g.head ++ piece)] ∧
          e.assembling = d.assembling) ∧
      (piece.length ≠ g.total - 32 →
        ∃ e r, exec (.ctrlDomainFragment port bytes now) s = s.goesOn now e ∧ e.inbox = d.inbox ∧ e.assembling = d.assembling ++ [r] ∧
          r.head = g.head ∧ r.got = [(0, piece)] ∧ r.since = d.time)) ∧
    (port < Kind.ports d.kind → d.portOpen port = true → kindDefined p.kind = false → d.landingRoom port p.payload.length = true →
      exec (.reservedKindPacket port bytes now) s = s.goesOn now ((d.tookIn port bytes).dropMalformed port))

/-- Packets on squares (R225 to R227, R248, R252 to R254, R256): a partial enters its accumulator, and a receiver's last one commits the ring's packet or fails
it by its tags; MSTORE is taken once through its sender's window; READ_REQ begins a response; READ_RSP whose tags all hold is delivered and
ends its read, one with a status ends it so. -/
def Obligations.SquarePacketsSumStoreAndRead : Prop :=
  ∀ (s : State) (port now sq : Nat) (bytes : Bytes),
    let d := s.at now
    let p := Pkt.of bytes
    let q := SumPkt.of p
    let pair := q.at_.sumId * 65536 + q.at_.ringId
    let id := leAt p.head 12 4
    let seq := leAt p.head 16 8
    let offset := leAt p.head 16 6
    let lines := leAt p.head 22 1 + 1
    (∀ c, d.packetTaken port bytes 0x10 → d.sumBad p = false → d.findCtx q.dstPart pair = some (sq, c) → d.ctxOf sq pair = some c → c.st = .open_ →
      c.status = 0 → c.index = 0 → q.expect = c.n → q.at_.pkt ∉ c.committed → (c.failed.all fun f => f.1 ≠ q.at_.pkt) = true → c.ended = false →
      d.inOneRegion (d.sq sq).thread q.at_.offset (4 * q.lanes.length) = true →
      (c.acc q.at_.pkt = none → d.accsOpen port < 64 → q.count < c.n →
        ∃ e k a, exec (.sum port bytes now) s = s.goesOn now e ∧ e.ctxOf sq pair = some k ∧ k.committed = c.committed ∧ a ∈ k.accs ∧
          a.pkt = q.at_.pkt ∧ a.port = port ∧ a.count = q.count ∧ a.lanes = addVec [] q.lanes ∧ a.taus = addVec [] q.taus ∧
          a.opened = d.time) ∧
      (∀ a own tau, c.acc q.at_.pkt = some a → a.own = some (own, tau) → a.count + q.count = c.n → a.offset = q.at_.offset →
        a.lanes.length = q.lanes.length →
        (addVec (addVec a.taus q.taus) tau = addVec a.tsum ((d.sq sq).partialHash q) →
          ∃ e k, exec (.sum port bytes now) s = s.goesOn now e ∧ e.ctxOf sq pair = some k ∧ k.committed = c.committed ++ [q.at_.pkt] ∧
            k.failed = c.failed ∧ k.acc q.at_.pkt = none) ∧
        (addVec (addVec a.taus q.taus) tau ≠ addVec a.tsum ((d.sq sq).partialHash q) →
          ∃ e k, exec (.sum port bytes now) s = s.goesOn now e ∧ e.ctxOf sq pair = some k ∧ k.committed = c.committed ∧
            k.failed = c.failed ++ [(q.at_.pkt, Status.tagFail)] ∧ k.acc q.at_.pkt = none ∧
            (e.port a.port).sumTagFails = sat 16 ((d.port a.port).sumTagFails + 1)))) ∧
    (∀ z key plain, d.packetTaken port bytes 0x20 → d.mstoreMalformed p = false → p.srcNode ≠ d.hall.node.toNat →
      d.liveSquare p.dstPart id = some (sq, z) → d.sq sq = z → z.keyFor p.dom = some key →
      gcmOpen key (mstoreIv p.srcNode seq) (authHead p.head) p.payload p.tag = some plain →
      (z.windows = [] →
        ∃ e w, exec (.mstore port bytes now) s = s.goesOn now e ∧ (e.sq sq).windows = [w] ∧ w.node = p.srcNode ∧ w.dom = p.dom ∧ w.seen = [seq] ∧
          w.floor = seq - 1023 ∧ (e.part z.thread).sqReceived = sat 32 ((d.part z.thread).sqReceived + 1)) ∧
      (∀ w, (z.windows.find? fun x => x.node = p.srcNode && x.dom = p.dom) = some w → seq < w.floor ∨ seq ∈ w.seen →
        exec (.mstore port bytes now) s = s.goesOn now ((d.tookIn port bytes).onPort port fun x => { x with sqReplay := sat 16 (x.sqReplay + 1) }))) ∧
    (∀ z, d.packetTaken port bytes 0x21 → d.readReqMalformed p = false → d.findSquare p.dstPart id = some (sq, z) → d.sqResps = [] →
      ∃ e r, exec (.readReq port bytes now) s = s.goesOn now e ∧ e.sqResps = [r] ∧ r.port = port ∧ r.square = sq ∧ r.part = p.dstPart ∧
        r.requesters = [(p.srcNode, p.srcPart)] ∧ r.offset = offset ∧ r.lines = lines ∧ r.waiting = false ∧
        (e.port port).rxPackets = sat 64 ((d.port port).rxPackets + 1) ∧
        (d.liveSquare p.dstPart id = none → r.status = Status.squareGone) ∧
        (∀ y, d.liveSquare p.dstPart id = some y → d.regionAt p.dstPart (offset / 128) = none → r.status = Status.regionFault)) ∧
    (∀ r tag since, d.packetTaken port bytes 0x22 → d.readRspMalformed p = false → r.tags = [(tag, since)] →
      (d.sqReads.find? fun r => r.part = p.dstPart && (d.sq r.square).id = id && r.node = p.srcNode && r.respPart = p.srcPart
        && r.offset = offset && r.lines = lines) = some r →
      (leAt p.head 23 1 ≠ 0 →
        ∃ e, exec (.readRsp port bytes now) s = s.goesOn now e ∧ e.sqReads = d.sqReads.filter (fun x => x ≠ r) ∧
          e.out = d.out ++ [.response r.port tag (BitVec.ofNat 8 (leAt p.head 23 1)), .delivery r.port tag (BitVec.ofNat 8 (leAt p.head 23 1)) []]) ∧
      (∀ key, leAt p.head 23 1 = 0 → (d.sq r.square).keyFor p.dom = some key →
        let cell (j : Nat) : Bytes := slice p.payload (32 * ((lines + 1) / 2) + 128 * j) 128
        let ver (j : Nat) : Nat := leAt p.payload (16 * j) 8
        (∀ j, j < lines → readTag (expand key) p.srcNode (offset / 128 + j) (ver j) (cell j) = slice p.payload (16 * j + 8) 8) →
        ∃ e, exec (.readRsp port bytes now) s = s.goesOn now e ∧ e.sqReads = d.sqReads.filter (fun x => x ≠ r) ∧
          e.out = d.out ++ [.response r.port tag Status.done, .delivery r.port tag Status.done ((List.range lines).map fun j =>
            (ver j, bytesLine (readCrypt (expand key) p.srcNode (offset / 128 + j) (ver j) (cell j))))]))

/-- Channels over time (R182, R183, R192, R196 to R200, R205, R513): a released marker whose data has drained is acknowledged; an unanswered SYNC_REQ or marker goes
again, then the channel goes DOWN with its cause, as it does when credit, a gap or a marker's answer stays out for the channel timeout (a CLOSING one gives its marker up);
a floor not reported for 1 us is; former epochs stop at the timeout. Before its time a timer changes nothing. -/
def Obligations.ChannelTimersRetryThenBringDown : Prop :=
  ∀ (s : State) (slot now : Nat), (s.at now).ready = true →
    let d := s.at now
    let c := d.ch slot
    let same (i : Instr) : Prop := exec i s = s.goesOn now d
    let down (i : Instr) (cause : Nat) : Prop := ∃ e, exec i s = s.goesOn now e ∧ (e.ch slot).st = .down ∧ (e.ch slot).cause = cause ∧
      (e.ch slot).held = [] ∧ (e.ch slot).marker = none ∧ (e.ch slot).keys = []
    let dom := d.domBit c.thread
    (∀ m epoch k e' p e'', c.markerDue = some (m, epoch) → c.rx = true → c.st = .open_ ∨ c.st = .closing → m < c.floor →
      d.markerDrained slot m = true → d.route c.peerNode none = some (p, e') → e'.chanKey slot epoch dom = some (k, e'') →
      ∃ e, exec (.markerAcknowledge slot now) s = s.goesOn now e ∧ (e.ch slot).markerDue = none ∧
        e.out = d.out ++ [.packet p (e.ch slot).markAck] ∧
        (e.ch slot).markAck = sealPacket k (chanIv c.id (2 ^ 63 + m)) (chanHead 3 dom 1 0 c.peerPart c.peerNode c.thread d.hall.node.toNat c.id
          (2 ^ 63 + m) epoch 0) (natLe 8 m ++ List.replicate 24 0)) ∧
    (c.markerDue = none ∨ (∃ m x, c.markerDue = some (m, x) ∧ d.markerDrained slot m = false) → same (.markerAcknowledge slot now)) ∧
    (c.st = .syncing → c.syncSent + d.chTimeout ≤ d.time →
      (c.syncSends < 4 → ∃ e, exec (.syncTimeout slot now) s = s.goesOn now e ∧ (e.ch slot).syncSends = c.syncSends + 1 ∧
        (e.ch slot).syncSent = d.time ∧ (e.ch slot).st = .syncing) ∧
      (4 ≤ c.syncSends → down (.syncTimeout slot now) 4)) ∧
    (c.st ≠ .syncing ∨ d.time < c.syncSent + d.chTimeout → same (.syncTimeout slot now)) ∧
    (∀ k, c.marker = some k →
      (∀ p e', k.sent = true → k.lastSent + d.chTimeout / 4 ≤ d.time → d.route c.peerNode none = some (p, e') →
        ∃ e, exec (.markerResend slot now) s = s.goesOn now e ∧ (e.ch slot).marker = some { k with lastSent := d.time } ∧
          e.out = d.out ++ [.packet p k.bytes]) ∧
      (k.sent = false ∨ d.time < k.lastSent + d.chTimeout / 4 → same (.markerResend slot now)) ∧
      (k.start + d.chTimeout < d.time → c.st ≠ .closing → down (.markerTimeout slot now) 1) ∧
      (k.start + d.chTimeout < d.time → c.st = .closing → ∃ e, exec (.markerTimeout slot now) s = s.goesOn now e ∧
        (e.ch slot).st = .closing ∧ (e.ch slot).marker = none ∧ (e.ch slot).held = c.held) ∧
      (d.time ≤ k.start + d.chTimeout → same (.markerTimeout slot now))) ∧
    (∀ h rest, c.held = h :: rest →
      (h.since + d.chTimeout < d.time → c.st ≠ .closing → down (.creditStallTimeout slot now) 2) ∧
      (h.since + d.chTimeout < d.time → c.st = .closing → ∃ e, exec (.creditStallTimeout slot now) s = s.goesOn now e ∧
        (e.ch slot).st = .closing ∧ (e.ch slot).marker = none ∧ (e.ch slot).held = []) ∧
      (d.time ≤ h.since + d.chTimeout → same (.creditStallTimeout slot now))) ∧
    (c.rx = true → c.st = .open_ → c.waiting ≠ [] → c.gapSince + d.chTimeout ≤ d.time → down (.gapTimeout slot now) 3) ∧
    (c.waiting = [] ∨ d.time < c.gapSince + d.chTimeout → same (.gapTimeout slot now)) ∧
    (∀ k e' p e'', c.rx = true → c.st = .open_ → c.creditFloor < c.floor → c.advancedAt + 1000 ≤ d.time →
      d.route c.peerNode none = some (p, e') → e'.chanKey slot c.epoch (d.domBit c.thread) = some (k, e'') →
      ∃ e pkt, exec (.creditTimer slot now) s = s.goesOn now e ∧ e.out = d.out ++ [.packet p pkt] ∧ (e.ch slot).creditFloor = c.floor ∧
        (e.ch slot).creditNum = c.creditNum + 1 ∧ (e.ch slot).creditGrant = d.grantNow c) ∧
    (c.floor ≤ c.creditFloor ∨ d.time < c.advancedAt + 1000 → same (.creditTimer slot now)) ∧
    (∃ e, exec (.keptEpochExpiry slot now) s = s.goesOn now e ∧
      (e.ch slot).former = c.former.filter (fun f => d.time < f.2 + d.chTimeout) ∧ (e.ch slot).epoch = c.epoch ∧ (e.ch slot).st = c.st ∧
      (∀ f ∈ c.former, f.2 + d.chTimeout ≤ d.time → ∀ k ∈ (e.ch slot).keys, k.epoch ≠ f.1 ∨ k.epoch = c.epoch))

/-- Ports and eviction (R43, R171, R185, R195, R427): the node id is written while no channel and no domain is live; a link that comes up lets what waits go, one that goes down asserts the
port's source, as a full Landing does; requests held for the channel timeout are refused with HANG; an evicted channel closes under a new handle
generation, counted, with its owner's notice. -/
def Obligations.PortsLinkHoldAndEvict : Prop :=
  ∀ (s : State) (r : Requester) (port slot now : Nat) (v : Word),
    let d := s.at now
    let late (p : Parked) : Bool := p.port = port && p.built.isNone && (TxReq.of p.hdr).type ≠ 4 && decide (p.since + d.chTimeout ≤ d.time)
    (d.managerMay r → port < Kind.ports d.kind → d.powered (d.portDomain port) = true →
      (d.nodeLocked = false → exec (.portNodeWrite r port v now) s = s.left { d with
        hall := { d.hall with node := BitVec.ofNat 14 v.toNat, nodeValid := v.getLsbD 15 }, out := d.out ++ [.regWrite false] }) ∧
      (d.nodeLocked = true → exec (.portNodeWrite r port v now) s = s.left { d with out := d.out ++ [.regWrite false] })) ∧
    ((∃ e ∈ d.chans, e.2.st ≠ .free) ∨ (∃ e ∈ d.parts, e.2.dom.st ≠ .none) → d.nodeLocked = true) ∧
    (port < Kind.ports d.kind →
      (∃ e, exec (.linkUp port now) s = s.goesOn now e ∧ (e.port port).up = true ∧
        (d.chans = [] → { e with ports := d.ports } = d ∧ ∀ j, j ≠ port → e.port j = d.port j)) ∧
      ((d.port port).up = true → ∃ e, exec (.linkDown port now) s = s.left e ∧ e.port port = { d.port port with up := false } ∧
        { e with ports := d.ports, intc := d.intc } = d ∧ tget e.intc.asserted 0 (96 + port) ≠ 0) ∧
      ((d.port port).up = false → exec (.linkDown port now) s = s.left d) ∧
      (d.portOpen port = true → ∃ e, exec (.landingFull port now) s = s.left e ∧ { e with intc := d.intc } = d ∧
        tget e.intc.asserted 0 (96 + port) ≠ 0) ∧
      (d.ready = true →
        (d.parked.filter late = [] → exec (.heldRequestTimeout port now) s = s.goesOn now d) ∧
        (∀ p, d.parked.filter late = [p] → ∃ e, exec (.heldRequestTimeout port now) s = s.goesOn now e ∧
          e.parked = d.parked.filter (fun p => !late p) ∧ e.out = d.out ++ [.response port (TxReq.of p.hdr).tag Status.hang]))) ∧
    (d.managerMay r → slot < 2 ^ 16 →
      let c := d.ch slot
      let h := (d.th c.thread).handle .channel c.index
      (c.st = .open_ ∨ c.st = .syncing →
        ∃ e, exec (.chEvict r slot now) s = s.goesOn now e ∧ (e.ch slot).st = .closing ∧ (e.ch slot).evicted = true ∧
          e.hall.evicted = sat 32 (d.hall.evicted + 1) ∧ (e.part c.thread).notice = (d.part c.thread).notice ||| 8#6 ∧
          ((e.th c.thread).handle .channel c.index).gen = nextGen h.gen ∧ ((e.th c.thread).handle .channel c.index).st = .closing) ∧
      (c.st = .free ∨ c.st = .closing → exec (.chEvict r slot now) s = s.goesOn now { d with out := d.out ++ [.regWrite false] }))

/-- Sums and square reads over time (R216, R225, R227, R229, R235, R256): a gathering accumulator that waits a channel timeout is discarded and counted, a receiver's
or a whole ring's fails SUM_INCOMPLETE; an ended ring posts its event with its cookie and status and frees; SUM_RELEASE frees the selected
context; a square read ends PEER_TIMEOUT; a line-merge entry drains at its window's close or its channel's marker, counted, or once its page is
free. What comes in the cc of a timer stands (R205, R234, R262). -/
def Obligations.SumsReadsAndMergesEndInTime : Prop :=
  ∀ (s : State) (r : Requester) (sq pair pkt port line n now : Nat),
    let d := s.at now
    let t := (d.sq sq).thread
    let drained (i : Instr) (x : MEntry) (count : Port → Nat) : Prop :=
      ∃ e y, exec i s = s.goesOn now e ∧ e.merge = d.merge.filter (fun m => m.line ≠ x.line) ∧
      count (e.port x.port) = (if x.due then count (d.port x.port) else sat 16 (count (d.port x.port) + 1)) ∧
      y ∈ (e.eng (d.engineOf x.line)).ops ∧ y.addr = x.line ∧ y.origin = .drain x.port ∧ y.act = .merge x.words x.guarded ∧ y.part = x.part
    let writable (x : MEntry) : Prop := d.pageHeld x.line = false ∧ d.readOnly x.region = false ∧ d.seqOnly x.region x.line = false ∧
      d.regionLc = true ∧ x.touches = [] ∧ d.engineOf x.line < Kind.engines d.kind
    (∀ c a, d.ready = true → d.ctxOf sq pair = some c → c.acc pkt = some a →
      (c.index ≠ 0 → a.opened + d.chTimeout < d.time →
        ∃ e, exec (.gatherTimeout sq pair pkt now) s = s.goesOn now e ∧ (∀ k, e.ctxOf sq pair = some k → k.acc pkt = none) ∧
          (e.port a.port).sumInner = sat 16 ((d.port a.port).sumInner + 1) ∧ { e with ports := d.ports, squares := d.squares } = d) ∧
      (c.index = 0 → exec (.gatherTimeout sq pair pkt now) s = s.goesOn now d) ∧
      (c.index = 0 → a.opened + d.chTimeout < d.time →
        ∃ e k, exec (.accumulatorTimeout sq pair pkt now) s = s.goesOn now e ∧ e.ctxOf sq pair = some k ∧ k.acc pkt = none ∧
          k.failed = c.failed ++ [(pkt, Status.sumIncomplete)] ∧
          (e.port a.port).sumIncomplete = sat 16 ((d.port a.port).sumIncomplete + 1)) ∧
      (d.time ≤ a.opened + d.chTimeout → exec (.accumulatorTimeout sq pair pkt now) s = s.goesOn now d ∧
        exec (.gatherTimeout sq pair pkt now) s = s.goesOn now d)) ∧
    (∀ c m, d.ready = true → d.ctxOf sq pair = some c → c.index = 0 → c.st = .open_ →
      (c.pkts = some m → c.firstAt.isSome = true → c.lastAt + d.chTimeout < d.time → c.committed = [] → c.failed = [] → c.accs = [] → 0 < m →
        ∃ e k, exec (.ringTimeout sq pair now) s = s.goesOn now e ∧ e.ctxOf sq pair = some k ∧
          k.failed = (List.range m).map (fun i => (i, Status.sumIncomplete)) ∧ k.ended = true) ∧
      (d.time ≤ c.lastAt + d.chTimeout → exec (.ringTimeout sq pair now) s = s.goesOn now d) ∧
      (c.ended = true → (d.th t).fifo.length < 64 →
        ∃ e, exec (.sumEvent sq pair now) s = s.goesOn now e ∧ (e.th t).cookie = (d.th t).cookie ∧
          (e.th t).fifo = (d.th t).fifo ++ [eventBits t c.row 0xB5 c.outcome (BitVec.ofNat 32 (c.sumId % 65536 * 65536 + c.ringId)) d.time] ∧
          (statusOk c.outcome = true → e.ctxOf sq pair = none) ∧
          (statusOk c.outcome = false → ∃ k, e.ctxOf sq pair = some k ∧ k.st = .failed ∧ k.status = c.outcome ∧ k.accs = [])) ∧
      (c.ended = false → exec (.sumEvent sq pair now) s = s.goesOn now d)) ∧
    (∀ c, d.ownerMay r n → n < d.nparts → d.findCtx n (d.part n).sumPair = some (sq, c) →
      ∃ e, exec (.sumRelease r n now) s = s.goesOn now e ∧ e.ctxOf sq c.pair = none ∧ (∀ j, j ≠ sq → e.sq j = d.sq j) ∧
        { e with squares := d.squares, out := d.out } = d) ∧
    (∀ x tag since, d.ready = true → port < Kind.ports d.kind → x.tags = [(tag, since)] → since + d.chTimeout < d.time →
      (d.sqReads.find? fun y => y.port = port && y.tags.any fun z => z.1 = tag && decide (z.2 + d.chTimeout < d.time)) = some x →
      ∃ e, exec (.squareReadTimeout port tag now) s = s.goesOn now e ∧ e.sqReads = d.sqReads.filter (fun y => y ≠ x) ∧
        (e.port port).readTimeouts = sat 16 ((d.port port).readTimeouts + 1) ∧
        e.out = d.out ++ [.response x.port tag Status.peerTimeout, .delivery x.port tag Status.peerTimeout []]) ∧
    (∀ x, d.ready = true → (d.merge.find? fun m => m.line = line) = some x →
      (x.opened + d.hall.mergeWindow ≤ d.time → writable x → drained (.mergeWindowClose line now) x (·.windowDrains)) ∧
      (x.opened + d.hall.mergeWindow ≤ d.time → d.pageHeld line = true → ∃ e, exec (.mergeWindowClose line now) s = s.goesOn now e ∧
        e.merge = d.merge.map fun m => if m.line = line then { m with due := true } else m) ∧
      (d.time < x.opened + d.hall.mergeWindow → exec (.mergeWindowClose line now) s = s.goesOn now d)) ∧
    (∀ x, d.ready = true → port < Kind.ports d.kind →
      (d.merge.filter fun m => m.port = port && !m.overflow && m.chans.any (d.port port).markerReleased.contains) = [x] → writable x →
      drained (.markerFlush port now) x (·.markerDrains))

/-- An access on a network stream (R282, R492): an engine that is off takes none; a malformed request is BAD_FIELD, an unaligned line ALIGN, one that
admission refuses REGION_FAULT, each answered with zeros and counted, nothing queued; an admitted one is queued at its line's engine. A write to a
locked page is held and counted, and has no effect while the engine's hold queue of 64 is full, but for the back-pressure counted (R334). A read
of a line of a page of which nothing was ever stored is answered DONE with zeros in the same step (R277, R284). -/
def Obligations.StreamAccessesQueueReadOrAreRefused : Prop :=
  ∀ (s : State) (m stream now : Nat) (hdr : BitVec 256) (payload : Bytes) (write : Bool) (i : Instr),
    i = (if write then .memoryWrite m stream hdr payload now else .memoryRead m stream hdr now) → m < Kind.engines s.dev.kind →
    let d := s.at now
    let h := AccHead.of hdr
    let a := h.addr / 128
    let ms : AccMaster := if h.master = 0 then .core else if h.master = 1 then .dma else .dbg
    let formed : Prop := h.master ≠ 3 ∧ h.op = (if write then 2 else 1) ∧ h.rsv = false ∧ h.granules ≠ 0
    let refused (st : Byte) : Prop := ∃ e, exec i s = s.goesOn now e ∧ e.out = d.out ++ [.memory m h.tag st 0] ∧
      { e with out := d.out, parts := d.parts, threads := d.threads, intc := d.intc } = d
    (d.engOpen m = false → exec i s = s.left d) ∧
    (d.engOpen m = true →
      (¬ formed → refused Status.badField) ∧
      (formed → h.addr % 128 ≠ 0 → refused Status.align) ∧
      (formed → h.addr % 128 = 0 →
        (∀ owner, d.admission ms h.tagged h.part a write = .error owner → refused Status.regionFault) ∧
        (∀ r cipher, d.admission ms h.tagged h.part a write = .ok (r, cipher) →
          (d.engineOf a ≠ m → refused Status.regionFault) ∧
          let op : MemOp :=
            { id := d.opSeq, origin := .stream h.tag h.granules,
              act := if write then .write (bytesLine payload) (accMask h) else .read cipher, addr := a,
              part := if h.master = 2 then (d.reg r).thread else if h.tagged then h.part else d.mgr, region := r,
              spent := (d.reg (d.keyReg r)).spentEpochs }
          let queued := { (d.onEng m fun e => { e with ops := e.ops ++ [op] }) with opSeq := d.opSeq + 1 }
          let locked := (d.eng m).lockedAt a
          (d.engineOf a = m → write = false ∨ locked = false → exec i s = s.goesOn now queued) ∧
          (d.engineOf a = m → write = true → locked = true → (d.eng m).heldCount < holdQueue →
            exec i s = s.goesOn now { queued with thresh := { d.thresh with heldWrites := sat 32 (d.thresh.heldWrites + 1) } }) ∧
          (d.engineOf a = m → write = true → locked = true → holdQueue ≤ (d.eng m).heldCount →
            exec i s = s.goesOn now { d with thresh := { d.thresh with pressure := sat 16 (d.thresh.pressure + 1) } }) ∧
          (d.engineOf a = m → write = false → cipher = false → d.quiet = true → (∀ x ∈ d.engines, x.2.ops = [] ∧ x.2.slots = [] ∧ x.2.slotWaits = []) →
            (d.eng m).untouched (d.localPage a) = true → (d.eng m).faults = [] → (d.eng m).spoiled = false →
            (∀ c, d.coverAt (d.pageLine m (d.localPage a)) = some c → (d.reg c).importing = false) →
            ∃ e, exec i s = s.left e ∧ e.out = d.out ++ [.memory m h.tag Status.done 0] ∧ (∀ k, e.eng k = d.eng k) ∧
              { e with out := d.out, parts := d.parts, count := d.count, engines := d.engines, opSeq := d.opSeq } = d))))

/-- A stack line that comes for a tag goes to every operation that awaits it, its single symbol errors corrected and counted (R270, R491), a
tag no read has is discarded; a Landing slot that frees goes to the first waiting read (R314, R315); at a boundary of 16 us the Pantry's split moves
one way from a class that saved least per way to one that missed most, unless it is held, and the measures start at zero (R281); a dirty entry is written ahead while tokens allow (R480). -/
def Obligations.EnginesTakeLinesSlotsAndWays : Prop :=
  ∀ (s : State) (m now : Nat) (tag : BitVec 12) (line check : Bytes) (status : BitVec 4) (ties : Nat × Nat), m < Kind.engines s.dev.kind →
    let d := s.at now
    let g := d.eng m
    (d.ready = true →
      ((g.reads.find? fun r => r.tag = tag) = none → exec (.stackReadResponse m tag line check status now) s = s.left d) ∧
      (∀ r, (g.reads.find? fun r => r.tag = tag) = some r → g.readQueue = [] →
        let (v, fixed, bads) := if status = 0 then lineDecode line check else (bytesLine line, 0, [0, 1, 2, 3])
        ∃ e, exec (.stackReadResponse m tag line check status now) s = s.goesOn now e ∧ (e.eng m).reads = g.reads.filter (fun x => x.tag ≠ tag) ∧
          (e.eng m).corrected = sat 32 (g.corrected + fixed) ∧ e.out = d.out ∧
          ∀ k, (e.eng k).ops = (d.eng k).ops.map fun op => op.deliver (gkey m r.line) v bads) ∧
      (d.nextWaiting m = none → exec (.landingSlotGrant m now) s = s.left d) ∧
      (∀ w, d.nextWaiting m = some w → (g.slotWaits.filter fun x => x.seg = w.seg) = [w] →
        ∃ e, exec (.landingSlotGrant m now) s = s.goesOn now e ∧
          (e.eng m).slots = g.slots ++ [{ seg := w.seg, part := w.part, users := [w.op] }] ∧
          (e.eng m).slotWaits = g.slotWaits.filter (fun x => x.op ≠ w.op) ∧
          (∀ k, (e.eng k).ops = (d.eng k).ops.map fun op => if op.id = w.op then { op with waiting := false } else op) ∧
          tget e.count.global 0 (176 + m) = (tget d.count.global 0 (176 + m) + 1) % 2 ^ 64 ∧
          { e with engines := d.engines, count := d.count } = d)) ∧
    (d.engOpen m = true →
      (d.time / 16000 ≤ g.interval → exec (.pantrySplitAdjust m ties now) s = s.left d) ∧
      (g.interval < d.time / 16000 → g.hold = true →
        exec (.pantrySplitAdjust m ties now) s = s.left (d.onEng m fun e => { e with stats := {}, interval := d.time / 16000 })) ∧
      (g.interval < d.time / 16000 → g.hold = false →
        let i := leastOf ties.1 g.savedPerWay
        let j := mostOf ties.2 g.stats.missed
        let (a, lo, _) := g.classWays i
        let (b, _, hi) := g.classWays j
        (∀ k, k < 3 → pick g.savedPerWay i ≤ pick g.savedPerWay k ∧ pick g.stats.missed k ≤ pick g.stats.missed j) ∧
        ∃ e, exec (.pantrySplitAdjust m ties now) s = s.left e ∧ { e with engines := d.engines } = d ∧
          (e.eng m).stats = {} ∧ (e.eng m).interval = d.time / 16000 ∧
          (e.eng m).dirtyMax = BitVec.ofNat 5 (ceiling g.dirtyMax.toNat g.stats) ∧
          (i ≠ j ∧ lo < a ∧ b < hi → ((e.eng m).classWays i).1 = a - 1 ∧ ((e.eng m).classWays j).1 = b + 1 ∧
            ∀ k, k < 3 → k ≠ i → k ≠ j → (e.eng m).classWays k = g.classWays k) ∧
          (¬ (i ≠ j ∧ lo < a ∧ b < hi) → ∀ k, (e.eng m).classWays k = g.classWays k)) ∧
      (g.pantry.filter PEntry.dirty = [] → exec (.pantryWriteAhead m now) s = s.left d) ∧
      (∀ x, g.pantry.filter PEntry.dirty = [x] → x.cls = .tagLine → d.power.unlimited = false →
        (d.power.tokens < d.aheadCost → exec (.pantryWriteAhead m now) s = s.left d) ∧
        (d.aheadCost ≤ d.power.tokens →
          ∃ e, exec (.pantryWriteAhead m now) s = s.goesOn now e ∧
            e.out = d.out ++ [.stackWrite m x.line x.value (BitVec.ofNat 128 (leAt (lineCheck x.value) 0 16))] ∧
            (e.eng m).pantry = g.pantry.map (fun z => if z.line = x.line then { z with dirty := false } else z) ∧
            e.power.tokens = d.power.tokens - d.aheadCost)))

/-- Registers of memory: the split of a held Pantry takes classes within their bounds that fill the ways in service (R281, R300); valid of a
capture is released by writing it 1 (R301, R328); a base's share mask keeps the partitions that map it (R292, R302); region rights are only
lowered (R293, R303); the paging table changes while no page is out (R343, R344). -/
def Obligations.MemoryRegistersAreGuarded : Prop :=
  ∀ (s : State) (r : Requester) (m n now : Nat) (v : Word),
    let d := s.at now
    let done (e : Dev) := s.left { e with out := d.out ++ [.regWrite false] }
    let slot := d.hall.regionSelect
    let g := d.reg slot
    let x := v.toNat
    let l1 := x % 32
    let leaf := x / 2 ^ 8 % 32
    let tag := x / 2 ^ 16 % 32
    let dirty := x / 2 ^ 24 % 32
    (d.managerMay r →
      (m < Kind.engines s.dev.kind → d.powered (d.engDomain m) = true →
        let fits : Prop := (d.eng m).hold = true ∧ l1 + leaf + tag = (d.eng m).workingWays.toNat ∧ 2 ≤ l1 ∧ l1 ≤ 8 ∧ 4 ≤ leaf ∧ leaf ≤ 20 ∧
          4 ≤ tag ∧ tag ≤ 20 ∧ 2 ≤ dirty ∧ dirty ≤ 16
        (fits → exec (.pantrySplitWrite r m v now) s = done (d.onEng m fun e =>
          { e with l1Ways := BitVec.ofNat 5 l1, leafWays := BitVec.ofNat 5 leaf, tagWays := BitVec.ofNat 5 tag, dirtyMax := BitVec.ofNat 5 dirty })) ∧
        (¬ fits → ∃ e, exec (.pantrySplitWrite r m v now) s = done e ∧ { e with engines := d.engines } = d ∧ e.eng m = d.eng m) ∧
        exec (.errInfoRelease r m now) s = done (d.onEng m fun e => { e with errInfo := e.errInfo &&& 0x7FFFFFFFFFFFFFFF }) ∧
        exec (.segErrRelease r m now) s = done (d.onEng m fun e => { e with segErr := e.segErr &&& 0x7FFFFFFFFFFFFFFF })) ∧
      (let held : Prop := ∃ k, k < d.nparts ∧ g.share.getLsbD k = true ∧ v.getLsbD k = false ∧ d.mapsBase k g = true
       (g.st = .live → g.kind = 1 → g.loadLocked = false → ¬ held → exec (.regionShareWrite r v now) s =
         done (d.setReg slot { g with share := BitVec.ofNat 32 (x % 2 ^ d.nparts) })) ∧
       (g.st ≠ .live ∨ g.kind ≠ 1 ∨ g.loadLocked = true ∨ held → exec (.regionShareWrite r v now) s = done d)) ∧
      (let dma := BitVec.ofNat 2 x
       let dbg := BitVec.ofNat 2 (x / 4)
       (g.st ≠ .free → dma ≤ g.dma → dbg ≤ g.dbg → exec (.regionRightsWrite r v now) s = done (d.setReg slot { g with dma := dma, dbg := dbg })) ∧
       (g.st = .free ∨ g.dma < dma ∨ g.dbg < dbg → exec (.regionRightsWrite r v now) s = done d))) ∧
    (d.ownerMay r n →
      ((d.th n).pageOut = 0 → exec (.pageTableWrite r n v now) s = done (d.onTh n fun t => { t with pageTable := BitVec.ofNat 16 x })) ∧
      ((d.th n).pageOut ≠ 0 → exec (.pageTableWrite r n v now) s = done d))

/-- Jobs: a re-key's next page is queued for conversion, an export's for its record, for its tokens (R333, R335, R339, R480); a re-key that has
passed all pages ends with the region under its new key and its event posted (R335); a Sweep writes a chunk's 65 counter lines fresh (R351); a
job silent for 3 ms, but for one that waits for tokens, is restarted once and recorded, a second time it is block-critical, as a missed heartbeat is (R446, R447). -/
def Obligations.JobsPassPagesChunksAndEnd : Prop :=
  ∀ (s : State) (m i now : Nat),
    let d := s.at now
    let j := d.job i
    let r := d.reg j.target
    let step (ex : Bool) : Instr := if ex then .exportPage m i now else .pageConversion m i now
    let ended (e : Dev) (st : Byte) (code : Byte) : Prop := e.job i = {} ∧
      (j.silent = false → (e.th j.thread).jobEnds = (d.th j.thread).jobEnds ++
        [{ row := j.row, opcode := code ||| 0x80, status := st, cookie := some j.cookie, job := true }])
    (m < Kind.engines s.dev.kind → d.ready = true → d.powered (d.engDomain m) = true →
      (∀ ex, j.kind = .rekey → j.st = .queued ∨ j.st = .running → j.export_ = ex → (d.rekeyNext i m).1 < (d.rekeyNext i m).2 →
        d.converting m = false → d.power.unlimited = false →
        (d.pageCost ≤ d.power.tokens →
          ∃ e, exec (step ex) s = s.goesOn now e ∧ (e.job i).st = .running ∧ e.power.tokens = d.power.tokens - d.pageCost ∧
            (e.eng m).ops = (d.eng m).ops ++
              [{ origin := .job i, act := if ex then .exportPage else .convert none, addr := d.pageLine m (d.rekeyNext i m).1,
                 part := r.thread, region := j.target, id := d.opSeq, spent := (d.reg (d.keyReg j.target)).spentEpochs }] ∧
            e.opSeq = d.opSeq + 1) ∧
        (d.power.tokens < d.pageCost → j.urgent = false → exec (step ex) s = s.goesOn now d)) ∧
      (∀ ex, (d.rekeyNext i m).2 ≤ (d.rekeyNext i m).1 ∨ d.converting m = true ∨ j.kind = .sweep ∨ j.export_ ≠ ex →
        exec (step ex) s = s.goesOn now d) ∧
      (∀ k, j.kind = .sweep → j.st = .queued ∨ j.st = .running → d.sweepNext i m = some k → d.power.unlimited = false →
        (d.chunkCost ≤ d.power.tokens →
          ∃ e, exec (.sweepChunk m i now) s = s.goesOn now e ∧ e.power.tokens = d.power.tokens - d.chunkCost ∧
            e.out = d.out ++ (l1Line k :: (List.range 64).map fun c => leafLine (64 * k + c)).map (fun l =>
              .stackWrite m l (freshNode 0) (BitVec.ofNat 128 (leAt (lineCheck (freshNode 0)) 0 16))) ∧
            (e.sweepRegions j.target ≠ [] → (e.job i).st = .running ∧ (e.job i).passed = j.passed + 1 ∧ tget (e.job i).boundary 0 m = k + 1) ∧
            (e.sweepRegions j.target = [] → ended e Status.done 0x25)) ∧
        (d.power.tokens < d.chunkCost → j.urgent = false → exec (.sweepChunk m i now) s = s.goesOn now d))) ∧
    (d.ready = true →
      (j.st = .ending → j.kind = .rekey → d.exportWrites i = false → d.jobOps i = false → j.status ≠ Status.pagedOut → r.exportKey = none →
        ∃ e, exec (.rekeyEnd i now) s = s.goesOn now e ∧ ended e j.status 0x24 ∧ (e.slot r.keySlot).key = 0 ∧
          e.reg j.target = { r with
            keySlot := r.newSlot.getD r.keySlot, loaded := r.loadedNew, newSlot := none, loadedNew := 0, epoch := r.epoch + 1, oldWrites := 0,
            importing := false, exportLocked := j.export_, exportKey := if j.export_ then some j.exportKey else none,
            exSlot := if j.export_ then r.newSlot.getD r.keySlot else 0, exLoaded := if j.export_ then r.loadedNew else 0,
            exportedPages := if j.export_ then r.exportedPages else 0 } ∧
          ∀ k, k ≠ j.target → e.reg k = d.reg k) ∧
      (j.st = .ending → j.kind = .rekey → d.exportWrites i = false → d.jobOps i = false → j.status = Status.pagedOut →
        ∃ e, exec (.rekeyEnd i now) s = s.goesOn now e ∧ ended e j.status 0x24 ∧ e.larder = d.larder ∧
          e.reg j.target = { r with
            newSlot := none, loadedNew := 0, exportKey := some j.exportKey, exSlot := r.newSlot.getD 0, exLoaded := r.loadedNew,
            writes := r.oldWrites, oldWrites := 0 } ∧
          ∀ k, k ≠ j.target → e.reg k = d.reg k) ∧
      (j.st ≠ .ending ∨ j.kind ≠ .rekey ∨ d.exportWrites i = true ∨ d.jobOps i = true → exec (.rekeyEnd i now) s = s.goesOn now d) ∧
      (i ≠ 64 → j.st = .free ∨ d.time < j.lastReport + 3000000 ∨ d.starved i = true → exec (.jobStall i now) s = s.goesOn now d) ∧
      (i ≠ 64 → j.st ≠ .free → j.lastReport + 3000000 ≤ d.time → d.starved i = false →
        (j.stalled = false → j.kind = .rekey →
          ∃ e, exec (.jobStall i now) s = s.goesOn now e ∧ (e.job i).stalled = true ∧ (e.job i).silent = true ∧ (e.job i).firmware = true ∧ (e.job i).thread = 0xFF ∧
            (e.job i).st = j.st ∧ (e.job i).boundary = j.boundary ∧ (e.job i).lastReport = d.time ∧
            e.cellar.head = (d.cellar.head + 1) % 2 ^ 32 ∧ e.reset = d.reset ∧
            (j.silent = false → (e.th j.thread).jobEnds = (d.th j.thread).jobEnds ++
              [{ row := j.row, opcode := 0xA4, status := Status.hang, cookie := some j.cookie, job := true }])) ∧
        (j.stalled = true →
          ∃ e, exec (.jobStall i now) s = s.goesOn now e ∧ e.reset.frozen = true ∧ e.reset.cause = 1 ∧ e.reset.request = some 3))) ∧
    (∀ island : Byte, d.reset.status ≠ 2 →
      (∀ dom, islandDomain d.kind island.toNat = some dom → d.powered dom = true →
        ∃ e, exec (.heartbeatMiss island now) s = s.left e ∧ e.reset.frozen = true ∧ e.reset.cause = 1 ∧ e.reset.request = some 3 ∧
          e.cellar.head = (d.cellar.head + 1) % 2 ^ 32) ∧
      ((∀ dom, islandDomain d.kind island.toNat = some dom → d.powered dom = false) → exec (.heartbeatMiss island now) s = s.left d))

/-- The host path's inbound side (R344, R347, R348, R411, R493): data of a read goes to the operation that waits for it, its bytes are counted; a completed
write ends its ATTEST, counts an Attic block, lets a PAGEOUT go on; a translation lets the request that waited be issued, a failed one
fails reads and leaves writes waiting; INVAL stops new uses, its completion is sent once no use is under way, at once while the block does not
serve (R507). A DOE abort takes the answers that still wait at its mailbox: for the DRBG, and at the physical function that of an IDE_KM request. -/
def Obligations.HostPathAnswersServeRequests : Prop :=
  ∀ (s : State) (tag page now : Nat) (payload : Bytes) (r : HostReq),
    let d := s.at now
    let counted (e : Dev) : Prop := tget e.count.global 0 (if r.write then 324 else 325) =
        (tget d.count.global 0 (if r.write then 324 else 325) + r.length) % 2 ^ 64 ∧
      (∀ n, n < d.nparts → r.inst = n + 1 → (∀ t w, r.use ≠ .policy t w) → tget (e.part n).counts 0 5 = (tget (d.part n).counts 0 5 + r.length) % 2 ^ 64)
    let gone (e : Dev) : Prop := e.host.reqs = d.host.reqs.filter fun x => x.tag ≠ tag
    let woken (t w : Nat) (f : MemOp → MemOp) (e : Dev) : Prop := ∀ k, k < Kind.engines d.kind → (e.eng k).ops = (d.eng k).ops.map fun op =>
      if op.parkedOp = true ∧ op.origin = .row t w then { f op with parkedOp := false } else op
    (d.ready = true →
      (∀ ok, d.hostReq tag false = none → exec (.memCpl tag ok payload now) s = s.goesOn now d) ∧
      (∀ t w slot, d.hostReq tag false = some r → r.use = .pageIn t w slot →
        (∃ e, exec (.memCpl tag true payload now) s = s.goesOn now e ∧ gone e ∧ counted e ∧ e.out = d.out ∧
          woken t w (fun op => { op with act := .pageIn slot (padTo r.length payload) 1 }) e) ∧
        (∃ e, exec (.memCpl tag false payload now) s = s.goesOn now e ∧ gone e ∧ counted e ∧
          woken t w (fun op => { op with act := .pageIn slot [] 1 }) e)) ∧
      (d.hostReq tag true = none → exec (.hostWriteComplete tag now) s = s.goesOn now d) ∧
      (∀ t w n x, d.hostReq tag true = some r → r.use = .save t w n [] → d.flight t w = some x → x.stage = .running →
        ∃ e, exec (.hostWriteComplete tag now) s = s.goesOn now e ∧ gone e ∧ (e.part n).saved = true ∧
          (e.part n).notice = (d.part n).notice ||| 16#6 ∧ e.stageOf t w = some (.finished Status.done)) ∧
      (d.hostReq tag true = some r → (∀ t w n x, r.use ≠ .save t w n x) →
        ∃ e, exec (.hostWriteComplete tag now) s = s.goesOn now e ∧ gone e ∧ counted e ∧ e.out = d.out ∧
          (∀ t w x, r.use = .attest t w → d.flight t w = some x → x.stage = .running → e.stageOf t w = some (.finished Status.done)) ∧
          (∀ t w a b, r.use = .pageOut t w a b → woken t w (fun op => op) e) ∧
          (∀ j, r.use = .exportRecord j → e.host.pagesOut = sat 32 (d.host.pagesOut + 1)) ∧
          (r.use = .attic → e.attic = { d.attic with blocks := d.attic.blocks + 1 })) ∧
      (∀ ok, d.host.xlat.contains page = false → exec (.xlatCpl page ok now) s = s.goesOn now d) ∧
      (d.host.xlat.contains page = true → d.host.reqs = [r] → r.issued = false → hostPages r.addr r.length = [page] →
        (d.host.invalidating.contains page = false →
          ∃ e, exec (.xlatCpl page true now) s = s.goesOn now e ∧ e.host.reqs = [{ r with issued := true }] ∧ e.host.lookup.contains page = true ∧
            e.host.xlat = d.host.xlat.filter (· ≠ page) ∧
            e.out = d.out ++ [.host (if r.write then 4 else 5) r.inst r.tag r.addr (if r.write then r.data else natLe 4 r.length)]) ∧
        (r.write = true → exec (.xlatCpl page false now) s = s.goesOn now d) ∧
        (∀ t w slot, r.write = false → r.use = .pageIn t w slot →
          ∃ e, exec (.xlatCpl page false now) s = s.goesOn now e ∧ e.host.reqs = [] ∧ e.host.xlat = d.host.xlat.filter (· ≠ page) ∧
            woken t w (fun op => { op with act := .pageIn slot [] 1 }) e)) ∧
      (∃ e, exec (.inval page now) s = s.left e ∧ e.host.usable page = false ∧ e.host.lookup = d.host.lookup ∧ e.host.reqs = d.host.reqs ∧
        { e with host := d.host } = d) ∧
      (d.host.invalidating.contains page = false ∨ d.pageInUse page = true → exec (.invalDone page now) s = s.goesOn now d) ∧
      (d.host.invalidating.contains page = true → d.pageInUse page = false → (∀ x ∈ d.host.reqs, x.issued = true) →
        exec (.invalDone page now) s = s.goesOn now { d with
          host := { d.host with lookup := d.host.lookup.filter (· ≠ page), invalidating := d.host.invalidating.filter (· ≠ page),
                                invals := sat 32 (d.host.invals + 1) },
          out := d.out ++ [.host 0x0A 0 0 (page * 4096) []] })) ∧
    (d.reset.frozen = false → d.ready = false →
      exec (.inval page now) s = s.left { d with out := d.out ++ [.host 0x0A 0 0 (page * 4096) []] }) ∧
    (let left (p : SpdmPort) := d.drawWait.filterMap (DrawReq.aborted p)
     exec (.doeAbort .physical now) s =
       s.left { d with drawWait := left .physical, host := { d.host with ide := d.host.ide.map fun o => { o with own := true } } } ∧
     (∀ n, exec (.doeAbort (.interface n) now) s = s.left { d with drawWait := left (.interface n) }) ∧
     exec (.doeAbort .management now) s = s.left d)

/-- The manager's actions on a partition (R361, R362, R385, R448): ENABLE a DISABLED one, DISABLE an ENABLED one whose interface is CONFIG_UNLOCKED,
RESET one that is not DISABLED or already resetting; else `refused` is set and nothing else. A reset withdraws its rows, closes its
regions, frees its channels, clears its domain and pending bits; it ends, once its admitted accesses are done, with its keys
zeroised, the partition ENABLED and a Cellar record. -/
def Obligations.PartitionsEnableDisableAndReset : Prop :=
  ∀ (s : State) (r : Requester) (n now : Nat), n < Kind.parts s.dev.kind →
    let d := s.at now
    let p := d.part n
    let refusedBy (i : Instr) : Prop := ∃ e, exec i s = s.goesOn now e ∧ e.part n = { p with refused := true } ∧
      { e with parts := d.parts } = { d with out := d.out ++ [.regWrite false] } ∧ ∀ j, j ≠ n → e.part j = d.part j
    let acts (i : Instr) (q : Part) (h : HEntry) : Prop := ∃ e, exec i s = s.goesOn now e ∧ e.part n = { q with refused := false, quotas := [] } ∧
      (e.th d.mgr).handle .part n = h ∧ { e with parts := d.parts, threads := d.threads } = { d with out := d.out ++ [.regWrite false] } ∧
      ∀ j, j ≠ n → e.part j = d.part j
    (d.managerMay r →
      (p.st = .disabled → acts (.partEnable r n now) { p with st := .enabled } { (d.th d.mgr).handle .part n with st := .live, slot := n }) ∧
      (p.st ≠ .disabled → refusedBy (.partEnable r n now)) ∧
      (p.st = .enabled → p.tdi = .unlocked →
        acts (.partDisable r n now) { p with st := .disabled } { gen := nextGen ((d.th d.mgr).handle .part n).gen }) ∧
      (p.st ≠ .enabled ∨ p.tdi ≠ .unlocked → refusedBy (.partDisable r n now)) ∧
      (p.st = .enabled ∨ p.st = .bound ∨ p.st = .frozen →
        ∃ e, exec (.partReset r n now) s = s.goesOn now e ∧ (e.part n).st = .resetting ∧ (e.part n).resetCause = 0 ∧
          (e.part n).tdi = (if p.tdi = .locked ∨ p.tdi = .run then .error else p.tdi) ∧ (e.th n).flights = [] ∧ (e.th n).rows = [] ∧
          (e.dom n).st = .none ∧ e.domKey n = none ∧ (∀ k, (e.reg k).thread = n → (e.reg k).st ≠ .live) ∧
          (∀ k, (e.ch k).st ≠ .free → (e.ch k).thread ≠ n) ∧ e.intc.pend.getLsbD (16 + n) = false ∧ e.intc.pend.getLsbD (48 + n) = false) ∧
      (p.st = .disabled ∨ p.st = .resetting → refusedBy (.partReset r n now))) ∧
    (d.ready = true →
      (p.st ≠ .resetting ∨ d.partBusy n = true → exec (.partitionResetEnd n now) s = s.goesOn now d) ∧
      (p.st = .resetting → d.partBusy n = false →
        ∃ e, exec (.partitionResetEnd n now) s = s.goesOn now e ∧ (e.part n).st = .enabled ∧ (e.part n).counts = [] ∧ (e.part n).mbx = [] ∧
          (e.part n).quotas = p.quotas ∧ (e.part n).bindCount = p.bindCount ∧ (e.th n).atticMask = 0x5F ∧ (e.th n).atticNext = 0 ∧
          (e.th n).atticFirst = (d.th n).atticFirst + 1 ∧ (∀ k, (e.slot k).st = 1 ∨ (e.slot k).st = 2 → (e.slot k).holder ≠ n) ∧
          e.cellar.head = (d.cellar.head + 1) % 2 ^ 32 ∧ (tget e.cellar.log 0 (d.cellar.head % 256)).toNat / 2 ^ 96 % 256 = 0x10))

/-- Mailboxes (R370 to R373): a well-formed header written to an empty slot posts it with the sender's next sequence and raises the receiver's
source, one written to a full slot or malformed is counted, one without full does nothing; a take zeroes the full slots it names and no
other. PORCH.MIGRATE takes values whose reserved bits are zero (R377, R388). -/
def Obligations.MailboxesPostTakeAndConsent : Prop :=
  ∀ (s : State) (r : Requester) (outbound : Bool) (n slot now : Nat) (header : BitVec 128) (slots : BitVec 16) (v : Word),
    n < Kind.parts s.dev.kind → slot < 16 → (s.at now).ready = true → ((s.at now).part n).bound = true →
    let d := s.at now
    let p := d.part n
    let h := header.toNat
    let sender : Prop := if outbound then d.ownerMay r n else d.managerMay r ∧ d.hall.mbxSelect = n
    let receiver : Prop := if outbound then d.managerMay r ∧ d.hall.mbxSelect = n else d.ownerMay r n
    let seq := if outbound then p.seqOut else p.seqIn
    let frame (e : Dev) : Prop := { e with parts := d.parts, hall := d.hall, intc := d.intc } = { d with out := d.out ++ [.regWrite false] } ∧
      ∀ j, j ≠ n → e.part j = d.part j
    let fine : Prop := h / 2 ^ 48 % 2 ^ 8 ≤ 240 ∧ h / 2 ^ 56 % 2 ^ 7 = 0 ∧ h / 2 ^ 32 % 2 ^ 8 = 0
    let post := exec (.mailboxPost r outbound n slot header now) s
    (sender →
      (p.mbxFull outbound slot = false → header.getLsbD 63 = true → fine →
        ∃ e, post = s.left e ∧ frame e ∧ e.hall = d.hall ∧ (e.part n).mbxFull outbound slot = true ∧
          ((e.part n).mbxWord outbound slot 0).toNat % 2 ^ 32 = seq % 2 ^ 32 ∧
          ((e.part n).mbxWord outbound slot 0).toNat / 2 ^ 40 = h / 2 ^ 40 % 2 ^ 24 ∧
          (e.part n).mbxWord outbound slot 1 = BitVec.ofNat 64 d.time ∧
          (∀ k w, k < 16 → w < 32 → k ≠ slot ∨ 2 ≤ w → (e.part n).mbxWord outbound k w = p.mbxWord outbound k w) ∧
          (if outbound then (e.part n).seqOut else (e.part n).seqIn) = nextSeq seq ∧
          (if outbound then (e.part n).seqIn else (e.part n).seqOut) = (if outbound then p.seqIn else p.seqOut) ∧
          (tget d.intc.asserted 0 (if outbound then 82 else 16 + n) = 0 →
            tget e.intc.asserted 0 (if outbound then 82 else 16 + n) = d.time + 1)) ∧
      (p.mbxFull outbound slot = false → header.getLsbD 63 = true → ¬ fine →
        ∃ e, post = s.left e ∧ frame e ∧ e.intc = d.intc ∧
          (outbound = true → e.part n = { p with badPosts := sat 16 (p.badPosts + 1) } ∧ e.hall = d.hall) ∧
          (outbound = false → e.hall = { d.hall with mbxBad := sat 16 (d.hall.mbxBad + 1) } ∧ e.part n = p)) ∧
      (p.mbxFull outbound slot = true →
        ∃ e, post = s.left e ∧ frame e ∧ e.intc = d.intc ∧
          (outbound = true → e.part n = { p with fullWrites := sat 16 (p.fullWrites + 1) } ∧ e.hall = d.hall) ∧
          (outbound = false → e.hall = { d.hall with mbxFull := sat 16 (d.hall.mbxFull + 1) } ∧ e.part n = p)) ∧
      (p.mbxFull outbound slot = false → header.getLsbD 63 = false → post = s.left { d with out := d.out ++ [.regWrite false] })) ∧
    (receiver →
      ∃ e, exec (.mailboxTake r outbound n slots now) s = s.left e ∧ frame e ∧ e.hall = d.hall ∧ e.intc = d.intc ∧
        { e.part n with mbx := p.mbx } = p ∧
        ∀ out' k w, k < 16 → w < 32 → (e.part n).mbxWord out' k w =
          if out' = outbound ∧ slots.getLsbD k = true ∧ p.mbxFull outbound k = true then 0 else p.mbxWord out' k w) ∧
    (d.ownerMay r n →
      (v.toNat / 2 ^ 35 % 2 ^ 28 = 0 →
        ∃ e, exec (.migrateWrite r n v now) s = s.left e ∧ frame e ∧ e.hall = d.hall ∧ e.intc = d.intc ∧ e.part n = { p with migrate := v }) ∧
      (v.toNat / 2 ^ 35 % 2 ^ 28 ≠ 0 → exec (.migrateWrite r n v now) s = s.left { d with out := d.out ++ [.regWrite false] }))

/-- Opening the link (R392 to R395, R397): IDENT whose signatures hold is recorded and the pairing key of its epoch takes slot 5, an unpaired module, and
an epoch of 0xFFFF, which names no key (R77), end the open; PROOF under it gives the link key slot 6, OPEN_ACK and MANIFEST_REQ leave; an accepted MANIFEST is kept and KEY_REQ leaves; KEY
unwraps the content key and the open is DONE. A frame on a closed link is ignored; one that is wrong or not awaited ends the exchange
VAULT_AUTH and closes the link with its keys zeroised. -/
def Obligations.VaultFramesOpenTheLink : Prop :=
  ∀ (s : State) (f b : Bytes) (now : Nat),
    let d := s.at now
    let v := d.vault
    let next : Dev := d.onVault fun v => { v with seqIn := v.seqIn + 1, await := .none }
    let kinds : List (Nat × Instr × VAwait × Option Key) :=
      [(0x02, .ident f now, .ident, none), (0x03, .proof f now, .proof, none), (0x06, .pairOk f now, .pairOk, some v.newPair),
       (0x08, .manifest f now, .manifest, v.trailer), (0x0A, .vaultKey f now, .key, v.trailer), (0x0C, .shardData f now, .shard, none),
       (0x0F, .progOk f now, .progOk, none)]
    (∀ k i a key, (k, i, a, key) ∈ kinds →
      (leAt f 0 1 ≠ k ∨ v.st = .closed ∨ d.powered 4 = false ∨ d.ready = false → exec i s = s.goesOn now d) ∧
      (leAt f 0 1 = k → v.st ≠ .closed → d.powered 4 = true → d.ready = true → v.body f k key = none ∨ v.await ≠ a →
        ∃ e, exec i s = s.goesOn now e ∧ e.vault.st = .closed ∧ e.vault.contentKey = 0 ∧ e.vault.trailer = none ∧ e.vault.loads = [] ∧
          e.resKey 6 = none ∧
          ∀ t w x, v.req.row = some (t, w) → d.flight t w = some x → x.stage = .running → e.stageOf t w = some (.finished Status.vaultAuth))) ∧
    (d.frameTaken f 0x02 .ident none b → v.purpose = 0 → d.identOk b = true →
      let c := next.onVault fun v => v.record b
      let epoch := leAt b 18 2
      c.vault.serial = BitVec.ofNat 64 (leAt b 0 8) ∧
      (epoch ≠ 0 → epoch ≠ 0xFFFF → ∀ k g, c.pairingKey epoch = some k → c.setReserved 5 k Origin.derived epoch = some g →
        exec (.ident f now) s = s.goesOn now (g.onVault fun v => { v with await := .proof, since := d.time })) ∧
      (epoch = 0 ∨ epoch = 0xFFFF → ∃ e, exec (.ident f now) s = s.goesOn now e ∧ e.vault.st = .closed ∧
        ∀ t w x, v.req.row = some (t, w) → d.flight t w = some x → x.stage = .running →
          e.stageOf t w = some (.finished (if epoch = 0 then Status.vaultAuth else Status.keyEpoch)))) ∧
    (d.frameTaken f 0x03 .proof none b → v.purpose = 0 → v.sessions ≠ 0xFFFF → ∀ k g, d.resKey 5 = some k →
      b = hmac (keyBytes k) (keyBytes v.nK ++ keyBytes v.nM ++ natLe 2 v.sessions.toNat) →
      let l := linkKey k v.sessions.toNat
      next.setReserved 6 l Origin.derived v.sessions.toNat = some g →
      ∃ e, exec (.proof f now) s = s.goesOn now e ∧ e.out = d.out ++ [.vault (vaultFrame 0x04 v.seqOut [] v.trailer),
          .vault (vaultFrame 0x07 (v.seqOut + 1) [] (some l))] ∧
        e.vault = { v with seqIn := v.seqIn + 1, seqOut := v.seqOut + 2, trailer := some l, await := .manifest, since := d.time }) ∧
    (d.frameTaken f 0x08 .manifest v.trailer b → manifestOk b = true →
      exec (.manifest f now) s = s.goesOn now { d with
        vault := { v with seqIn := v.seqIn + 1, seqOut := v.seqOut + 1, manifest := b, await := .key, since := d.time },
        out := d.out ++ [.vault (vaultFrame 0x09 v.seqOut [] v.trailer)] }) ∧
    (d.frameTaken f 0x0A .key v.trailer b → b.length = 40 → ∀ l k t w x, v.trailer = some l → kwUnwrap l b = some k →
      v.req.row = some (t, w) → d.flight t w = some x → x.stage = .running →
      ∃ e, exec (.vaultKey f now) s = s.goesOn now e ∧ e.vault.st = .open_ ∧ e.vault.contentKey = bytesKey k ∧ e.vault.trailer = some l ∧
        e.vault.manifest = v.manifest ∧ e.vault.reportDigest = sha384d v.manifest ∧ e.stageOf t w = some (.finished Status.done))

/-- Pairing, unpairing, programming and endings of the link (R391, R393, R394, R396, R406, R410): PAIR carries the next epoch's key to a
module whose storage keys pass the engine's checks (R105), once the DRBG serves (R79),
PAIR_OK puts it into slot 5, answers the command and clears seal_event; UNPAIR answers and closes; a programming that the module's life allows is
answered and reads its image, PROG_OK ends it with the module's counts. ERROR, 10 ms without an answer and the opening seal end what runs. -/
def Obligations.VaultPairsProgramsAndEnds : Prop :=
  ∀ (s : State) (f b : Bytes) (now : Nat),
    let d := s.at now
    let v := d.vault
    let next : Dev := d.onVault fun v => { v with seqIn := v.seqIn + 1, await := .none }
    let said (body : Bytes) : Out := d.mgmtAnswer v.req.sess
      { code := v.req.code.toNat, seq := v.req.seq.toNat, body := [], covered := [], p384 := [], mldsa := [], reserved := false } Status.done body
    let closed (e : Dev) : Prop := e.vault.st = .closed ∧ e.vault.await = .none ∧ e.vault.contentKey = 0 ∧ e.vault.trailer = none ∧
      e.vault.req = {} ∧ e.resKey 6 = none
    let rowEnds (e : Dev) (st : Byte) : Prop :=
      ∀ t w x, v.req.row = some (t, w) → d.flight t w = some x → x.stage = .running → e.stageOf t w = some (.finished st)
    (d.frameTaken f 0x02 .ident none b → d.identOk b = true →
      let c := next.onVault fun v => v.record b
      let epoch := leAt b 18 2
      (v.purpose = 1 → 0xFFFE ≤ epoch ∨ recipientOk (storageKeys b).1 (storageKeys b).2 = false →
        ∃ e, exec (.ident f now) s = s.goesOn now e ∧ closed e) ∧
      (v.purpose = 1 → epoch < 0xFFFE → recipientOk (storageKeys b).1 (storageKeys b).2 = true → d.canDraw = false → ∀ k,
        c.pairingKey (epoch + 1) = some k → exec (.ident f now) s = s.goesOn now { c with drawWait := d.drawWait ++ [.pair b] }) ∧
      (v.purpose = 1 → epoch < 0xFFFE → recipientOk (storageKeys b).1 (storageKeys b).2 = true → d.canDraw = true → ∀ k,
        c.pairingKey (epoch + 1) = some k →
        ∃ e, exec (.ident f now) s = s.goesOn now e ∧ e.vault.await = .pairOk ∧ e.vault.newPair = k ∧ e.vault.since = d.time ∧
          e.vault.serial = BitVec.ofNat 64 (leAt b 0 8) ∧ e.out = d.out ++ [.vault (vaultFrame 0x05 v.seqOut (natLe 2 (epoch + 1) ++ [0, 0] ++
            encapsulate none d.larder.drbg.draws (storageKeys b).1 (storageKeys b).2 c.moduleLabel k) v.trailer)]) ∧
      (v.purpose = 2 → epoch ≠ 0 → epoch ≠ 0xFFFF → d.canDraw = true →
        (c.vault.lifeAfter ≤ 30000 → 0 < v.imageLength →
          ∃ e r, exec (.ident f now) s = s.goesOn now e ∧ e.vault.progBusy = true ∧ e.vault.progBytes = 0 ∧ e.vault.req = {} ∧ r ∈ e.host.reqs ∧
            r.tag = d.host.nextTag ∧ r.write = false ∧ r.addr = v.progAddr.toNat ∧ r.length = min 65536 v.imageLength ∧ r.use = .image 1 ∧
            said [] ∈ e.out) ∧
        (30000 < c.vault.lifeAfter → ∃ e, exec (.ident f now) s = s.goesOn now e ∧ closed e))) ∧
    (d.frameTaken f 0x03 .proof none b → v.purpose = 3 → d.canDraw = true → ∀ k, d.resKey 5 = some k →
      b = hmac (keyBytes k) (keyBytes v.nK ++ keyBytes v.nM ++ natLe 2 v.sessions.toNat) →
      ∃ e, exec (.proof f now) s = s.goesOn now e ∧ closed e ∧ e.out = d.out ++ [.vault (vaultFrame 0x10 v.seqOut [] v.trailer), said []]) ∧
    (d.frameTaken f 0x06 .pairOk (some v.newPair) [] → d.canDraw = true →
      let epoch := v.pairEpoch.toNat + 1
      ∀ g, next.setReserved 5 v.newPair Origin.derived epoch = some g →
        ∃ e, exec (.pairOk f now) s = s.goesOn now e ∧ closed e ∧ e.vault.sealEvent = false ∧ e.vault.pairEpoch = BitVec.ofNat 16 epoch ∧
          e.vault.sessions = 0 ∧ e.out = d.out ++ [said (natLe 8 v.serial.toNat ++ natLe 2 epoch ++ List.replicate 6 0)]) ∧
    (d.frameTaken f 0x0F .progOk none b → b.length = 6 →
      ∃ e, exec (.progOk f now) s = s.goesOn now e ∧ closed e ∧ e.vault.programs = BitVec.ofNat 32 (leAt b 0 4) ∧ e.out = d.out ∧
        e.vault.life = BitVec.ofNat 16 (leAt b 4 2) ∧ e.vault.lifeSpent = decide (30000 ≤ leAt b 4 2) ∧ e.vault.progBusy = false ∧
        e.vault.progStatus = Status.done ∧ tget e.intc.asserted 0 83 ≠ 0) ∧
    (d.frameTaken f 0x1F v.await v.trailer b →
      ∃ e, exec (.vaultError f now) s = s.goesOn now e ∧ closed e ∧ e.vault.lastError = BitVec.ofNat 8 (leAt b 0 1) ∧ e.vault.loads = [] ∧
        rowEnds e (if leAt b 0 1 = 1 then Status.vaultSeal else if leAt b 0 1 = 3 then Status.vaultLife else Status.vaultAuth)) ∧
    (d.ready = true →
      (v.await = .none ∨ d.time < v.since + 10000000 → exec (.vaultFrameTimeout now) s = s.goesOn now d) ∧
      (v.await ≠ .none → v.await ≠ .shard → v.since + 10000000 ≤ d.time →
        ∃ e, exec (.vaultFrameTimeout now) s = s.goesOn now e ∧ closed e ∧ rowEnds e Status.vaultAuth)) ∧
    (∃ e, exec (.vaultSealOpen now) s = s.goesOn now e ∧ closed e ∧ e.resKey 5 = none ∧ e.vault.sealOpen = true ∧ e.vault.sealEvent = true ∧
      e.vault.loads = [] ∧ rowEnds e Status.vaultSeal ∧ e.intc.raw.getLsbD 131 = true ∧ e.intc.pend.getLsbD 131 = true ∧
      e.intc.pend.getLsbD 130 = true)

/-- Loads (R399 to R403): the first waiting load gives its region a fresh key and load lock and asks for its first shard; a shard whose tag holds is queued
line by line and the next asked for, one that fails is made fresh and asked for again, and a fourth failure ends the load VAULT_SHARD. -/
def Obligations.VaultLoadsTakeTheirShards : Prop :=
  ∀ (s : State) (f b : Bytes) (now : Nat) (l : VLoad) (rest : List VLoad),
    let d := s.at now
    let v := d.vault
    let r := d.reg l.region
    let first := entryFirst (entryOf v.manifest l.entry)
    let n := v.shardLength v.shardNext
    let k := first + v.shardNext
    let ask (seq i : Nat) : Out := .vault (vaultFrame 0x0B seq (natLe 4 i) v.trailer)
    let aad := natLe 8 (leAt v.manifest 8 8) ++ natLe 2 l.entry ++ [0, 0] ++ natLe 4 k ++ natLe 4 n ++ [0, 0, 0, 0]
    let opened := gcmOpen v.contentKey (natBe 8 (leAt v.manifest 8 8) ++ natBe 4 k) aad (slice b 8 n) (slice b (8 + n) 16)
    (d.ready = true →
      (v.loads = [] ∨ v.loadRunning = true ∨ v.st ≠ .open_ ∨ v.await ≠ .none ∨ d.powered 4 = false →
        exec (.vloadStart now) s = s.goesOn now d) ∧
      (v.loads = l :: rest → v.loadRunning = false → v.st = .open_ → v.await = .none → d.powered 4 = true →
        (∀ x ∈ d.engines, ∀ op ∈ x.2.ops, d.keyReg op.region ≠ l.region) →
        ∀ root, d.larder.baseSeq < 2 ^ 32 → d.resKey 3 = some root →
          let key := kdfKey root (label Purpose.base 0 0x80 0 0 d.larder.baseSeq 0)
          ∃ e, exec (.vloadStart now) s = s.goesOn now e ∧ e.vault.st = .loading ∧ e.vault.loadRunning = true ∧ e.vault.shardNext = 0 ∧
            e.vault.await = .shard ∧ (e.slot r.keySlot).key = key ∧ (e.reg l.region).loaded = key ∧ (e.reg l.region).loadLocked = true ∧
            (e.reg l.region).writes = 0 ∧ (e.reg l.region).vault = none ∧ e.out.getLast? = some (ask v.seqOut first))) ∧
    (d.frameTaken f 0x0C .shard none b → v.loads = l :: rest → v.loadRunning = true →
      (leAt b 0 4 = k → zeroAt b 4 4 = true → b.length = 24 + n →
        (∀ plain, opened = some plain → plain.length = n →
          ∃ e, exec (.shardData f now) s = s.goesOn now e ∧ e.vault.shardsWritten = v.shardsWritten + 1 ∧ e.vault.shardNext = v.shardNext + 1 ∧
            e.vault.retries = 0 ∧ e.vault.shards = sat 32 (v.shards + 1) ∧
            (v.shardNext + 1 < entryCount (entryOf v.manifest l.entry) → e.vault.await = .shard ∧ e.out = d.out ++ [ask v.seqOut (k + 1)]) ∧
            (entryCount (entryOf v.manifest l.entry) ≤ v.shardNext + 1 → e.vault.await = .none ∧ e.out = d.out) ∧
            ∀ i, i < (n + 127) / 128 → ∃ op ∈ (e.eng (d.engineOf (r.base / 128 + v.shardNext * 524288 + i))).ops,
              op.origin = .vault ∧ op.addr = r.base / 128 + v.shardNext * 524288 + i ∧ op.region = l.region ∧
              op.act = .write (bytesLine (slice plain (128 * i) 128)) (BitVec.ofNat 128 (2 ^ min 128 (n - 128 * i) - 1))) ∧
        (opened = none →
          ∃ e, exec (.shardData f now) s = s.goesOn now e ∧ e.vault.shardTagFails = sat 16 (v.shardTagFails + 1) ∧
            (v.retries < 3 → e.vault.retries = v.retries + 1 ∧ e.vault.await = .shard ∧ e.vault.loads = v.loads ∧
              ask v.seqOut k ∈ e.out) ∧
            (3 ≤ v.retries → e.vault.loadRunning = false ∧ e.vault.st = .open_ ∧ l ∉ e.vault.loads ∧
              (e.th l.thread).jobEnds = (d.th l.thread).jobEnds ++
                [{ row := l.row, opcode := 0xE1, status := Status.vaultShard, cookie := some l.cookie, job := true }]))) ∧
      (leAt b 0 4 ≠ k → v.retries < 3 →
        ∃ e, exec (.shardData f now) s = s.goesOn now e ∧ e.vault.shardLate = sat 16 (v.shardLate + 1) ∧ e.vault.retries = v.retries + 1 ∧
          ask v.seqOut k ∈ e.out))

/-- Counters and Attic (R412, R414, R416, R419 to R421): a read gives the live counter, or the completed value in the tick of a step reset; a manager's
snapshot copies every global counter; the queue's head record takes the next global number and its place in the ring; a complete block goes
to host memory; word 0 of a record latches what the cursor selects for its reader, word 3 advances the cursor past it. -/
def Obligations.CountersAndAtticRecordsAreRead : Prop :=
  ∀ (s : State) (r : Requester) (n k now : Nat),
    let d := s.at now
    let p := d.part n
    let a := d.attic
    let key := r.cls.toNat * 32 + r.idx.toNat
    (d.ownerMay r n → n < d.nparts →
      ((∀ t c, p.latched = some (t, c) → t ≠ d.time) →
        exec (.countRead r n k now) s = s.left { d with out := d.out ++ [.regRead (BitVec.ofNat 64 (tget p.counts 0 (k % 16))) false] }) ∧
      (∀ c, p.latched = some (d.time, c) →
        ∃ e, exec (.countRead r n k now) s = s.left e ∧ (e.part n).rolled = p.rolled ||| BitVec.ofNat 16 (2 ^ (k % 16)) ∧
          { e with parts := d.parts } = { d with out := d.out ++ [.regRead (BitVec.ofNat 64 (tget c 0 (k % 16))) false] })) ∧
    (d.managerMay r →
      ∃ e, exec (.managerSnap r now) s = s.left e ∧ { e with count := d.count } = { d with out := d.out ++ [.regWrite false] } ∧
        e.count.global = d.count.global ∧
        (d.count.snaps ≠ 0 → d.count.time = d.time → e.count = d.count) ∧
        (d.count.snaps = 0 ∨ d.count.time ≠ d.time → e.count.globalSnap = d.count.global ∧ e.count.time = d.time ∧
          e.count.snaps = (d.count.snaps + 1) % 2 ^ 32 ∧
          ∀ j i, j < d.nparts → i < 16 → (d.part j).latched = none → tget e.count.partSnap 0 (16 * j + i) = tget (d.part j).counts 0 i)) ∧
    (∀ x rest, a.queue = x :: rest → a.ctrl.getLsbD 1 = false → d.powered 3 = true →
      ∃ e, exec (.atticRecordWrite now) s = s.left e ∧
        e.attic = { a with queue := rest, ring := tput a.ring (a.head % 65536) { x with g := a.head }, head := a.head + 1 } ∧
        { e with attic := a, count := d.count } = d ∧
        tget e.count.global 0 330 = (tget d.count.global 0 330 + 1) % 2 ^ 64) ∧
    (a.queue = [] ∨ a.ctrl.getLsbD 1 = true ∨ d.powered 3 = false → exec (.atticRecordWrite now) s = s.left d) ∧
    (d.ready = true → a.ctrl.getLsbD 2 = true → d.powered 3 = true → a.head ≤ 65536 → a.skipped < 2 ^ 32 →
      (128 * (a.nextBlock + 1) ≤ a.head →
        ∃ e q, exec (.atticExport now) s = s.left e ∧ e.attic = { a with nextBlock := a.nextBlock + 1 } ∧ q ∈ e.host.reqs ∧
          q.tag = d.host.nextTag ∧ q.write = true ∧ q.inst = 0 ∧ q.addr = a.base.toNat + 4096 * (a.nextBlock % 2 ^ a.size) ∧
          q.length = 4096 ∧ q.data = a.block a.nextBlock ∧ q.use = .attic) ∧
      (a.head < 128 * (a.nextBlock + 1) → exec (.atticExport now) s = s.left d)) ∧
    (d.ready = false ∨ a.ctrl.getLsbD 2 = false ∨ d.powered 3 = false → exec (.atticExport now) s = s.left d) ∧
    (d.ownerMay r n → n < d.nparts →
      (∃ e, exec (.atticRecLatch r n now) s = s.left e ∧ tget e.attic.latch 0 key = d.atticOwn n ∧
        { e with attic := a } = { d with out := d.out ++ [.regRead ((d.atticOwn n).setWidth 64) false] }) ∧
      (∃ e, exec (.atticRecAdvance r n now) s = s.left e ∧ (e.th n).atticCursor = cursorAfter (d.th n).atticCursor (tget a.latch 0 key) % 2 ^ 32 ∧
        { e.th n with atticCursor := (d.th n).atticCursor } = d.th n ∧
        { e with threads := d.threads } = { d with out := d.out ++ [.regRead ((tget a.latch 0 key >>> 192).setWidth 64) false] })) ∧
    (d.managerMay r → d.powered 3 = true →
      (∃ e, exec (.atticRecLatch r d.mgr now) s = s.left e ∧ tget e.attic.latch 0 key = d.atticAny ∧
        { e with attic := a } = { d with out := d.out ++ [.regRead (d.atticAny.setWidth 64) false] }) ∧
      exec (.atticRecAdvance r d.mgr now) s = s.left { d with
        attic := { a with cursor := cursorAfter a.cursor (tget a.latch 0 key) % 2 ^ 64 },
        out := d.out ++ [.regRead ((tget a.latch 0 key >>> 192).setWidth 64) false] })

/-- Self-test, checks and the dump (R170, R271, R279, R296, R298, R324, R444, R458, R459, R463, R468): a unit that passes, or passes its second test,
stays in service; one that fails twice is mapped out, a spare taking its place while there is one, with source 6 and a Cellar record; a Pantry way
leaves once its entries are written back. A corrected symbol is counted; a failing copy of a node is noted; a parity failure on the memory path leaves
a record, and the fourth of an island in a second is block-critical, as is one in the manager's state. CELLAR.DUMP_STATUS.valid releases the dump. -/
def Obligations.FailingUnitsAreMappedOut : Prop :=
  ∀ (s : State) (r : Requester) (u : TestUnit) (m k now : Nat), s.dev.reset.frozen = false →
    let d := s.at now
    let g := d.eng m
    let recorded (e : Dev) (cause : Nat) : Prop := e.cellar.head = (d.cellar.head + 1) % 2 ^ 32 ∧ tget e.intc.asserted 0 6 ≠ 0 ∧
      (tget e.cellar.log 0 (d.cellar.head % 256)).toNat / 2 ^ 96 % 256 = cause
    (unitPresent s.dev.kind u = true →
      ((∀ x, u ≠ .upset x) → (∀ b, exec (.selfTest u false b now) s = s.left d) ∧ exec (.selfTest u true false now) s = s.left d) ∧
      (d.unitOn u = false → exec (.selfTest u true true now) s = s.left d)) ∧
    (m < Kind.engines s.dev.kind → d.powered (d.engDomain m) = true →
      (k < 60 + Kind.memSpares s.dev.kind →
        (g.sparesLeft ≠ 0 → ∃ e, exec (.selfTest (.memLane m k) true true now) s = s.left e ∧ recorded e 0x0E ∧
          e.eng m = { g with sparesLeft := g.sparesLeft - 1 } ∧ ∀ j, j ≠ m → e.eng j = d.eng j) ∧
        (g.sparesLeft = 0 → g.lanes ≠ 0 → ∃ e, exec (.selfTest (.memLane m k) true true now) s = s.left e ∧ recorded e 0x0F ∧
          e.eng m = { g with lanes := g.lanes - 1 })) ∧
      (k < 32 →
        (g.spareWays ≠ 0 → ∃ e, exec (.selfTest (.pantryWay m k) true true now) s = s.left e ∧ recorded e 0x0E ∧
          e.eng m = { g with spareWays := g.spareWays - 1 }) ∧
        (g.spareWays = 0 → g.leavingWays < g.workingWays.toNat → d.reset.status ≠ 2 →
          ∃ e, exec (.selfTest (.pantryWay m k) true true now) s = s.goesOn now e ∧ recorded e 0x0F ∧ e.opSeq = d.opSeq + 1 ∧
            (e.eng m).ops = g.ops ++
              [{ id := d.opSeq, origin := .engine, act := .wayOut k, addr := d.pageLine m 0, part := d.mgr, region := 0,
                 spent := (d.reg (d.keyReg 0)).spentEpochs }]) ∧
        (g.spareWays = 0 → g.workingWays ≠ 0 → g.pantry = [] → d.quiet = true → (∀ x ∈ d.engines, x.2.ops = []) →
          ∃ e, exec (.selfTest (.pantryWay m k) true true now) s = s.left e ∧ recorded e 0x0F ∧ (e.eng m).workingWays = g.workingWays - 1)) ∧
      (∀ b c, exec (.selfTest (.upset (.symbol m)) b c now) s = s.left (d.onEng m fun e => { e with corrected := sat 32 (e.corrected + 1) }) ∧
        (∀ level2 shadow i, i < (if level2 then 3072 else 48) → exec (.selfTest (.upset (.copy m level2 shadow i)) b c now) s =
          s.left (d.onEng m fun e => { e with faults := e.faults ++ [{ level2 := level2, index := i, shadow := shadow }] })) ∧
        (let before := (tget d.cellar.checkTimes [] (0x10 + m)).filter fun t => decide (d.time ≤ t + 1000000000)
         (before.length < 3 → ∃ e, exec (.selfTest (.upset (.memory m)) b c now) s = s.left e ∧ e.eng m = { g with spoiled := true } ∧
           e.cellar.checks = sat 32 (d.cellar.checks + 1) ∧ e.cellar.head = (d.cellar.head + 1) % 2 ^ 32 ∧
           (tget e.cellar.log 0 (d.cellar.head % 256)).toNat / 2 ^ 96 % 256 = 4 ∧ tget e.intc.asserted 0 3 ≠ 0 ∧ e.reset = d.reset) ∧
         (3 ≤ before.length → d.reset.status ≠ 2 → ∃ e, exec (.selfTest (.upset (.memory m)) b c now) s = s.left e ∧
           e.reset.frozen = true ∧ e.reset.cause = 5 ∧ e.reset.request = some 3)))) ∧
    (∀ b c, d.reset.status ≠ 2 → ∃ e, exec (.selfTest (.upset .manager) b c now) s = s.left e ∧ e.reset.frozen = true ∧ e.reset.cause = 0x0B ∧
      e.reset.request = some 3) ∧
    (m < Kind.ports s.dev.kind → d.powered (d.portDomain m) = true → k < 8 → (d.port m).txLanes.getLsbD k = true →
      ((d.port m).txSpare = true → ∃ e, exec (.selfTest (.portTx m k) true true now) s = s.left e ∧ recorded e 0x0E ∧
        (e.port m).txLanes = ((d.port m).txLanes &&& ~~~(1#9 <<< k)) ||| 0x100#9 ∧ (e.port m).txSpare = false) ∧
      ((d.port m).txSpare = false → ∃ e, exec (.selfTest (.portTx m k) true true now) s = s.left e ∧ recorded e 0x0F ∧
        (e.port m).txLanes = (d.port m).txLanes &&& ~~~(1#9 <<< k) ∧ (e.port m).degraded = true)) ∧
    (d.managerMay r → exec (.dumpStatusRelease r now) s =
      s.left { d with cellar := { d.cellar with dumpValid := false, dumpMissed := 0 }, out := d.out ++ [.regWrite false] })

/-- Power domains (R471 to R473, R476): an off request of a domain that is on lowers its request where the domain's condition holds and is refused otherwise; an on
request of one that is off raises it; the acknowledgement completes the transition, an engine coming on with a new tree key, its clock seeded
at P0, once the DRBG serves (R79); a late one is counted and the domain stays in transition. -/
def Obligations.PowerDomainsSwitchOnAcknowledgement : Prop :=
  ∀ (s : State) (r : Requester) (n now : Nat), n < Kind.domains s.dev.kind →
    let d := s.at now
    let p := d.pdom n
    let bit := BitVec.ofNat 28 (2 ^ n)
    let others (e : Dev) : Prop := ∀ j, j ≠ n → e.pdom j = d.pdom j
    let answered (out : List Out) (e : Dev) : Prop := { e with power := d.power } = { d with out := d.out ++ out ++ [.regWrite false] } ∧ others e
    (d.managerMay r → Kind.switchable s.dev.kind n = true →
      (p.st = .on → d.power.req.getLsbD n = true →
        (d.offAllowed n = true → ∃ e, exec (.powerOffRequest r n now) s = s.goesOn now e ∧ answered [.power n false] e ∧
          e.pdom n = { p with st := .turningOff, aim := none } ∧ e.power.req = d.power.req &&& ~~~bit ∧ e.power.refused = d.power.refused) ∧
        (d.offAllowed n = false → ∃ e, exec (.powerOffRequest r n now) s = s.goesOn now e ∧ answered [] e ∧
          e.pdom n = p ∧ e.power.req = d.power.req ∧ e.power.refused = d.power.refused ||| bit)) ∧
      (p.st = .off → d.power.req.getLsbD n = false →
        ∃ e, exec (.powerOnRequest r n now) s = s.goesOn now e ∧ answered [.power n true] e ∧
          e.pdom n = { p with st := .turningOn } ∧ e.power.req = d.power.req ||| bit)) ∧
    (d.managerMay r → Kind.switchable s.dev.kind n = false →
      (∃ e, exec (.powerOffRequest r n now) s = s.goesOn now e ∧ answered [] e ∧ e.pdom n = p) ∧
      (∃ e, exec (.powerOnRequest r n now) s = s.goesOn now e ∧ answered [] e ∧ e.pdom n = p)) ∧
    (Kind.switchable s.dev.kind n = true →
      (p.st = .turningOff → d.power.req.getLsbD n = false →
        ∃ e, exec (.pwrAck n false now) s = s.goesOn now e ∧ e.powered n = false ∧ (e.pdom n).st = .off ∧ e.out = d.out ∧ others e ∧
          (∀ m, n = 8 + m → m < Kind.engines s.dev.kind → e.eng m = (d.eng m).warm)) ∧
      (p.st = .turningOn → d.canDraws 2 = false → exec (.pwrAck n true now) s = s.goesOn now (d.drawLater (.powerOn n))) ∧
      (p.st = .turningOn → d.canDraws 2 = true →
        ∃ e, exec (.pwrAck n true now) s = s.goesOn now e ∧ e.powered n = true ∧ (e.pdom n).point = 0 ∧ (e.pdom n).floor = p.floor ∧ others e ∧
          (e.pdom n).walk = 0 ∧ (e.pdom n).offset = 200 ∧ (e.pdom n).seed = d.larder.drbg.draws ∧ e.out = d.out ∧
          (∀ m, n = 8 + m → m < Kind.engines s.dev.kind →
            e.eng m = { (d.eng m).warm with treeKey := Config.drbg (d.larder.drbg.draws + 1) (label 0 0 (partForm none) 0 0 0 0) })) ∧
      (p.st = .on ∨ p.st = .off → (∀ level, exec (.pwrAck n level now) s = s.goesOn now d) ∧ exec (.powerAckTimeout n now) s = s.left d) ∧
      (p.st = .turningOn ∨ p.st = .turningOff → exec (.powerAckTimeout n now) s =
        s.left { d with power := { d.power with late := sat 16 (d.power.late + 1) } }))

/-- Clocks, budget and link records (R474 to R476, R478, R480, R481, R504): a loaded island asks for P0 at once and takes it when the voltage has settled, one
that would stay below three quarters at the next lower point for fifty measurements steps down one point, never past its floor; a clock walks within
2% of its point; an epoch takes the strobed word as its budget, carries at most one budget over and ages slow jobs; a record reads as written. -/
def Obligations.ClocksBudgetsAndLinkRecords : Prop :=
  ∀ (s : State) (r : Requester) (n occ queue now : Nat) (v : Word) (w : BitVec 32) (addr : BitVec 10),
    let d := s.at now
    let z := s.at 0
    let p := d.pdom n
    let rate (q : BitVec 2) : Nat := 100 - 20 * q.toNat
    let loaded : Prop := 80 < occ ∨ 50 < queue
    let may : Prop := p.aim = none ∧ p.point ≠ 3 ∧ occ * rate p.point < 75 * rate (p.point + 1)
    let seen : PDomain := { p with occupancy := min 255 occ, queueMax := min 255 queue }
    let becomes (i : Instr) (q : PDomain) (out : List Out) : Prop := ∃ e, exec i s = s.left e ∧ e.pdom n = q ∧
      { e with power := d.power } = { d with out := d.out ++ out } ∧ { e.power with domains := d.power.domains } = d.power ∧
      ∀ j, j ≠ n → e.pdom j = d.pdom j
    (laneIsland s.dev.kind n = true → d.powered n = true →
      (loaded → p.point ≠ 0 → p.aim = none →
        becomes (.dvfsMeasure n occ queue now) { seen with lows := 0, aim := some 0 } [.voltage n 0]) ∧
      (loaded → p.point = 0 → becomes (.dvfsMeasure n occ queue now) { seen with lows := 0 } []) ∧
      (¬ loaded → may → 49 ≤ p.lows → p.point < p.floor →
        becomes (.dvfsMeasure n occ queue now) { seen with lows := 0, point := p.point + 1 } [.voltage n (p.point + 1)]) ∧
      (¬ loaded → may → p.lows < 49 ∨ p.floor ≤ p.point → becomes (.dvfsMeasure n occ queue now) { seen with lows := min 50 (p.lows + 1) } []) ∧
      (¬ loaded → ¬ may → becomes (.dvfsMeasure n occ queue now) { seen with lows := 0 } []) ∧
      (∀ q, p.aim = some q → becomes (.vok n now) { p with point := q, aim := none, lows := 0 } []) ∧
      (p.aim = none → exec (.vok n now) s = s.left d)) ∧
    (n < Kind.domains s.dev.kind →
      (n ≠ 7 → d.powered n = true → d.power.spread = true →
        becomes (.spreadStep n now) { p with walk := p.walk + 1, offset := Config.spreadStep p.seed (p.walk + 1) % 401 } []) ∧
      (n = 7 ∨ d.powered n = false ∨ d.power.spread = false → exec (.spreadStep n now) s = s.left d)) ∧
    (d.managerMay r →
      (d.lc = .manufacture ∨ d.lc = .debug → exec (.clkSpreadWrite r v now) s =
        s.left { d with power := { d.power with spread := v.getLsbD 0 }, out := d.out ++ [.regWrite false] }) ∧
      (d.lc ≠ .manufacture → d.lc ≠ .debug → exec (.clkSpreadWrite r v now) s = s.left { d with out := d.out ++ [.regWrite false] })) ∧
    exec (.budgetStrobe w) s = s.left { z with power := { z.power with word := some w } } ∧
    (∃ e, exec (.budgetEpoch now) s = s.left e ∧ { e with power := d.power, thresh := d.thresh } = d ∧
      e.power.epochs = (d.power.epochs + 1) % 2 ^ 32 ∧ e.power.word = none ∧ e.power.spent = d.power.spent ∧
      (∀ x, d.power.word = some x → e.power.budget = x ∧ e.power.missed = d.power.missed ∧ (e.power.unlimited = true ↔ x = BitVec.allOnes 32) ∧
        (d.power.unlimited = false → e.power.tokens = min (min d.power.tokens x.toNat + x.toNat) (2 ^ 32 - 2))) ∧
      (d.power.word = none → e.power.budget = 0 ∧ e.power.missed = sat 32 (d.power.missed + 1) ∧ e.power.unlimited = false ∧ e.power.tokens = 0) ∧
      ∀ i, let j := d.job i
        (j.st ≠ .queued → j.st ≠ .running → e.job i = j) ∧
        (j.st = .queued ∨ j.st = .running → j.urgent = false →
          (j.epochPassed * unitBytes j.kind * 16 < d.jobRate j.kind * 100000 * Kind.engines d.kind →
            (e.job i).age = j.age + 1 ∧ ((e.job i).urgent = true ↔ d.power.ageLimit ≤ j.age + 1)) ∧
          (d.jobRate j.kind * 100000 * Kind.engines d.kind ≤ j.epochPassed * unitBytes j.kind * 16 → 0 < d.power.ageLimit →
            (e.job i).age = 0 ∧ (e.job i).urgent = false))) ∧
    (addr.toNat / 32 < Kind.ports s.dev.kind →
      (∃ e, exec (.linkStateRecordAccess addr (some v)) s = s.left e ∧ { e with power := z.power } = z ∧
        tget e.power.linkState 0 addr.toNat = v ∧ ∀ a, a ≠ addr.toNat → tget e.power.linkState 0 a = tget z.power.linkState 0 a) ∧
      exec (.linkStateRecordAccess addr none) s = s.left { z with out := z.out ++ [.linkRecord (tget z.power.linkState 0 addr.toNat)] })

/-- Boots and resets (R38, R73, R124, R126, R140, R437, R450 to R452, R466, R496, R501 to R503): a cold boot clears all but the fuses and asks for boot
items; their end, or their time's, once the DRBG's start-up test has passed (R80), makes the session root and reaches READY (in RETIRED the block stays
BOOTING); WARM_RST_N clears threads, partitions, channels,
regions, squares and keys and keeps the Cellar, and the reset ends READY, BOARDED or BOOTING with a record; HALL.BLOCK_RESET asks for one. -/
def Obligations.BootsAndResetsClearAndServe : Prop :=
  ∀ (s : State) (r : Requester) (i3c : Bool) (addr : BitVec 7) (eid : Byte) (cls : BitVec 2) (items b : Bytes) (now : Nat),
    let d := s.at now
    let z := s.at 0
    (∃ e, exec (.coldBoot i3c addr) s = s.left e ∧ e.time = 0 ∧ e.fuses = s.dev.fuses ∧ e.kind = s.dev.kind ∧ e.reset.status = 0 ∧
      e.reset.phase = .cold ∧ e.threads = [] ∧ e.parts = [] ∧ e.regions = [] ∧ e.chans = [] ∧ e.squares = [] ∧ e.cellar = {} ∧ e.hall = {} ∧
      e.intc = {} ∧ e.mgmt.i3c = i3c ∧ e.mgmt.address = addr ∧ tget e.mgmt.measure 0 0 = Config.romDigest ∧
      tget e.mgmt.measure 0 4 = sha384d (floorTable s.dev.kind) ∧ e.mgmt.lcWord = s.dev.fuses.lc ∧
      e.larder.drbg = { draws := max 1 s.dev.larder.drbg.draws } ∧ e.out = s.dev.out ++ [.bootRequest] ∧
      (∀ m, m < Kind.engines s.dev.kind → e.eng m = coldEngine s.dev.kind) ∧ (∀ q, q < Kind.ports s.dev.kind → e.port q = coldPort s.dev.kind)) ∧
    (d.reset.frozen = false →
      (∀ i, i = .boot items now ∨ i = .bootWaitExpiry now → d.reset.phase ≠ .cold → d.reset.phase ≠ .warm → exec i s = s.left d) ∧
      (∀ i, i = .boot items now ∨ i = .bootWaitExpiry now → bootItems (items.length + 1) items = ([], true) → d.reset.staged = false →
        (d.reset.phase = .cold → d.larder.drbg.seeded = false → d.larder.drbg.st = .instantiating → d.larder.subst = [] →
          (d.slot 3).retired = false → (d.slot 4).retired = false →
          ∃ e, exec i s = s.left e ∧ e.reset.phase = .none ∧ e.larder.drbg.st = .ready ∧ e.larder.drbg.seeded = true ∧
            e.resKey 3 = some (Config.drbg d.larder.drbg.draws (label 0 0 (partForm none) 0 0 3 0)) ∧
            (d.reset.status = 0 → d.lc ≠ .retired → e.reset.status = 1)) ∧
        (d.reset.phase = .cold ∨ d.reset.phase = .warm → d.larder.drbg.seeded = false → d.larder.drbg.st ≠ .instantiating →
          exec i s = s.left { d with reset := { d.reset with staged := true } }) ∧
        (d.reset.phase = .cold → d.larder.drbg.seeded = true →
          ∃ e, exec i s = s.left e ∧ e.reset = { d.reset with phase := .none, staged := false, status := if d.lc = .retired then 0 else 1 } ∧
            (∀ m, m < Kind.engines d.kind → e.eng m = { d.eng m with treeKey := Config.drbg (d.larder.drbg.draws + m) (label 0 0 (partForm none) 0 0 0 0) }) ∧
            e.larder.drbg.draws = d.larder.drbg.draws + Kind.engines d.kind ∧ e.mgmt = d.mgmt ∧ e.threads = d.threads) ∧
        (d.reset.phase = .warm → d.larder.drbg.seeded = true → exec i s = s.left { d with reset := { d.reset with phase := .warmDone } })) ∧
      (d.reset.phase = .warm → d.reset.staged = false → d.larder.drbg.seeded = true → bootItems (items.length + 1) items = ([(1, b)], true) →
        d.mgmt.patch = 0 →
        ∃ e, exec (.boot items now) s = s.left e ∧ e.reset.phase = .warmDone ∧ tget e.mgmt.measure 0 1 = sha384d b ∧
          (patchOk b = true → e.mgmt.patch = 1 ∧ e.mgmt.svn = BitVec.ofNat 8 (leAt b 6 1) ∧
            tget e.mgmt.measure 0 2 = Config.dispatchDigest (some b) ∧ e.reset.patchTaken = some b) ∧
          (patchOk b = false → e.mgmt.patch = 2 ∧ e.reset.patchTaken = d.reset.patchTaken ∧
            tget e.mgmt.measure 0 2 = tget d.mgmt.measure 0 2))) ∧
    (d.reset.phase = .cold → exec (.warmReset cls now) s = s.left d) ∧
    (d.reset.phase ≠ .cold → d.reset.request ≠ some 3 →
      ∃ e, exec (.warmReset cls now) s = s.left e ∧ e.reset.status = 2 ∧ e.reset.phase = .warm ∧ e.reset.cls = cls ∧ e.reset.frozen = false ∧ e.reset.staged = false ∧
        e.reset.warmResets = d.reset.warmResets + 1 ∧ e.reset.entry = d.time ∧ e.threads = [] ∧ e.parts = [] ∧ e.chans = [] ∧ e.regions = [] ∧
        e.squares = [] ∧ e.cellar.log = d.cellar.log ∧ e.cellar.head = d.cellar.head ∧ e.hall.nodeValid = (d.hall.nodeValid && cls ≠ 0) ∧
        e.vault.st = .closed ∧ e.vault.sealEvent = d.vault.sealEvent ∧ e.vault.contentKey = 0 ∧
        (∀ k, 96 ≤ k → (∀ i, tget e.larder.subst 0 i ≠ k) → (e.slot k).key = 0) ∧ e.intc.mask = BitVec.allOnes 256 ∧
        (∀ k, k < 256 → e.intc.pend.getLsbD k = (d.intc.pend.getLsbD k && 128 ≤ k)) ∧ e.intc.target = d.intc.target ∧
        e.out.getLast? = some .bootRequest) ∧
    (d.reset.phase ≠ .warmDone ∨ d.reset.frozen = true → exec (.warmResetComplete now) s = s.left d) ∧
    (let limited : Prop := d.mgmt.coldNeeded = true ∨ d.lc = .retired
     d.reset.phase = .warmDone → d.reset.frozen = false →
      ∃ e, exec (.warmResetComplete now) s = s.left e ∧ e.reset.phase = .none ∧ e.reset.lastCls = d.reset.cls ∧ e.reset.lastCause = d.reset.cause ∧
        (limited → e.reset.status = 0) ∧ (¬ limited → e.reset.status = if d.reset.boardedEnd then 3 else 1) ∧
        (d.reset.boardedEnd = false ∨ limited → e.cellar.head = (d.cellar.head + 1) % 2 ^ 32 ∧ e.cellar.boarded = d.cellar.boarded) ∧
        (d.reset.boardedEnd = true → ¬ limited → d.cellar.boarded = false → e.cellar.head = (d.cellar.head + 2) % 2 ^ 32 ∧ e.cellar.boarded = true)) ∧
    (d.managerMay r →
      exec (.blockResetService r now) s =
        s.left { d with reset := { d.reset with request := some 0 }, out := d.out ++ [.resetRequest 0, .regWrite false] } ∧
      exec (.blockResetTest r now) s =
        s.left { d with reset := { d.reset with request := some 2 }, out := d.out ++ [.resetRequest 2, .regWrite false] }) ∧
    (z.mgmt.i3c = true → exec (.dynamicAddressAssignment addr) s = s.left { z with mgmt := { z.mgmt with dynamic := some addr } }) ∧
    (z.mgmt.i3c = false → exec (.dynamicAddressAssignment addr) s = s.left z) ∧
    exec (.endpointIdAssignment eid) s = s.left { z with mgmt := { z.mgmt with eid := eid } }
end

