-- ==== Sys2Proof/Laws/Pantry.lean ====
section
/-! SUPPORT. What the Pantry's set function can do (R279), and what the classes are between which its split moves a way (R281). -/

namespace Sys2Proof.Machine

/-- A set number is below 1,024. -/
theorem pantrySet_lt (m line : Nat) : pantrySet m line < 1024 := by
  unfold pantrySet
  dsimp only
  split
  · exact (Config.pantryHash m (stackArea line) (line % 1024)).isLt
  · exact Nat.mod_lt _ (by decide)

/-- Any 1,024 consecutive lines of one area lie in distinct sets (R279). -/
theorem pantrySet_distinct {m a b : Nat} (hab : a < b) (hb : b < a + 1024) (area : stackArea a = stackArea b) :
    pantrySet m a ≠ pantrySet m b := by
  have hne : a % 1024 ≠ b % 1024 := by omega
  have ha : a % 1024 < 1024 := Nat.mod_lt _ (by decide)
  have hb' : b % 1024 < 1024 := Nat.mod_lt _ (by decide)
  unfold pantrySet
  rw [area]
  dsimp only
  split
  · next h =>
    have apart : ∀ i j, i < j → j < 1024 →
        (Config.pantryHash m (stackArea b) i).toNat ≠ (Config.pantryHash m (stackArea b) j).toNat := fun i j hij hj => by
      have := List.pairwise_iff_getElem.mp h i j (by simp; omega) (by simpa using hj) hij
      simpa using this
    rcases Nat.lt_or_gt_of_ne hne with hlt | hlt
    · exact apart _ _ hlt hb'
    · exact (apart _ _ hlt ha).symm
  · exact hne

/-- Of three numbers one is at most the others, and one at least. -/
theorem exists_least (f : Nat → Nat) : ∃ i, i < 3 ∧ ∀ k, k < 3 → f i ≤ f k := by
  have of (i : Nat) (h : f i ≤ f 0 ∧ f i ≤ f 1 ∧ f i ≤ f 2) : ∀ k, k < 3 → f i ≤ f k
    | 0, _ => h.1
    | 1, _ => h.2.1
    | 2, _ => h.2.2
  rcases Nat.le_total (f 0) (f 1) with h | h
  · rcases Nat.le_total (f 0) (f 2) with g | g
    · exact ⟨0, by decide, of 0 (by omega)⟩
    · exact ⟨2, by decide, of 2 (by omega)⟩
  · rcases Nat.le_total (f 1) (f 2) with g | g
    · exact ⟨1, by decide, of 1 (by omega)⟩
    · exact ⟨2, by decide, of 2 (by omega)⟩

theorem exists_most (f : Nat → Nat) : ∃ i, i < 3 ∧ ∀ k, k < 3 → f k ≤ f i := by
  obtain ⟨i, hi, h⟩ := exists_least fun k => f 0 + f 1 + f 2 - f k
  refine ⟨i, hi, fun k hk => ?_⟩
  have := h k hk
  have bound : ∀ k, k < 3 → f k ≤ f 0 + f 1 + f 2
    | 0, _ => by omega
    | 1, _ => by omega
    | 2, _ => by omega
  have := bound k hk
  have := bound i hi
  omega

/-- The three classes in the order in which a tie takes them are the three classes. -/
theorem mem_order (first k : Nat) : k ∈ [first % 3, (first + 1) % 3, (first + 2) % 3] ↔ k < 3 := by simp; omega

/-- The first of the three classes that a test chooses passes it and is one of them, where one passes. -/
theorem find_order {first : Nat} {ok : Nat → Bool} (h : ∃ k, k < 3 ∧ ok k) :
    let i := ([first % 3, (first + 1) % 3, (first + 2) % 3].find? ok).getD 0
    i < 3 ∧ ok i := by
  obtain ⟨k, hk, ho⟩ := h
  obtain ⟨i, hi⟩ := Option.isSome_iff_exists.mp (List.find?_isSome.mpr ⟨k, (mem_order first k).mpr hk, ho⟩)
  simp only [hi, Option.getD_some]
  exact ⟨(mem_order first i).mp (List.mem_of_find?_eq_some hi), List.find?_some hi⟩

/-- The class that gives up a way is one of the three, and none saved fewer (R281). -/
theorem leastOf_least (first : Nat) (x : Nat × Nat × Nat) :
    leastOf first x < 3 ∧ ∀ k, k < 3 → pick x (leastOf first x) ≤ pick x k := by
  obtain ⟨i, hi, hm⟩ := exists_least (pick x)
  have := find_order (first := first) (ok := fun i => [first % 3, (first + 1) % 3, (first + 2) % 3].all fun j => decide (pick x i ≤ pick x j))
    ⟨i, hi, List.all_eq_true.mpr fun k hk => decide_eq_true (hm k ((mem_order first k).mp hk))⟩
  exact ⟨this.1, fun k hk => of_decide_eq_true (List.all_eq_true.mp this.2 k ((mem_order first k).mpr hk))⟩

/-- The class that takes a way is one of the three, and none missed more (R281). -/
theorem mostOf_most (first : Nat) (x : Nat × Nat × Nat) :
    mostOf first x < 3 ∧ ∀ k, k < 3 → pick x k ≤ pick x (mostOf first x) := by
  obtain ⟨i, hi, hm⟩ := exists_most (pick x)
  have := find_order (first := first) (ok := fun i => [first % 3, (first + 1) % 3, (first + 2) % 3].all fun j => decide (pick x j ≤ pick x i))
    ⟨i, hi, List.all_eq_true.mpr fun k hk => decide_eq_true (hm k ((mem_order first k).mp hk))⟩
  exact ⟨this.1, fun k hk => of_decide_eq_true (List.all_eq_true.mp this.2 k ((mem_order first k).mpr hk))⟩

end Sys2Proof.Machine
end

