-- ==== Sys2Proof/Laws/State.lean ====
section
/-! SUPPORT. What each named update of the block leaves: one lemma for every update and every field, and what tables read
after a change. -/

namespace Sys2Proof.Machine

/-! ## Tables -/

theorem tget_tput_same {α : Type} (t : Tbl α) (d : α) (k : Nat) (v : α) : tget (tput t k v) d k = v := by
  induction t with
  | nil => simp [tput, tget]
  | cons e r ih =>
    obtain ⟨i, w⟩ := e
    simp only [tput]
    split
    · have : i ≠ k := by omega
      simp [tget, this, ih]
    · split <;> simp [tget]

theorem tget_tput_other {α : Type} (t : Tbl α) (d : α) (k j : Nat) (v : α) (h : j ≠ k) : tget (tput t k v) d j = tget t d j := by
  induction t with
  | nil => simp [tput, tget, Ne.symm h]
  | cons e r ih =>
    obtain ⟨i, w⟩ := e
    simp only [tput]
    split
    · simp only [tget]
      split
      · rfl
      · exact ih
    · split
      · rename_i h2
        subst h2
        simp [tget, Ne.symm h]
      · simp [tget, Ne.symm h]

theorem tget_tdel_same {α : Type} (t : Tbl α) (d : α) (k : Nat) : tget (tdel t k) d k = d := by
  induction t with
  | nil => rfl
  | cons e r ih =>
    obtain ⟨i, w⟩ := e
    simp only [tdel]
    split
    · exact ih
    · rename_i h
      simp [tget, h, ih]

theorem tget_tdel_other {α : Type} (t : Tbl α) (d : α) (k j : Nat) (h : j ≠ k) : tget (tdel t k) d j = tget t d j := by
  induction t with
  | nil => rfl
  | cons e r ih =>
    obtain ⟨i, w⟩ := e
    simp only [tdel]
    split
    · rename_i h2
      subst h2
      simp [tget, Ne.symm h, ih]
    · simp only [tget]
      split
      · rfl
      · exact ih

/-- A table reads what was set. -/
@[simp] theorem tget_tset_same {α : Type} [DecidableEq α] (t : Tbl α) (d : α) (k : Nat) (v : α) : tget (tset t d k v) d k = v := by
  unfold tset
  split
  · rename_i h
    rw [h, tget_tdel_same]
  · exact tget_tput_same t d k v

/-- A table reads at every other index as before. -/
theorem tget_tset_other {α : Type} [DecidableEq α] (t : Tbl α) (d : α) (k j : Nat) (v : α) (h : j ≠ k) :
    tget (tset t d k v) d j = tget t d j := by
  unfold tset
  split
  · exact tget_tdel_other t d k j h
  · exact tget_tput_other t d k j v h

/-- A property of every entry stays when one entry that has it is set. -/
theorem all_tset {α : Type} [DecidableEq α] (t : Tbl α) (d : α) (k : Nat) (v : α) (p : Nat × α → Bool) (h : t.all p = true)
    (hv : p (k, v) = true) : (tset t d k v).all p = true := by
  have hd : ∀ t : Tbl α, t.all p = true → (tdel t k).all p = true := by
    intro t
    induction t with
    | nil => simp [tdel]
    | cons e r ih =>
      intro h
      obtain ⟨i, w⟩ := e
      simp only [List.all_cons, Bool.and_eq_true] at h
      simp only [tdel]
      split
      · exact ih h.2
      · simp [h.1, ih h.2]
  have hp : ∀ t : Tbl α, t.all p = true → (tput t k v).all p = true := by
    intro t
    induction t with
    | nil => simp [tput, hv]
    | cons e r ih =>
      intro h
      obtain ⟨i, w⟩ := e
      simp only [List.all_cons, Bool.and_eq_true] at h
      simp only [tput]
      split
      · simp [h.1, ih h.2]
      · split
        · simp [hv, h.2]
        · simp [hv, h.1, h.2]
  unfold tset
  split
  · exact hd t h
  · exact hp t h

/-! ## Reads after updates of one unit -/

@[simp] theorem Dev.th_setTh_same (d : Dev) (n : Nat) (v) : (d.setTh n v).th n = v := by simp [Dev.th, Dev.setTh]

theorem Dev.th_setTh_other (d : Dev) (n m : Nat) (v) (h : m ≠ n) : (d.setTh n v).th m = d.th m := by
  simp [Dev.th, Dev.setTh, tget_tset_other _ _ _ _ _ h]

@[simp] theorem Dev.part_setPart_same (d : Dev) (n : Nat) (v) : (d.setPart n v).part n = v := by simp [Dev.part, Dev.setPart]

theorem Dev.part_setPart_other (d : Dev) (n m : Nat) (v) (h : m ≠ n) : (d.setPart n v).part m = d.part m := by
  simp [Dev.part, Dev.setPart, tget_tset_other _ _ _ _ _ h]

@[simp] theorem Dev.eng_setEng_same (d : Dev) (n : Nat) (v) : (d.setEng n v).eng n = v := by simp [Dev.eng, Dev.setEng]

theorem Dev.eng_setEng_other (d : Dev) (n m : Nat) (v) (h : m ≠ n) : (d.setEng n v).eng m = d.eng m := by
  simp [Dev.eng, Dev.setEng, tget_tset_other _ _ _ _ _ h]

@[simp] theorem Dev.reg_setReg_same (d : Dev) (n : Nat) (v) : (d.setReg n v).reg n = v := by simp [Dev.reg, Dev.setReg]

theorem Dev.reg_setReg_other (d : Dev) (n m : Nat) (v) (h : m ≠ n) : (d.setReg n v).reg m = d.reg m := by
  simp [Dev.reg, Dev.setReg, tget_tset_other _ _ _ _ _ h]

@[simp] theorem Dev.ch_setCh_same (d : Dev) (n : Nat) (v) : (d.setCh n v).ch n = v := by simp [Dev.ch, Dev.setCh]

theorem Dev.ch_setCh_other (d : Dev) (n m : Nat) (v) (h : m ≠ n) : (d.setCh n v).ch m = d.ch m := by
  simp [Dev.ch, Dev.setCh, tget_tset_other _ _ _ _ _ h]

@[simp] theorem Dev.sq_setSq_same (d : Dev) (n : Nat) (v) : (d.setSq n v).sq n = v := by simp [Dev.sq, Dev.setSq]

theorem Dev.sq_setSq_other (d : Dev) (n m : Nat) (v) (h : m ≠ n) : (d.setSq n v).sq m = d.sq m := by
  simp [Dev.sq, Dev.setSq, tget_tset_other _ _ _ _ _ h]

@[simp] theorem Dev.th_onTh_same (d : Dev) (n : Nat) (f) : (d.onTh n f).th n = f (d.th n) := by simp [Dev.onTh]

theorem Dev.th_onTh_other (d : Dev) (n m : Nat) (f) (h : m ≠ n) : (d.onTh n f).th m = d.th m := by
  simp [Dev.onTh, Dev.th_setTh_other _ _ _ _ h]

@[simp] theorem Dev.part_onPart_same (d : Dev) (n : Nat) (f) : (d.onPart n f).part n = f (d.part n) := by simp [Dev.onPart]

theorem Dev.part_onPart_other (d : Dev) (n m : Nat) (f) (h : m ≠ n) : (d.onPart n f).part m = d.part m := by
  simp [Dev.onPart, Dev.part_setPart_other _ _ _ _ h]

@[simp] theorem Dev.eng_onEng_same (d : Dev) (n : Nat) (f) : (d.onEng n f).eng n = f (d.eng n) := by simp [Dev.onEng]

theorem Dev.eng_onEng_other (d : Dev) (n m : Nat) (f) (h : m ≠ n) : (d.onEng n f).eng m = d.eng m := by
  simp [Dev.onEng, Dev.eng_setEng_other _ _ _ _ h]

@[simp] theorem Dev.reg_onReg_same (d : Dev) (n : Nat) (f) : (d.onReg n f).reg n = f (d.reg n) := by simp [Dev.onReg]

theorem Dev.reg_onReg_other (d : Dev) (n m : Nat) (f) (h : m ≠ n) : (d.onReg n f).reg m = d.reg m := by
  simp [Dev.onReg, Dev.reg_setReg_other _ _ _ _ h]

@[simp] theorem Dev.ch_onCh_same (d : Dev) (n : Nat) (f) : (d.onCh n f).ch n = f (d.ch n) := by simp [Dev.onCh]

theorem Dev.ch_onCh_other (d : Dev) (n m : Nat) (f) (h : m ≠ n) : (d.onCh n f).ch m = d.ch m := by
  simp [Dev.onCh, Dev.ch_setCh_other _ _ _ _ h]

@[simp] theorem Dev.sq_onSq_same (d : Dev) (n : Nat) (f) : (d.onSq n f).sq n = f (d.sq n) := by simp [Dev.onSq]

theorem Dev.sq_onSq_other (d : Dev) (n m : Nat) (f) (h : m ≠ n) : (d.onSq n f).sq m = d.sq m := by
  simp [Dev.onSq, Dev.sq_setSq_other _ _ _ _ h]

@[simp] theorem Dev.port_onPort_same (d : Dev) (n : Nat) (f) : (d.onPort n f).port n = f (d.port n) := by
  simp [Dev.port, Dev.onPort, tmod]

theorem Dev.port_onPort_other (d : Dev) (n m : Nat) (f) (h : m ≠ n) : (d.onPort n f).port m = d.port m := by
  simp [Dev.port, Dev.onPort, tmod, tget_tset_other _ _ _ _ _ h]

@[simp] theorem Dev.pdom_onPdom_same (d : Dev) (n : Nat) (f) : (d.onPdom n f).pdom n = f (d.pdom n) := by
  simp [Dev.pdom, Dev.onPdom, tmod]

theorem Dev.pdom_onPdom_other (d : Dev) (n m : Nat) (f) (h : m ≠ n) : (d.onPdom n f).pdom m = d.pdom m := by
  simp [Dev.pdom, Dev.onPdom, tmod, tget_tset_other _ _ _ _ _ h]

@[simp] theorem Dev.slot_onSlot_same (d : Dev) (n : Nat) (f) : (d.onSlot n f).slot n = f (d.slot n) := by
  simp [Dev.slot, Dev.onSlot, Dev.setSlot]

theorem Dev.slot_onSlot_other (d : Dev) (n m : Nat) (f) (h : m ≠ n) : (d.onSlot n f).slot m = d.slot m := by
  simp [Dev.slot, Dev.onSlot, Dev.setSlot, tget_tset_other _ _ _ _ _ h]

@[simp] theorem Dev.job_onJob_same (d : Dev) (n : Nat) (f) : (d.onJob n f).job n = f (d.job n) := by
  simp [Dev.job, Dev.onJob, Dev.setJob]

theorem Dev.job_onJob_other (d : Dev) (n m : Nat) (f) (h : m ≠ n) : (d.onJob n f).job m = d.job m := by
  simp [Dev.job, Dev.onJob, Dev.setJob, tget_tset_other _ _ _ _ _ h]

/-! ## Fields after updates -/

@[simp] theorem Dev.setTh_kind (d : Dev) (n : Nat) (v) : (d.setTh n v).kind = d.kind := rfl
@[simp] theorem Dev.setTh_time (d : Dev) (n : Nat) (v) : (d.setTh n v).time = d.time := rfl
@[simp] theorem Dev.setTh_reset (d : Dev) (n : Nat) (v) : (d.setTh n v).reset = d.reset := rfl
@[simp] theorem Dev.setTh_fuses (d : Dev) (n : Nat) (v) : (d.setTh n v).fuses = d.fuses := rfl
@[simp] theorem Dev.setTh_hall (d : Dev) (n : Nat) (v) : (d.setTh n v).hall = d.hall := rfl
@[simp] theorem Dev.setTh_lastPicked (d : Dev) (n : Nat) (v) : (d.setTh n v).lastPicked = d.lastPicked := rfl
@[simp] theorem Dev.setTh_larder (d : Dev) (n : Nat) (v) : (d.setTh n v).larder = d.larder := rfl
@[simp] theorem Dev.setTh_mgmt (d : Dev) (n : Nat) (v) : (d.setTh n v).mgmt = d.mgmt := rfl
@[simp] theorem Dev.setTh_host (d : Dev) (n : Nat) (v) : (d.setTh n v).host = d.host := rfl
@[simp] theorem Dev.setTh_parts (d : Dev) (n : Nat) (v) : (d.setTh n v).parts = d.parts := rfl
@[simp] theorem Dev.setTh_regionPool (d : Dev) (n : Nat) (v) : (d.setTh n v).regionPool = d.regionPool := rfl
@[simp] theorem Dev.setTh_chanPool (d : Dev) (n : Nat) (v) : (d.setTh n v).chanPool = d.chanPool := rfl
@[simp] theorem Dev.setTh_squarePool (d : Dev) (n : Nat) (v) : (d.setTh n v).squarePool = d.squarePool := rfl
@[simp] theorem Dev.setTh_chans (d : Dev) (n : Nat) (v) : (d.setTh n v).chans = d.chans := rfl
@[simp] theorem Dev.setTh_ports (d : Dev) (n : Nat) (v) : (d.setTh n v).ports = d.ports := rfl
@[simp] theorem Dev.setTh_squares (d : Dev) (n : Nat) (v) : (d.setTh n v).squares = d.squares := rfl
@[simp] theorem Dev.setTh_sqReads (d : Dev) (n : Nat) (v) : (d.setTh n v).sqReads = d.sqReads := rfl
@[simp] theorem Dev.setTh_sqResps (d : Dev) (n : Nat) (v) : (d.setTh n v).sqResps = d.sqResps := rfl
@[simp] theorem Dev.setTh_merge (d : Dev) (n : Nat) (v) : (d.setTh n v).merge = d.merge := rfl
@[simp] theorem Dev.setTh_parked (d : Dev) (n : Nat) (v) : (d.setTh n v).parked = d.parked := rfl
@[simp] theorem Dev.setTh_assembling (d : Dev) (n : Nat) (v) : (d.setTh n v).assembling = d.assembling := rfl
@[simp] theorem Dev.setTh_inbox (d : Dev) (n : Nat) (v) : (d.setTh n v).inbox = d.inbox := rfl
@[simp] theorem Dev.setTh_engines (d : Dev) (n : Nat) (v) : (d.setTh n v).engines = d.engines := rfl
@[simp] theorem Dev.setTh_regions (d : Dev) (n : Nat) (v) : (d.setTh n v).regions = d.regions := rfl
@[simp] theorem Dev.setTh_thresh (d : Dev) (n : Nat) (v) : (d.setTh n v).thresh = d.thresh := rfl
@[simp] theorem Dev.setTh_vault (d : Dev) (n : Nat) (v) : (d.setTh n v).vault = d.vault := rfl
@[simp] theorem Dev.setTh_count (d : Dev) (n : Nat) (v) : (d.setTh n v).count = d.count := rfl
@[simp] theorem Dev.setTh_attic (d : Dev) (n : Nat) (v) : (d.setTh n v).attic = d.attic := rfl
@[simp] theorem Dev.setTh_intc (d : Dev) (n : Nat) (v) : (d.setTh n v).intc = d.intc := rfl
@[simp] theorem Dev.setTh_cellar (d : Dev) (n : Nat) (v) : (d.setTh n v).cellar = d.cellar := rfl
@[simp] theorem Dev.setTh_power (d : Dev) (n : Nat) (v) : (d.setTh n v).power = d.power := rfl
@[simp] theorem Dev.setTh_drawWait (d : Dev) (n : Nat) (v) : (d.setTh n v).drawWait = d.drawWait := rfl
@[simp] theorem Dev.setTh_opSeq (d : Dev) (n : Nat) (v) : (d.setTh n v).opSeq = d.opSeq := rfl
@[simp] theorem Dev.setTh_free (d : Dev) (n : Nat) (v) : (d.setTh n v).free = d.free := rfl
@[simp] theorem Dev.setTh_out (d : Dev) (n : Nat) (v) : (d.setTh n v).out = d.out := rfl

@[simp] theorem Dev.onTh_kind (d : Dev) (n : Nat) (f) : (d.onTh n f).kind = d.kind := rfl
@[simp] theorem Dev.onTh_time (d : Dev) (n : Nat) (f) : (d.onTh n f).time = d.time := rfl
@[simp] theorem Dev.onTh_reset (d : Dev) (n : Nat) (f) : (d.onTh n f).reset = d.reset := rfl
@[simp] theorem Dev.onTh_fuses (d : Dev) (n : Nat) (f) : (d.onTh n f).fuses = d.fuses := rfl
@[simp] theorem Dev.onTh_hall (d : Dev) (n : Nat) (f) : (d.onTh n f).hall = d.hall := rfl
@[simp] theorem Dev.onTh_lastPicked (d : Dev) (n : Nat) (f) : (d.onTh n f).lastPicked = d.lastPicked := rfl
@[simp] theorem Dev.onTh_larder (d : Dev) (n : Nat) (f) : (d.onTh n f).larder = d.larder := rfl
@[simp] theorem Dev.onTh_mgmt (d : Dev) (n : Nat) (f) : (d.onTh n f).mgmt = d.mgmt := rfl
@[simp] theorem Dev.onTh_host (d : Dev) (n : Nat) (f) : (d.onTh n f).host = d.host := rfl
@[simp] theorem Dev.onTh_parts (d : Dev) (n : Nat) (f) : (d.onTh n f).parts = d.parts := rfl
@[simp] theorem Dev.onTh_regionPool (d : Dev) (n : Nat) (f) : (d.onTh n f).regionPool = d.regionPool := rfl
@[simp] theorem Dev.onTh_chanPool (d : Dev) (n : Nat) (f) : (d.onTh n f).chanPool = d.chanPool := rfl
@[simp] theorem Dev.onTh_squarePool (d : Dev) (n : Nat) (f) : (d.onTh n f).squarePool = d.squarePool := rfl
@[simp] theorem Dev.onTh_chans (d : Dev) (n : Nat) (f) : (d.onTh n f).chans = d.chans := rfl
@[simp] theorem Dev.onTh_ports (d : Dev) (n : Nat) (f) : (d.onTh n f).ports = d.ports := rfl
@[simp] theorem Dev.onTh_squares (d : Dev) (n : Nat) (f) : (d.onTh n f).squares = d.squares := rfl
@[simp] theorem Dev.onTh_sqReads (d : Dev) (n : Nat) (f) : (d.onTh n f).sqReads = d.sqReads := rfl
@[simp] theorem Dev.onTh_sqResps (d : Dev) (n : Nat) (f) : (d.onTh n f).sqResps = d.sqResps := rfl
@[simp] theorem Dev.onTh_merge (d : Dev) (n : Nat) (f) : (d.onTh n f).merge = d.merge := rfl
@[simp] theorem Dev.onTh_parked (d : Dev) (n : Nat) (f) : (d.onTh n f).parked = d.parked := rfl
@[simp] theorem Dev.onTh_assembling (d : Dev) (n : Nat) (f) : (d.onTh n f).assembling = d.assembling := rfl
@[simp] theorem Dev.onTh_inbox (d : Dev) (n : Nat) (f) : (d.onTh n f).inbox = d.inbox := rfl
@[simp] theorem Dev.onTh_engines (d : Dev) (n : Nat) (f) : (d.onTh n f).engines = d.engines := rfl
@[simp] theorem Dev.onTh_regions (d : Dev) (n : Nat) (f) : (d.onTh n f).regions = d.regions := rfl
@[simp] theorem Dev.onTh_thresh (d : Dev) (n : Nat) (f) : (d.onTh n f).thresh = d.thresh := rfl
@[simp] theorem Dev.onTh_vault (d : Dev) (n : Nat) (f) : (d.onTh n f).vault = d.vault := rfl
@[simp] theorem Dev.onTh_count (d : Dev) (n : Nat) (f) : (d.onTh n f).count = d.count := rfl
@[simp] theorem Dev.onTh_attic (d : Dev) (n : Nat) (f) : (d.onTh n f).attic = d.attic := rfl
@[simp] theorem Dev.onTh_intc (d : Dev) (n : Nat) (f) : (d.onTh n f).intc = d.intc := rfl
@[simp] theorem Dev.onTh_cellar (d : Dev) (n : Nat) (f) : (d.onTh n f).cellar = d.cellar := rfl
@[simp] theorem Dev.onTh_power (d : Dev) (n : Nat) (f) : (d.onTh n f).power = d.power := rfl
@[simp] theorem Dev.onTh_drawWait (d : Dev) (n : Nat) (f) : (d.onTh n f).drawWait = d.drawWait := rfl
@[simp] theorem Dev.onTh_opSeq (d : Dev) (n : Nat) (f) : (d.onTh n f).opSeq = d.opSeq := rfl
@[simp] theorem Dev.onTh_free (d : Dev) (n : Nat) (f) : (d.onTh n f).free = d.free := rfl
@[simp] theorem Dev.onTh_out (d : Dev) (n : Nat) (f) : (d.onTh n f).out = d.out := rfl

@[simp] theorem Dev.setPart_kind (d : Dev) (n : Nat) (v) : (d.setPart n v).kind = d.kind := rfl
@[simp] theorem Dev.setPart_time (d : Dev) (n : Nat) (v) : (d.setPart n v).time = d.time := rfl
@[simp] theorem Dev.setPart_reset (d : Dev) (n : Nat) (v) : (d.setPart n v).reset = d.reset := rfl
@[simp] theorem Dev.setPart_fuses (d : Dev) (n : Nat) (v) : (d.setPart n v).fuses = d.fuses := rfl
@[simp] theorem Dev.setPart_hall (d : Dev) (n : Nat) (v) : (d.setPart n v).hall = d.hall := rfl
@[simp] theorem Dev.setPart_threads (d : Dev) (n : Nat) (v) : (d.setPart n v).threads = d.threads := rfl
@[simp] theorem Dev.setPart_lastPicked (d : Dev) (n : Nat) (v) : (d.setPart n v).lastPicked = d.lastPicked := rfl
@[simp] theorem Dev.setPart_larder (d : Dev) (n : Nat) (v) : (d.setPart n v).larder = d.larder := rfl
@[simp] theorem Dev.setPart_mgmt (d : Dev) (n : Nat) (v) : (d.setPart n v).mgmt = d.mgmt := rfl
@[simp] theorem Dev.setPart_host (d : Dev) (n : Nat) (v) : (d.setPart n v).host = d.host := rfl
@[simp] theorem Dev.setPart_regionPool (d : Dev) (n : Nat) (v) : (d.setPart n v).regionPool = d.regionPool := rfl
@[simp] theorem Dev.setPart_chanPool (d : Dev) (n : Nat) (v) : (d.setPart n v).chanPool = d.chanPool := rfl
@[simp] theorem Dev.setPart_squarePool (d : Dev) (n : Nat) (v) : (d.setPart n v).squarePool = d.squarePool := rfl
@[simp] theorem Dev.setPart_chans (d : Dev) (n : Nat) (v) : (d.setPart n v).chans = d.chans := rfl
@[simp] theorem Dev.setPart_ports (d : Dev) (n : Nat) (v) : (d.setPart n v).ports = d.ports := rfl
@[simp] theorem Dev.setPart_squares (d : Dev) (n : Nat) (v) : (d.setPart n v).squares = d.squares := rfl
@[simp] theorem Dev.setPart_sqReads (d : Dev) (n : Nat) (v) : (d.setPart n v).sqReads = d.sqReads := rfl
@[simp] theorem Dev.setPart_sqResps (d : Dev) (n : Nat) (v) : (d.setPart n v).sqResps = d.sqResps := rfl
@[simp] theorem Dev.setPart_merge (d : Dev) (n : Nat) (v) : (d.setPart n v).merge = d.merge := rfl
@[simp] theorem Dev.setPart_parked (d : Dev) (n : Nat) (v) : (d.setPart n v).parked = d.parked := rfl
@[simp] theorem Dev.setPart_assembling (d : Dev) (n : Nat) (v) : (d.setPart n v).assembling = d.assembling := rfl
@[simp] theorem Dev.setPart_inbox (d : Dev) (n : Nat) (v) : (d.setPart n v).inbox = d.inbox := rfl
@[simp] theorem Dev.setPart_engines (d : Dev) (n : Nat) (v) : (d.setPart n v).engines = d.engines := rfl
@[simp] theorem Dev.setPart_regions (d : Dev) (n : Nat) (v) : (d.setPart n v).regions = d.regions := rfl
@[simp] theorem Dev.setPart_thresh (d : Dev) (n : Nat) (v) : (d.setPart n v).thresh = d.thresh := rfl
@[simp] theorem Dev.setPart_vault (d : Dev) (n : Nat) (v) : (d.setPart n v).vault = d.vault := rfl
@[simp] theorem Dev.setPart_count (d : Dev) (n : Nat) (v) : (d.setPart n v).count = d.count := rfl
@[simp] theorem Dev.setPart_attic (d : Dev) (n : Nat) (v) : (d.setPart n v).attic = d.attic := rfl
@[simp] theorem Dev.setPart_intc (d : Dev) (n : Nat) (v) : (d.setPart n v).intc = d.intc := rfl
@[simp] theorem Dev.setPart_cellar (d : Dev) (n : Nat) (v) : (d.setPart n v).cellar = d.cellar := rfl
@[simp] theorem Dev.setPart_power (d : Dev) (n : Nat) (v) : (d.setPart n v).power = d.power := rfl
@[simp] theorem Dev.setPart_drawWait (d : Dev) (n : Nat) (v) : (d.setPart n v).drawWait = d.drawWait := rfl
@[simp] theorem Dev.setPart_opSeq (d : Dev) (n : Nat) (v) : (d.setPart n v).opSeq = d.opSeq := rfl
@[simp] theorem Dev.setPart_free (d : Dev) (n : Nat) (v) : (d.setPart n v).free = d.free := rfl
@[simp] theorem Dev.setPart_out (d : Dev) (n : Nat) (v) : (d.setPart n v).out = d.out := rfl

@[simp] theorem Dev.onPart_kind (d : Dev) (n : Nat) (f) : (d.onPart n f).kind = d.kind := rfl
@[simp] theorem Dev.onPart_time (d : Dev) (n : Nat) (f) : (d.onPart n f).time = d.time := rfl
@[simp] theorem Dev.onPart_reset (d : Dev) (n : Nat) (f) : (d.onPart n f).reset = d.reset := rfl
@[simp] theorem Dev.onPart_fuses (d : Dev) (n : Nat) (f) : (d.onPart n f).fuses = d.fuses := rfl
@[simp] theorem Dev.onPart_hall (d : Dev) (n : Nat) (f) : (d.onPart n f).hall = d.hall := rfl
@[simp] theorem Dev.onPart_threads (d : Dev) (n : Nat) (f) : (d.onPart n f).threads = d.threads := rfl
@[simp] theorem Dev.onPart_lastPicked (d : Dev) (n : Nat) (f) : (d.onPart n f).lastPicked = d.lastPicked := rfl
@[simp] theorem Dev.onPart_larder (d : Dev) (n : Nat) (f) : (d.onPart n f).larder = d.larder := rfl
@[simp] theorem Dev.onPart_mgmt (d : Dev) (n : Nat) (f) : (d.onPart n f).mgmt = d.mgmt := rfl
@[simp] theorem Dev.onPart_host (d : Dev) (n : Nat) (f) : (d.onPart n f).host = d.host := rfl
@[simp] theorem Dev.onPart_regionPool (d : Dev) (n : Nat) (f) : (d.onPart n f).regionPool = d.regionPool := rfl
@[simp] theorem Dev.onPart_chanPool (d : Dev) (n : Nat) (f) : (d.onPart n f).chanPool = d.chanPool := rfl
@[simp] theorem Dev.onPart_squarePool (d : Dev) (n : Nat) (f) : (d.onPart n f).squarePool = d.squarePool := rfl
@[simp] theorem Dev.onPart_chans (d : Dev) (n : Nat) (f) : (d.onPart n f).chans = d.chans := rfl
@[simp] theorem Dev.onPart_ports (d : Dev) (n : Nat) (f) : (d.onPart n f).ports = d.ports := rfl
@[simp] theorem Dev.onPart_squares (d : Dev) (n : Nat) (f) : (d.onPart n f).squares = d.squares := rfl
@[simp] theorem Dev.onPart_sqReads (d : Dev) (n : Nat) (f) : (d.onPart n f).sqReads = d.sqReads := rfl
@[simp] theorem Dev.onPart_sqResps (d : Dev) (n : Nat) (f) : (d.onPart n f).sqResps = d.sqResps := rfl
@[simp] theorem Dev.onPart_merge (d : Dev) (n : Nat) (f) : (d.onPart n f).merge = d.merge := rfl
@[simp] theorem Dev.onPart_parked (d : Dev) (n : Nat) (f) : (d.onPart n f).parked = d.parked := rfl
@[simp] theorem Dev.onPart_assembling (d : Dev) (n : Nat) (f) : (d.onPart n f).assembling = d.assembling := rfl
@[simp] theorem Dev.onPart_inbox (d : Dev) (n : Nat) (f) : (d.onPart n f).inbox = d.inbox := rfl
@[simp] theorem Dev.onPart_engines (d : Dev) (n : Nat) (f) : (d.onPart n f).engines = d.engines := rfl
@[simp] theorem Dev.onPart_regions (d : Dev) (n : Nat) (f) : (d.onPart n f).regions = d.regions := rfl
@[simp] theorem Dev.onPart_thresh (d : Dev) (n : Nat) (f) : (d.onPart n f).thresh = d.thresh := rfl
@[simp] theorem Dev.onPart_vault (d : Dev) (n : Nat) (f) : (d.onPart n f).vault = d.vault := rfl
@[simp] theorem Dev.onPart_count (d : Dev) (n : Nat) (f) : (d.onPart n f).count = d.count := rfl
@[simp] theorem Dev.onPart_attic (d : Dev) (n : Nat) (f) : (d.onPart n f).attic = d.attic := rfl
@[simp] theorem Dev.onPart_intc (d : Dev) (n : Nat) (f) : (d.onPart n f).intc = d.intc := rfl
@[simp] theorem Dev.onPart_cellar (d : Dev) (n : Nat) (f) : (d.onPart n f).cellar = d.cellar := rfl
@[simp] theorem Dev.onPart_power (d : Dev) (n : Nat) (f) : (d.onPart n f).power = d.power := rfl
@[simp] theorem Dev.onPart_drawWait (d : Dev) (n : Nat) (f) : (d.onPart n f).drawWait = d.drawWait := rfl
@[simp] theorem Dev.onPart_opSeq (d : Dev) (n : Nat) (f) : (d.onPart n f).opSeq = d.opSeq := rfl
@[simp] theorem Dev.onPart_free (d : Dev) (n : Nat) (f) : (d.onPart n f).free = d.free := rfl
@[simp] theorem Dev.onPart_out (d : Dev) (n : Nat) (f) : (d.onPart n f).out = d.out := rfl

@[simp] theorem Dev.onDom_kind (d : Dev) (n : Nat) (f) : (d.onDom n f).kind = d.kind := rfl
@[simp] theorem Dev.onDom_time (d : Dev) (n : Nat) (f) : (d.onDom n f).time = d.time := rfl
@[simp] theorem Dev.onDom_reset (d : Dev) (n : Nat) (f) : (d.onDom n f).reset = d.reset := rfl
@[simp] theorem Dev.onDom_fuses (d : Dev) (n : Nat) (f) : (d.onDom n f).fuses = d.fuses := rfl
@[simp] theorem Dev.onDom_hall (d : Dev) (n : Nat) (f) : (d.onDom n f).hall = d.hall := rfl
@[simp] theorem Dev.onDom_threads (d : Dev) (n : Nat) (f) : (d.onDom n f).threads = d.threads := rfl
@[simp] theorem Dev.onDom_lastPicked (d : Dev) (n : Nat) (f) : (d.onDom n f).lastPicked = d.lastPicked := rfl
@[simp] theorem Dev.onDom_larder (d : Dev) (n : Nat) (f) : (d.onDom n f).larder = d.larder := rfl
@[simp] theorem Dev.onDom_mgmt (d : Dev) (n : Nat) (f) : (d.onDom n f).mgmt = d.mgmt := rfl
@[simp] theorem Dev.onDom_host (d : Dev) (n : Nat) (f) : (d.onDom n f).host = d.host := rfl
@[simp] theorem Dev.onDom_regionPool (d : Dev) (n : Nat) (f) : (d.onDom n f).regionPool = d.regionPool := rfl
@[simp] theorem Dev.onDom_chanPool (d : Dev) (n : Nat) (f) : (d.onDom n f).chanPool = d.chanPool := rfl
@[simp] theorem Dev.onDom_squarePool (d : Dev) (n : Nat) (f) : (d.onDom n f).squarePool = d.squarePool := rfl
@[simp] theorem Dev.onDom_chans (d : Dev) (n : Nat) (f) : (d.onDom n f).chans = d.chans := rfl
@[simp] theorem Dev.onDom_ports (d : Dev) (n : Nat) (f) : (d.onDom n f).ports = d.ports := rfl
@[simp] theorem Dev.onDom_squares (d : Dev) (n : Nat) (f) : (d.onDom n f).squares = d.squares := rfl
@[simp] theorem Dev.onDom_sqReads (d : Dev) (n : Nat) (f) : (d.onDom n f).sqReads = d.sqReads := rfl
@[simp] theorem Dev.onDom_sqResps (d : Dev) (n : Nat) (f) : (d.onDom n f).sqResps = d.sqResps := rfl
@[simp] theorem Dev.onDom_merge (d : Dev) (n : Nat) (f) : (d.onDom n f).merge = d.merge := rfl
@[simp] theorem Dev.onDom_parked (d : Dev) (n : Nat) (f) : (d.onDom n f).parked = d.parked := rfl
@[simp] theorem Dev.onDom_assembling (d : Dev) (n : Nat) (f) : (d.onDom n f).assembling = d.assembling := rfl
@[simp] theorem Dev.onDom_inbox (d : Dev) (n : Nat) (f) : (d.onDom n f).inbox = d.inbox := rfl
@[simp] theorem Dev.onDom_engines (d : Dev) (n : Nat) (f) : (d.onDom n f).engines = d.engines := rfl
@[simp] theorem Dev.onDom_regions (d : Dev) (n : Nat) (f) : (d.onDom n f).regions = d.regions := rfl
@[simp] theorem Dev.onDom_thresh (d : Dev) (n : Nat) (f) : (d.onDom n f).thresh = d.thresh := rfl
@[simp] theorem Dev.onDom_vault (d : Dev) (n : Nat) (f) : (d.onDom n f).vault = d.vault := rfl
@[simp] theorem Dev.onDom_count (d : Dev) (n : Nat) (f) : (d.onDom n f).count = d.count := rfl
@[simp] theorem Dev.onDom_attic (d : Dev) (n : Nat) (f) : (d.onDom n f).attic = d.attic := rfl
@[simp] theorem Dev.onDom_intc (d : Dev) (n : Nat) (f) : (d.onDom n f).intc = d.intc := rfl
@[simp] theorem Dev.onDom_cellar (d : Dev) (n : Nat) (f) : (d.onDom n f).cellar = d.cellar := rfl
@[simp] theorem Dev.onDom_power (d : Dev) (n : Nat) (f) : (d.onDom n f).power = d.power := rfl
@[simp] theorem Dev.onDom_drawWait (d : Dev) (n : Nat) (f) : (d.onDom n f).drawWait = d.drawWait := rfl
@[simp] theorem Dev.onDom_opSeq (d : Dev) (n : Nat) (f) : (d.onDom n f).opSeq = d.opSeq := rfl
@[simp] theorem Dev.onDom_free (d : Dev) (n : Nat) (f) : (d.onDom n f).free = d.free := rfl
@[simp] theorem Dev.onDom_out (d : Dev) (n : Nat) (f) : (d.onDom n f).out = d.out := rfl

@[simp] theorem Dev.onPort_kind (d : Dev) (n : Nat) (f) : (d.onPort n f).kind = d.kind := rfl
@[simp] theorem Dev.onPort_time (d : Dev) (n : Nat) (f) : (d.onPort n f).time = d.time := rfl
@[simp] theorem Dev.onPort_reset (d : Dev) (n : Nat) (f) : (d.onPort n f).reset = d.reset := rfl
@[simp] theorem Dev.onPort_fuses (d : Dev) (n : Nat) (f) : (d.onPort n f).fuses = d.fuses := rfl
@[simp] theorem Dev.onPort_hall (d : Dev) (n : Nat) (f) : (d.onPort n f).hall = d.hall := rfl
@[simp] theorem Dev.onPort_threads (d : Dev) (n : Nat) (f) : (d.onPort n f).threads = d.threads := rfl
@[simp] theorem Dev.onPort_lastPicked (d : Dev) (n : Nat) (f) : (d.onPort n f).lastPicked = d.lastPicked := rfl
@[simp] theorem Dev.onPort_larder (d : Dev) (n : Nat) (f) : (d.onPort n f).larder = d.larder := rfl
@[simp] theorem Dev.onPort_mgmt (d : Dev) (n : Nat) (f) : (d.onPort n f).mgmt = d.mgmt := rfl
@[simp] theorem Dev.onPort_host (d : Dev) (n : Nat) (f) : (d.onPort n f).host = d.host := rfl
@[simp] theorem Dev.onPort_parts (d : Dev) (n : Nat) (f) : (d.onPort n f).parts = d.parts := rfl
@[simp] theorem Dev.onPort_regionPool (d : Dev) (n : Nat) (f) : (d.onPort n f).regionPool = d.regionPool := rfl
@[simp] theorem Dev.onPort_chanPool (d : Dev) (n : Nat) (f) : (d.onPort n f).chanPool = d.chanPool := rfl
@[simp] theorem Dev.onPort_squarePool (d : Dev) (n : Nat) (f) : (d.onPort n f).squarePool = d.squarePool := rfl
@[simp] theorem Dev.onPort_chans (d : Dev) (n : Nat) (f) : (d.onPort n f).chans = d.chans := rfl
@[simp] theorem Dev.onPort_squares (d : Dev) (n : Nat) (f) : (d.onPort n f).squares = d.squares := rfl
@[simp] theorem Dev.onPort_sqReads (d : Dev) (n : Nat) (f) : (d.onPort n f).sqReads = d.sqReads := rfl
@[simp] theorem Dev.onPort_sqResps (d : Dev) (n : Nat) (f) : (d.onPort n f).sqResps = d.sqResps := rfl
@[simp] theorem Dev.onPort_merge (d : Dev) (n : Nat) (f) : (d.onPort n f).merge = d.merge := rfl
@[simp] theorem Dev.onPort_parked (d : Dev) (n : Nat) (f) : (d.onPort n f).parked = d.parked := rfl
@[simp] theorem Dev.onPort_assembling (d : Dev) (n : Nat) (f) : (d.onPort n f).assembling = d.assembling := rfl
@[simp] theorem Dev.onPort_inbox (d : Dev) (n : Nat) (f) : (d.onPort n f).inbox = d.inbox := rfl
@[simp] theorem Dev.onPort_engines (d : Dev) (n : Nat) (f) : (d.onPort n f).engines = d.engines := rfl
@[simp] theorem Dev.onPort_regions (d : Dev) (n : Nat) (f) : (d.onPort n f).regions = d.regions := rfl
@[simp] theorem Dev.onPort_thresh (d : Dev) (n : Nat) (f) : (d.onPort n f).thresh = d.thresh := rfl
@[simp] theorem Dev.onPort_vault (d : Dev) (n : Nat) (f) : (d.onPort n f).vault = d.vault := rfl
@[simp] theorem Dev.onPort_count (d : Dev) (n : Nat) (f) : (d.onPort n f).count = d.count := rfl
@[simp] theorem Dev.onPort_attic (d : Dev) (n : Nat) (f) : (d.onPort n f).attic = d.attic := rfl
@[simp] theorem Dev.onPort_intc (d : Dev) (n : Nat) (f) : (d.onPort n f).intc = d.intc := rfl
@[simp] theorem Dev.onPort_cellar (d : Dev) (n : Nat) (f) : (d.onPort n f).cellar = d.cellar := rfl
@[simp] theorem Dev.onPort_power (d : Dev) (n : Nat) (f) : (d.onPort n f).power = d.power := rfl
@[simp] theorem Dev.onPort_drawWait (d : Dev) (n : Nat) (f) : (d.onPort n f).drawWait = d.drawWait := rfl
@[simp] theorem Dev.onPort_opSeq (d : Dev) (n : Nat) (f) : (d.onPort n f).opSeq = d.opSeq := rfl
@[simp] theorem Dev.onPort_free (d : Dev) (n : Nat) (f) : (d.onPort n f).free = d.free := rfl
@[simp] theorem Dev.onPort_out (d : Dev) (n : Nat) (f) : (d.onPort n f).out = d.out := rfl

@[simp] theorem Dev.setEng_kind (d : Dev) (n : Nat) (v) : (d.setEng n v).kind = d.kind := rfl
@[simp] theorem Dev.setEng_time (d : Dev) (n : Nat) (v) : (d.setEng n v).time = d.time := rfl
@[simp] theorem Dev.setEng_reset (d : Dev) (n : Nat) (v) : (d.setEng n v).reset = d.reset := rfl
@[simp] theorem Dev.setEng_fuses (d : Dev) (n : Nat) (v) : (d.setEng n v).fuses = d.fuses := rfl
@[simp] theorem Dev.setEng_hall (d : Dev) (n : Nat) (v) : (d.setEng n v).hall = d.hall := rfl
@[simp] theorem Dev.setEng_threads (d : Dev) (n : Nat) (v) : (d.setEng n v).threads = d.threads := rfl
@[simp] theorem Dev.setEng_lastPicked (d : Dev) (n : Nat) (v) : (d.setEng n v).lastPicked = d.lastPicked := rfl
@[simp] theorem Dev.setEng_larder (d : Dev) (n : Nat) (v) : (d.setEng n v).larder = d.larder := rfl
@[simp] theorem Dev.setEng_mgmt (d : Dev) (n : Nat) (v) : (d.setEng n v).mgmt = d.mgmt := rfl
@[simp] theorem Dev.setEng_host (d : Dev) (n : Nat) (v) : (d.setEng n v).host = d.host := rfl
@[simp] theorem Dev.setEng_parts (d : Dev) (n : Nat) (v) : (d.setEng n v).parts = d.parts := rfl
@[simp] theorem Dev.setEng_regionPool (d : Dev) (n : Nat) (v) : (d.setEng n v).regionPool = d.regionPool := rfl
@[simp] theorem Dev.setEng_chanPool (d : Dev) (n : Nat) (v) : (d.setEng n v).chanPool = d.chanPool := rfl
@[simp] theorem Dev.setEng_squarePool (d : Dev) (n : Nat) (v) : (d.setEng n v).squarePool = d.squarePool := rfl
@[simp] theorem Dev.setEng_chans (d : Dev) (n : Nat) (v) : (d.setEng n v).chans = d.chans := rfl
@[simp] theorem Dev.setEng_ports (d : Dev) (n : Nat) (v) : (d.setEng n v).ports = d.ports := rfl
@[simp] theorem Dev.setEng_squares (d : Dev) (n : Nat) (v) : (d.setEng n v).squares = d.squares := rfl
@[simp] theorem Dev.setEng_sqReads (d : Dev) (n : Nat) (v) : (d.setEng n v).sqReads = d.sqReads := rfl
@[simp] theorem Dev.setEng_sqResps (d : Dev) (n : Nat) (v) : (d.setEng n v).sqResps = d.sqResps := rfl
@[simp] theorem Dev.setEng_merge (d : Dev) (n : Nat) (v) : (d.setEng n v).merge = d.merge := rfl
@[simp] theorem Dev.setEng_parked (d : Dev) (n : Nat) (v) : (d.setEng n v).parked = d.parked := rfl
@[simp] theorem Dev.setEng_assembling (d : Dev) (n : Nat) (v) : (d.setEng n v).assembling = d.assembling := rfl
@[simp] theorem Dev.setEng_inbox (d : Dev) (n : Nat) (v) : (d.setEng n v).inbox = d.inbox := rfl
@[simp] theorem Dev.setEng_regions (d : Dev) (n : Nat) (v) : (d.setEng n v).regions = d.regions := rfl
@[simp] theorem Dev.setEng_thresh (d : Dev) (n : Nat) (v) : (d.setEng n v).thresh = d.thresh := rfl
@[simp] theorem Dev.setEng_vault (d : Dev) (n : Nat) (v) : (d.setEng n v).vault = d.vault := rfl
@[simp] theorem Dev.setEng_count (d : Dev) (n : Nat) (v) : (d.setEng n v).count = d.count := rfl
@[simp] theorem Dev.setEng_attic (d : Dev) (n : Nat) (v) : (d.setEng n v).attic = d.attic := rfl
@[simp] theorem Dev.setEng_intc (d : Dev) (n : Nat) (v) : (d.setEng n v).intc = d.intc := rfl
@[simp] theorem Dev.setEng_cellar (d : Dev) (n : Nat) (v) : (d.setEng n v).cellar = d.cellar := rfl
@[simp] theorem Dev.setEng_power (d : Dev) (n : Nat) (v) : (d.setEng n v).power = d.power := rfl
@[simp] theorem Dev.setEng_drawWait (d : Dev) (n : Nat) (v) : (d.setEng n v).drawWait = d.drawWait := rfl
@[simp] theorem Dev.setEng_opSeq (d : Dev) (n : Nat) (v) : (d.setEng n v).opSeq = d.opSeq := rfl
@[simp] theorem Dev.setEng_free (d : Dev) (n : Nat) (v) : (d.setEng n v).free = d.free := rfl
@[simp] theorem Dev.setEng_out (d : Dev) (n : Nat) (v) : (d.setEng n v).out = d.out := rfl

@[simp] theorem Dev.onEng_kind (d : Dev) (n : Nat) (f) : (d.onEng n f).kind = d.kind := rfl
@[simp] theorem Dev.onEng_time (d : Dev) (n : Nat) (f) : (d.onEng n f).time = d.time := rfl
@[simp] theorem Dev.onEng_reset (d : Dev) (n : Nat) (f) : (d.onEng n f).reset = d.reset := rfl
@[simp] theorem Dev.onEng_fuses (d : Dev) (n : Nat) (f) : (d.onEng n f).fuses = d.fuses := rfl
@[simp] theorem Dev.onEng_hall (d : Dev) (n : Nat) (f) : (d.onEng n f).hall = d.hall := rfl
@[simp] theorem Dev.onEng_threads (d : Dev) (n : Nat) (f) : (d.onEng n f).threads = d.threads := rfl
@[simp] theorem Dev.onEng_lastPicked (d : Dev) (n : Nat) (f) : (d.onEng n f).lastPicked = d.lastPicked := rfl
@[simp] theorem Dev.onEng_larder (d : Dev) (n : Nat) (f) : (d.onEng n f).larder = d.larder := rfl
@[simp] theorem Dev.onEng_mgmt (d : Dev) (n : Nat) (f) : (d.onEng n f).mgmt = d.mgmt := rfl
@[simp] theorem Dev.onEng_host (d : Dev) (n : Nat) (f) : (d.onEng n f).host = d.host := rfl
@[simp] theorem Dev.onEng_parts (d : Dev) (n : Nat) (f) : (d.onEng n f).parts = d.parts := rfl
@[simp] theorem Dev.onEng_regionPool (d : Dev) (n : Nat) (f) : (d.onEng n f).regionPool = d.regionPool := rfl
@[simp] theorem Dev.onEng_chanPool (d : Dev) (n : Nat) (f) : (d.onEng n f).chanPool = d.chanPool := rfl
@[simp] theorem Dev.onEng_squarePool (d : Dev) (n : Nat) (f) : (d.onEng n f).squarePool = d.squarePool := rfl
@[simp] theorem Dev.onEng_chans (d : Dev) (n : Nat) (f) : (d.onEng n f).chans = d.chans := rfl
@[simp] theorem Dev.onEng_ports (d : Dev) (n : Nat) (f) : (d.onEng n f).ports = d.ports := rfl
@[simp] theorem Dev.onEng_squares (d : Dev) (n : Nat) (f) : (d.onEng n f).squares = d.squares := rfl
@[simp] theorem Dev.onEng_sqReads (d : Dev) (n : Nat) (f) : (d.onEng n f).sqReads = d.sqReads := rfl
@[simp] theorem Dev.onEng_sqResps (d : Dev) (n : Nat) (f) : (d.onEng n f).sqResps = d.sqResps := rfl
@[simp] theorem Dev.onEng_merge (d : Dev) (n : Nat) (f) : (d.onEng n f).merge = d.merge := rfl
@[simp] theorem Dev.onEng_parked (d : Dev) (n : Nat) (f) : (d.onEng n f).parked = d.parked := rfl
@[simp] theorem Dev.onEng_assembling (d : Dev) (n : Nat) (f) : (d.onEng n f).assembling = d.assembling := rfl
@[simp] theorem Dev.onEng_inbox (d : Dev) (n : Nat) (f) : (d.onEng n f).inbox = d.inbox := rfl
@[simp] theorem Dev.onEng_regions (d : Dev) (n : Nat) (f) : (d.onEng n f).regions = d.regions := rfl
@[simp] theorem Dev.onEng_thresh (d : Dev) (n : Nat) (f) : (d.onEng n f).thresh = d.thresh := rfl
@[simp] theorem Dev.onEng_vault (d : Dev) (n : Nat) (f) : (d.onEng n f).vault = d.vault := rfl
@[simp] theorem Dev.onEng_count (d : Dev) (n : Nat) (f) : (d.onEng n f).count = d.count := rfl
@[simp] theorem Dev.onEng_attic (d : Dev) (n : Nat) (f) : (d.onEng n f).attic = d.attic := rfl
@[simp] theorem Dev.onEng_intc (d : Dev) (n : Nat) (f) : (d.onEng n f).intc = d.intc := rfl
@[simp] theorem Dev.onEng_cellar (d : Dev) (n : Nat) (f) : (d.onEng n f).cellar = d.cellar := rfl
@[simp] theorem Dev.onEng_power (d : Dev) (n : Nat) (f) : (d.onEng n f).power = d.power := rfl
@[simp] theorem Dev.onEng_drawWait (d : Dev) (n : Nat) (f) : (d.onEng n f).drawWait = d.drawWait := rfl
@[simp] theorem Dev.onEng_opSeq (d : Dev) (n : Nat) (f) : (d.onEng n f).opSeq = d.opSeq := rfl
@[simp] theorem Dev.onEng_free (d : Dev) (n : Nat) (f) : (d.onEng n f).free = d.free := rfl
@[simp] theorem Dev.onEng_out (d : Dev) (n : Nat) (f) : (d.onEng n f).out = d.out := rfl

@[simp] theorem Dev.setReg_kind (d : Dev) (n : Nat) (v) : (d.setReg n v).kind = d.kind := rfl
@[simp] theorem Dev.setReg_time (d : Dev) (n : Nat) (v) : (d.setReg n v).time = d.time := rfl
@[simp] theorem Dev.setReg_reset (d : Dev) (n : Nat) (v) : (d.setReg n v).reset = d.reset := rfl
@[simp] theorem Dev.setReg_fuses (d : Dev) (n : Nat) (v) : (d.setReg n v).fuses = d.fuses := rfl
@[simp] theorem Dev.setReg_hall (d : Dev) (n : Nat) (v) : (d.setReg n v).hall = d.hall := rfl
@[simp] theorem Dev.setReg_threads (d : Dev) (n : Nat) (v) : (d.setReg n v).threads = d.threads := rfl
@[simp] theorem Dev.setReg_lastPicked (d : Dev) (n : Nat) (v) : (d.setReg n v).lastPicked = d.lastPicked := rfl
@[simp] theorem Dev.setReg_larder (d : Dev) (n : Nat) (v) : (d.setReg n v).larder = d.larder := rfl
@[simp] theorem Dev.setReg_mgmt (d : Dev) (n : Nat) (v) : (d.setReg n v).mgmt = d.mgmt := rfl
@[simp] theorem Dev.setReg_host (d : Dev) (n : Nat) (v) : (d.setReg n v).host = d.host := rfl
@[simp] theorem Dev.setReg_parts (d : Dev) (n : Nat) (v) : (d.setReg n v).parts = d.parts := rfl
@[simp] theorem Dev.setReg_regionPool (d : Dev) (n : Nat) (v) : (d.setReg n v).regionPool = d.regionPool := rfl
@[simp] theorem Dev.setReg_chanPool (d : Dev) (n : Nat) (v) : (d.setReg n v).chanPool = d.chanPool := rfl
@[simp] theorem Dev.setReg_squarePool (d : Dev) (n : Nat) (v) : (d.setReg n v).squarePool = d.squarePool := rfl
@[simp] theorem Dev.setReg_chans (d : Dev) (n : Nat) (v) : (d.setReg n v).chans = d.chans := rfl
@[simp] theorem Dev.setReg_ports (d : Dev) (n : Nat) (v) : (d.setReg n v).ports = d.ports := rfl
@[simp] theorem Dev.setReg_squares (d : Dev) (n : Nat) (v) : (d.setReg n v).squares = d.squares := rfl
@[simp] theorem Dev.setReg_sqReads (d : Dev) (n : Nat) (v) : (d.setReg n v).sqReads = d.sqReads := rfl
@[simp] theorem Dev.setReg_sqResps (d : Dev) (n : Nat) (v) : (d.setReg n v).sqResps = d.sqResps := rfl
@[simp] theorem Dev.setReg_merge (d : Dev) (n : Nat) (v) : (d.setReg n v).merge = d.merge := rfl
@[simp] theorem Dev.setReg_parked (d : Dev) (n : Nat) (v) : (d.setReg n v).parked = d.parked := rfl
@[simp] theorem Dev.setReg_assembling (d : Dev) (n : Nat) (v) : (d.setReg n v).assembling = d.assembling := rfl
@[simp] theorem Dev.setReg_inbox (d : Dev) (n : Nat) (v) : (d.setReg n v).inbox = d.inbox := rfl
@[simp] theorem Dev.setReg_engines (d : Dev) (n : Nat) (v) : (d.setReg n v).engines = d.engines := rfl
@[simp] theorem Dev.setReg_thresh (d : Dev) (n : Nat) (v) : (d.setReg n v).thresh = d.thresh := rfl
@[simp] theorem Dev.setReg_vault (d : Dev) (n : Nat) (v) : (d.setReg n v).vault = d.vault := rfl
@[simp] theorem Dev.setReg_count (d : Dev) (n : Nat) (v) : (d.setReg n v).count = d.count := rfl
@[simp] theorem Dev.setReg_attic (d : Dev) (n : Nat) (v) : (d.setReg n v).attic = d.attic := rfl
@[simp] theorem Dev.setReg_intc (d : Dev) (n : Nat) (v) : (d.setReg n v).intc = d.intc := rfl
@[simp] theorem Dev.setReg_cellar (d : Dev) (n : Nat) (v) : (d.setReg n v).cellar = d.cellar := rfl
@[simp] theorem Dev.setReg_power (d : Dev) (n : Nat) (v) : (d.setReg n v).power = d.power := rfl
@[simp] theorem Dev.setReg_drawWait (d : Dev) (n : Nat) (v) : (d.setReg n v).drawWait = d.drawWait := rfl
@[simp] theorem Dev.setReg_opSeq (d : Dev) (n : Nat) (v) : (d.setReg n v).opSeq = d.opSeq := rfl
@[simp] theorem Dev.setReg_free (d : Dev) (n : Nat) (v) : (d.setReg n v).free = d.free := rfl
@[simp] theorem Dev.setReg_out (d : Dev) (n : Nat) (v) : (d.setReg n v).out = d.out := rfl

@[simp] theorem Dev.onReg_kind (d : Dev) (n : Nat) (f) : (d.onReg n f).kind = d.kind := rfl
@[simp] theorem Dev.onReg_time (d : Dev) (n : Nat) (f) : (d.onReg n f).time = d.time := rfl
@[simp] theorem Dev.onReg_reset (d : Dev) (n : Nat) (f) : (d.onReg n f).reset = d.reset := rfl
@[simp] theorem Dev.onReg_fuses (d : Dev) (n : Nat) (f) : (d.onReg n f).fuses = d.fuses := rfl
@[simp] theorem Dev.onReg_hall (d : Dev) (n : Nat) (f) : (d.onReg n f).hall = d.hall := rfl
@[simp] theorem Dev.onReg_threads (d : Dev) (n : Nat) (f) : (d.onReg n f).threads = d.threads := rfl
@[simp] theorem Dev.onReg_lastPicked (d : Dev) (n : Nat) (f) : (d.onReg n f).lastPicked = d.lastPicked := rfl
@[simp] theorem Dev.onReg_larder (d : Dev) (n : Nat) (f) : (d.onReg n f).larder = d.larder := rfl
@[simp] theorem Dev.onReg_mgmt (d : Dev) (n : Nat) (f) : (d.onReg n f).mgmt = d.mgmt := rfl
@[simp] theorem Dev.onReg_host (d : Dev) (n : Nat) (f) : (d.onReg n f).host = d.host := rfl
@[simp] theorem Dev.onReg_parts (d : Dev) (n : Nat) (f) : (d.onReg n f).parts = d.parts := rfl
@[simp] theorem Dev.onReg_regionPool (d : Dev) (n : Nat) (f) : (d.onReg n f).regionPool = d.regionPool := rfl
@[simp] theorem Dev.onReg_chanPool (d : Dev) (n : Nat) (f) : (d.onReg n f).chanPool = d.chanPool := rfl
@[simp] theorem Dev.onReg_squarePool (d : Dev) (n : Nat) (f) : (d.onReg n f).squarePool = d.squarePool := rfl
@[simp] theorem Dev.onReg_chans (d : Dev) (n : Nat) (f) : (d.onReg n f).chans = d.chans := rfl
@[simp] theorem Dev.onReg_ports (d : Dev) (n : Nat) (f) : (d.onReg n f).ports = d.ports := rfl
@[simp] theorem Dev.onReg_squares (d : Dev) (n : Nat) (f) : (d.onReg n f).squares = d.squares := rfl
@[simp] theorem Dev.onReg_sqReads (d : Dev) (n : Nat) (f) : (d.onReg n f).sqReads = d.sqReads := rfl
@[simp] theorem Dev.onReg_sqResps (d : Dev) (n : Nat) (f) : (d.onReg n f).sqResps = d.sqResps := rfl
@[simp] theorem Dev.onReg_merge (d : Dev) (n : Nat) (f) : (d.onReg n f).merge = d.merge := rfl
@[simp] theorem Dev.onReg_parked (d : Dev) (n : Nat) (f) : (d.onReg n f).parked = d.parked := rfl
@[simp] theorem Dev.onReg_assembling (d : Dev) (n : Nat) (f) : (d.onReg n f).assembling = d.assembling := rfl
@[simp] theorem Dev.onReg_inbox (d : Dev) (n : Nat) (f) : (d.onReg n f).inbox = d.inbox := rfl
@[simp] theorem Dev.onReg_engines (d : Dev) (n : Nat) (f) : (d.onReg n f).engines = d.engines := rfl
@[simp] theorem Dev.onReg_thresh (d : Dev) (n : Nat) (f) : (d.onReg n f).thresh = d.thresh := rfl
@[simp] theorem Dev.onReg_vault (d : Dev) (n : Nat) (f) : (d.onReg n f).vault = d.vault := rfl
@[simp] theorem Dev.onReg_count (d : Dev) (n : Nat) (f) : (d.onReg n f).count = d.count := rfl
@[simp] theorem Dev.onReg_attic (d : Dev) (n : Nat) (f) : (d.onReg n f).attic = d.attic := rfl
@[simp] theorem Dev.onReg_intc (d : Dev) (n : Nat) (f) : (d.onReg n f).intc = d.intc := rfl
@[simp] theorem Dev.onReg_cellar (d : Dev) (n : Nat) (f) : (d.onReg n f).cellar = d.cellar := rfl
@[simp] theorem Dev.onReg_power (d : Dev) (n : Nat) (f) : (d.onReg n f).power = d.power := rfl
@[simp] theorem Dev.onReg_drawWait (d : Dev) (n : Nat) (f) : (d.onReg n f).drawWait = d.drawWait := rfl
@[simp] theorem Dev.onReg_opSeq (d : Dev) (n : Nat) (f) : (d.onReg n f).opSeq = d.opSeq := rfl
@[simp] theorem Dev.onReg_free (d : Dev) (n : Nat) (f) : (d.onReg n f).free = d.free := rfl
@[simp] theorem Dev.onReg_out (d : Dev) (n : Nat) (f) : (d.onReg n f).out = d.out := rfl

@[simp] theorem Dev.setCh_kind (d : Dev) (n : Nat) (v) : (d.setCh n v).kind = d.kind := rfl
@[simp] theorem Dev.setCh_time (d : Dev) (n : Nat) (v) : (d.setCh n v).time = d.time := rfl
@[simp] theorem Dev.setCh_reset (d : Dev) (n : Nat) (v) : (d.setCh n v).reset = d.reset := rfl
@[simp] theorem Dev.setCh_fuses (d : Dev) (n : Nat) (v) : (d.setCh n v).fuses = d.fuses := rfl
@[simp] theorem Dev.setCh_hall (d : Dev) (n : Nat) (v) : (d.setCh n v).hall = d.hall := rfl
@[simp] theorem Dev.setCh_threads (d : Dev) (n : Nat) (v) : (d.setCh n v).threads = d.threads := rfl
@[simp] theorem Dev.setCh_lastPicked (d : Dev) (n : Nat) (v) : (d.setCh n v).lastPicked = d.lastPicked := rfl
@[simp] theorem Dev.setCh_larder (d : Dev) (n : Nat) (v) : (d.setCh n v).larder = d.larder := rfl
@[simp] theorem Dev.setCh_mgmt (d : Dev) (n : Nat) (v) : (d.setCh n v).mgmt = d.mgmt := rfl
@[simp] theorem Dev.setCh_host (d : Dev) (n : Nat) (v) : (d.setCh n v).host = d.host := rfl
@[simp] theorem Dev.setCh_parts (d : Dev) (n : Nat) (v) : (d.setCh n v).parts = d.parts := rfl
@[simp] theorem Dev.setCh_regionPool (d : Dev) (n : Nat) (v) : (d.setCh n v).regionPool = d.regionPool := rfl
@[simp] theorem Dev.setCh_chanPool (d : Dev) (n : Nat) (v) : (d.setCh n v).chanPool = d.chanPool := rfl
@[simp] theorem Dev.setCh_squarePool (d : Dev) (n : Nat) (v) : (d.setCh n v).squarePool = d.squarePool := rfl
@[simp] theorem Dev.setCh_ports (d : Dev) (n : Nat) (v) : (d.setCh n v).ports = d.ports := rfl
@[simp] theorem Dev.setCh_squares (d : Dev) (n : Nat) (v) : (d.setCh n v).squares = d.squares := rfl
@[simp] theorem Dev.setCh_sqReads (d : Dev) (n : Nat) (v) : (d.setCh n v).sqReads = d.sqReads := rfl
@[simp] theorem Dev.setCh_sqResps (d : Dev) (n : Nat) (v) : (d.setCh n v).sqResps = d.sqResps := rfl
@[simp] theorem Dev.setCh_merge (d : Dev) (n : Nat) (v) : (d.setCh n v).merge = d.merge := rfl
@[simp] theorem Dev.setCh_parked (d : Dev) (n : Nat) (v) : (d.setCh n v).parked = d.parked := rfl
@[simp] theorem Dev.setCh_assembling (d : Dev) (n : Nat) (v) : (d.setCh n v).assembling = d.assembling := rfl
@[simp] theorem Dev.setCh_inbox (d : Dev) (n : Nat) (v) : (d.setCh n v).inbox = d.inbox := rfl
@[simp] theorem Dev.setCh_engines (d : Dev) (n : Nat) (v) : (d.setCh n v).engines = d.engines := rfl
@[simp] theorem Dev.setCh_regions (d : Dev) (n : Nat) (v) : (d.setCh n v).regions = d.regions := rfl
@[simp] theorem Dev.setCh_thresh (d : Dev) (n : Nat) (v) : (d.setCh n v).thresh = d.thresh := rfl
@[simp] theorem Dev.setCh_vault (d : Dev) (n : Nat) (v) : (d.setCh n v).vault = d.vault := rfl
@[simp] theorem Dev.setCh_count (d : Dev) (n : Nat) (v) : (d.setCh n v).count = d.count := rfl
@[simp] theorem Dev.setCh_attic (d : Dev) (n : Nat) (v) : (d.setCh n v).attic = d.attic := rfl
@[simp] theorem Dev.setCh_intc (d : Dev) (n : Nat) (v) : (d.setCh n v).intc = d.intc := rfl
@[simp] theorem Dev.setCh_cellar (d : Dev) (n : Nat) (v) : (d.setCh n v).cellar = d.cellar := rfl
@[simp] theorem Dev.setCh_power (d : Dev) (n : Nat) (v) : (d.setCh n v).power = d.power := rfl
@[simp] theorem Dev.setCh_drawWait (d : Dev) (n : Nat) (v) : (d.setCh n v).drawWait = d.drawWait := rfl
@[simp] theorem Dev.setCh_opSeq (d : Dev) (n : Nat) (v) : (d.setCh n v).opSeq = d.opSeq := rfl
@[simp] theorem Dev.setCh_free (d : Dev) (n : Nat) (v) : (d.setCh n v).free = d.free := rfl
@[simp] theorem Dev.setCh_out (d : Dev) (n : Nat) (v) : (d.setCh n v).out = d.out := rfl

@[simp] theorem Dev.onCh_kind (d : Dev) (n : Nat) (f) : (d.onCh n f).kind = d.kind := rfl
@[simp] theorem Dev.onCh_time (d : Dev) (n : Nat) (f) : (d.onCh n f).time = d.time := rfl
@[simp] theorem Dev.onCh_reset (d : Dev) (n : Nat) (f) : (d.onCh n f).reset = d.reset := rfl
@[simp] theorem Dev.onCh_fuses (d : Dev) (n : Nat) (f) : (d.onCh n f).fuses = d.fuses := rfl
@[simp] theorem Dev.onCh_hall (d : Dev) (n : Nat) (f) : (d.onCh n f).hall = d.hall := rfl
@[simp] theorem Dev.onCh_threads (d : Dev) (n : Nat) (f) : (d.onCh n f).threads = d.threads := rfl
@[simp] theorem Dev.onCh_lastPicked (d : Dev) (n : Nat) (f) : (d.onCh n f).lastPicked = d.lastPicked := rfl
@[simp] theorem Dev.onCh_larder (d : Dev) (n : Nat) (f) : (d.onCh n f).larder = d.larder := rfl
@[simp] theorem Dev.onCh_mgmt (d : Dev) (n : Nat) (f) : (d.onCh n f).mgmt = d.mgmt := rfl
@[simp] theorem Dev.onCh_host (d : Dev) (n : Nat) (f) : (d.onCh n f).host = d.host := rfl
@[simp] theorem Dev.onCh_parts (d : Dev) (n : Nat) (f) : (d.onCh n f).parts = d.parts := rfl
@[simp] theorem Dev.onCh_regionPool (d : Dev) (n : Nat) (f) : (d.onCh n f).regionPool = d.regionPool := rfl
@[simp] theorem Dev.onCh_chanPool (d : Dev) (n : Nat) (f) : (d.onCh n f).chanPool = d.chanPool := rfl
@[simp] theorem Dev.onCh_squarePool (d : Dev) (n : Nat) (f) : (d.onCh n f).squarePool = d.squarePool := rfl
@[simp] theorem Dev.onCh_ports (d : Dev) (n : Nat) (f) : (d.onCh n f).ports = d.ports := rfl
@[simp] theorem Dev.onCh_squares (d : Dev) (n : Nat) (f) : (d.onCh n f).squares = d.squares := rfl
@[simp] theorem Dev.onCh_sqReads (d : Dev) (n : Nat) (f) : (d.onCh n f).sqReads = d.sqReads := rfl
@[simp] theorem Dev.onCh_sqResps (d : Dev) (n : Nat) (f) : (d.onCh n f).sqResps = d.sqResps := rfl
@[simp] theorem Dev.onCh_merge (d : Dev) (n : Nat) (f) : (d.onCh n f).merge = d.merge := rfl
@[simp] theorem Dev.onCh_parked (d : Dev) (n : Nat) (f) : (d.onCh n f).parked = d.parked := rfl
@[simp] theorem Dev.onCh_assembling (d : Dev) (n : Nat) (f) : (d.onCh n f).assembling = d.assembling := rfl
@[simp] theorem Dev.onCh_inbox (d : Dev) (n : Nat) (f) : (d.onCh n f).inbox = d.inbox := rfl
@[simp] theorem Dev.onCh_engines (d : Dev) (n : Nat) (f) : (d.onCh n f).engines = d.engines := rfl
@[simp] theorem Dev.onCh_regions (d : Dev) (n : Nat) (f) : (d.onCh n f).regions = d.regions := rfl
@[simp] theorem Dev.onCh_thresh (d : Dev) (n : Nat) (f) : (d.onCh n f).thresh = d.thresh := rfl
@[simp] theorem Dev.onCh_vault (d : Dev) (n : Nat) (f) : (d.onCh n f).vault = d.vault := rfl
@[simp] theorem Dev.onCh_count (d : Dev) (n : Nat) (f) : (d.onCh n f).count = d.count := rfl
@[simp] theorem Dev.onCh_attic (d : Dev) (n : Nat) (f) : (d.onCh n f).attic = d.attic := rfl
@[simp] theorem Dev.onCh_intc (d : Dev) (n : Nat) (f) : (d.onCh n f).intc = d.intc := rfl
@[simp] theorem Dev.onCh_cellar (d : Dev) (n : Nat) (f) : (d.onCh n f).cellar = d.cellar := rfl
@[simp] theorem Dev.onCh_power (d : Dev) (n : Nat) (f) : (d.onCh n f).power = d.power := rfl
@[simp] theorem Dev.onCh_drawWait (d : Dev) (n : Nat) (f) : (d.onCh n f).drawWait = d.drawWait := rfl
@[simp] theorem Dev.onCh_opSeq (d : Dev) (n : Nat) (f) : (d.onCh n f).opSeq = d.opSeq := rfl
@[simp] theorem Dev.onCh_free (d : Dev) (n : Nat) (f) : (d.onCh n f).free = d.free := rfl
@[simp] theorem Dev.onCh_out (d : Dev) (n : Nat) (f) : (d.onCh n f).out = d.out := rfl

@[simp] theorem Dev.setSq_kind (d : Dev) (n : Nat) (v) : (d.setSq n v).kind = d.kind := rfl
@[simp] theorem Dev.setSq_time (d : Dev) (n : Nat) (v) : (d.setSq n v).time = d.time := rfl
@[simp] theorem Dev.setSq_reset (d : Dev) (n : Nat) (v) : (d.setSq n v).reset = d.reset := rfl
@[simp] theorem Dev.setSq_fuses (d : Dev) (n : Nat) (v) : (d.setSq n v).fuses = d.fuses := rfl
@[simp] theorem Dev.setSq_hall (d : Dev) (n : Nat) (v) : (d.setSq n v).hall = d.hall := rfl
@[simp] theorem Dev.setSq_threads (d : Dev) (n : Nat) (v) : (d.setSq n v).threads = d.threads := rfl
@[simp] theorem Dev.setSq_lastPicked (d : Dev) (n : Nat) (v) : (d.setSq n v).lastPicked = d.lastPicked := rfl
@[simp] theorem Dev.setSq_larder (d : Dev) (n : Nat) (v) : (d.setSq n v).larder = d.larder := rfl
@[simp] theorem Dev.setSq_mgmt (d : Dev) (n : Nat) (v) : (d.setSq n v).mgmt = d.mgmt := rfl
@[simp] theorem Dev.setSq_host (d : Dev) (n : Nat) (v) : (d.setSq n v).host = d.host := rfl
@[simp] theorem Dev.setSq_parts (d : Dev) (n : Nat) (v) : (d.setSq n v).parts = d.parts := rfl
@[simp] theorem Dev.setSq_regionPool (d : Dev) (n : Nat) (v) : (d.setSq n v).regionPool = d.regionPool := rfl
@[simp] theorem Dev.setSq_chanPool (d : Dev) (n : Nat) (v) : (d.setSq n v).chanPool = d.chanPool := rfl
@[simp] theorem Dev.setSq_squarePool (d : Dev) (n : Nat) (v) : (d.setSq n v).squarePool = d.squarePool := rfl
@[simp] theorem Dev.setSq_chans (d : Dev) (n : Nat) (v) : (d.setSq n v).chans = d.chans := rfl
@[simp] theorem Dev.setSq_ports (d : Dev) (n : Nat) (v) : (d.setSq n v).ports = d.ports := rfl
@[simp] theorem Dev.setSq_sqReads (d : Dev) (n : Nat) (v) : (d.setSq n v).sqReads = d.sqReads := rfl
@[simp] theorem Dev.setSq_sqResps (d : Dev) (n : Nat) (v) : (d.setSq n v).sqResps = d.sqResps := rfl
@[simp] theorem Dev.setSq_merge (d : Dev) (n : Nat) (v) : (d.setSq n v).merge = d.merge := rfl
@[simp] theorem Dev.setSq_parked (d : Dev) (n : Nat) (v) : (d.setSq n v).parked = d.parked := rfl
@[simp] theorem Dev.setSq_assembling (d : Dev) (n : Nat) (v) : (d.setSq n v).assembling = d.assembling := rfl
@[simp] theorem Dev.setSq_inbox (d : Dev) (n : Nat) (v) : (d.setSq n v).inbox = d.inbox := rfl
@[simp] theorem Dev.setSq_engines (d : Dev) (n : Nat) (v) : (d.setSq n v).engines = d.engines := rfl
@[simp] theorem Dev.setSq_regions (d : Dev) (n : Nat) (v) : (d.setSq n v).regions = d.regions := rfl
@[simp] theorem Dev.setSq_thresh (d : Dev) (n : Nat) (v) : (d.setSq n v).thresh = d.thresh := rfl
@[simp] theorem Dev.setSq_vault (d : Dev) (n : Nat) (v) : (d.setSq n v).vault = d.vault := rfl
@[simp] theorem Dev.setSq_count (d : Dev) (n : Nat) (v) : (d.setSq n v).count = d.count := rfl
@[simp] theorem Dev.setSq_attic (d : Dev) (n : Nat) (v) : (d.setSq n v).attic = d.attic := rfl
@[simp] theorem Dev.setSq_intc (d : Dev) (n : Nat) (v) : (d.setSq n v).intc = d.intc := rfl
@[simp] theorem Dev.setSq_cellar (d : Dev) (n : Nat) (v) : (d.setSq n v).cellar = d.cellar := rfl
@[simp] theorem Dev.setSq_power (d : Dev) (n : Nat) (v) : (d.setSq n v).power = d.power := rfl
@[simp] theorem Dev.setSq_drawWait (d : Dev) (n : Nat) (v) : (d.setSq n v).drawWait = d.drawWait := rfl
@[simp] theorem Dev.setSq_opSeq (d : Dev) (n : Nat) (v) : (d.setSq n v).opSeq = d.opSeq := rfl
@[simp] theorem Dev.setSq_free (d : Dev) (n : Nat) (v) : (d.setSq n v).free = d.free := rfl
@[simp] theorem Dev.setSq_out (d : Dev) (n : Nat) (v) : (d.setSq n v).out = d.out := rfl

@[simp] theorem Dev.onSq_kind (d : Dev) (n : Nat) (f) : (d.onSq n f).kind = d.kind := rfl
@[simp] theorem Dev.onSq_time (d : Dev) (n : Nat) (f) : (d.onSq n f).time = d.time := rfl
@[simp] theorem Dev.onSq_reset (d : Dev) (n : Nat) (f) : (d.onSq n f).reset = d.reset := rfl
@[simp] theorem Dev.onSq_fuses (d : Dev) (n : Nat) (f) : (d.onSq n f).fuses = d.fuses := rfl
@[simp] theorem Dev.onSq_hall (d : Dev) (n : Nat) (f) : (d.onSq n f).hall = d.hall := rfl
@[simp] theorem Dev.onSq_threads (d : Dev) (n : Nat) (f) : (d.onSq n f).threads = d.threads := rfl
@[simp] theorem Dev.onSq_lastPicked (d : Dev) (n : Nat) (f) : (d.onSq n f).lastPicked = d.lastPicked := rfl
@[simp] theorem Dev.onSq_larder (d : Dev) (n : Nat) (f) : (d.onSq n f).larder = d.larder := rfl
@[simp] theorem Dev.onSq_mgmt (d : Dev) (n : Nat) (f) : (d.onSq n f).mgmt = d.mgmt := rfl
@[simp] theorem Dev.onSq_host (d : Dev) (n : Nat) (f) : (d.onSq n f).host = d.host := rfl
@[simp] theorem Dev.onSq_parts (d : Dev) (n : Nat) (f) : (d.onSq n f).parts = d.parts := rfl
@[simp] theorem Dev.onSq_regionPool (d : Dev) (n : Nat) (f) : (d.onSq n f).regionPool = d.regionPool := rfl
@[simp] theorem Dev.onSq_chanPool (d : Dev) (n : Nat) (f) : (d.onSq n f).chanPool = d.chanPool := rfl
@[simp] theorem Dev.onSq_squarePool (d : Dev) (n : Nat) (f) : (d.onSq n f).squarePool = d.squarePool := rfl
@[simp] theorem Dev.onSq_chans (d : Dev) (n : Nat) (f) : (d.onSq n f).chans = d.chans := rfl
@[simp] theorem Dev.onSq_ports (d : Dev) (n : Nat) (f) : (d.onSq n f).ports = d.ports := rfl
@[simp] theorem Dev.onSq_sqReads (d : Dev) (n : Nat) (f) : (d.onSq n f).sqReads = d.sqReads := rfl
@[simp] theorem Dev.onSq_sqResps (d : Dev) (n : Nat) (f) : (d.onSq n f).sqResps = d.sqResps := rfl
@[simp] theorem Dev.onSq_merge (d : Dev) (n : Nat) (f) : (d.onSq n f).merge = d.merge := rfl
@[simp] theorem Dev.onSq_parked (d : Dev) (n : Nat) (f) : (d.onSq n f).parked = d.parked := rfl
@[simp] theorem Dev.onSq_assembling (d : Dev) (n : Nat) (f) : (d.onSq n f).assembling = d.assembling := rfl
@[simp] theorem Dev.onSq_inbox (d : Dev) (n : Nat) (f) : (d.onSq n f).inbox = d.inbox := rfl
@[simp] theorem Dev.onSq_engines (d : Dev) (n : Nat) (f) : (d.onSq n f).engines = d.engines := rfl
@[simp] theorem Dev.onSq_regions (d : Dev) (n : Nat) (f) : (d.onSq n f).regions = d.regions := rfl
@[simp] theorem Dev.onSq_thresh (d : Dev) (n : Nat) (f) : (d.onSq n f).thresh = d.thresh := rfl
@[simp] theorem Dev.onSq_vault (d : Dev) (n : Nat) (f) : (d.onSq n f).vault = d.vault := rfl
@[simp] theorem Dev.onSq_count (d : Dev) (n : Nat) (f) : (d.onSq n f).count = d.count := rfl
@[simp] theorem Dev.onSq_attic (d : Dev) (n : Nat) (f) : (d.onSq n f).attic = d.attic := rfl
@[simp] theorem Dev.onSq_intc (d : Dev) (n : Nat) (f) : (d.onSq n f).intc = d.intc := rfl
@[simp] theorem Dev.onSq_cellar (d : Dev) (n : Nat) (f) : (d.onSq n f).cellar = d.cellar := rfl
@[simp] theorem Dev.onSq_power (d : Dev) (n : Nat) (f) : (d.onSq n f).power = d.power := rfl
@[simp] theorem Dev.onSq_drawWait (d : Dev) (n : Nat) (f) : (d.onSq n f).drawWait = d.drawWait := rfl
@[simp] theorem Dev.onSq_opSeq (d : Dev) (n : Nat) (f) : (d.onSq n f).opSeq = d.opSeq := rfl
@[simp] theorem Dev.onSq_free (d : Dev) (n : Nat) (f) : (d.onSq n f).free = d.free := rfl
@[simp] theorem Dev.onSq_out (d : Dev) (n : Nat) (f) : (d.onSq n f).out = d.out := rfl

@[simp] theorem Dev.setSlot_kind (d : Dev) (n : Nat) (v) : (d.setSlot n v).kind = d.kind := rfl
@[simp] theorem Dev.setSlot_time (d : Dev) (n : Nat) (v) : (d.setSlot n v).time = d.time := rfl
@[simp] theorem Dev.setSlot_reset (d : Dev) (n : Nat) (v) : (d.setSlot n v).reset = d.reset := rfl
@[simp] theorem Dev.setSlot_fuses (d : Dev) (n : Nat) (v) : (d.setSlot n v).fuses = d.fuses := rfl
@[simp] theorem Dev.setSlot_hall (d : Dev) (n : Nat) (v) : (d.setSlot n v).hall = d.hall := rfl
@[simp] theorem Dev.setSlot_threads (d : Dev) (n : Nat) (v) : (d.setSlot n v).threads = d.threads := rfl
@[simp] theorem Dev.setSlot_lastPicked (d : Dev) (n : Nat) (v) : (d.setSlot n v).lastPicked = d.lastPicked := rfl
@[simp] theorem Dev.setSlot_mgmt (d : Dev) (n : Nat) (v) : (d.setSlot n v).mgmt = d.mgmt := rfl
@[simp] theorem Dev.setSlot_host (d : Dev) (n : Nat) (v) : (d.setSlot n v).host = d.host := rfl
@[simp] theorem Dev.setSlot_parts (d : Dev) (n : Nat) (v) : (d.setSlot n v).parts = d.parts := rfl
@[simp] theorem Dev.setSlot_regionPool (d : Dev) (n : Nat) (v) : (d.setSlot n v).regionPool = d.regionPool := rfl
@[simp] theorem Dev.setSlot_chanPool (d : Dev) (n : Nat) (v) : (d.setSlot n v).chanPool = d.chanPool := rfl
@[simp] theorem Dev.setSlot_squarePool (d : Dev) (n : Nat) (v) : (d.setSlot n v).squarePool = d.squarePool := rfl
@[simp] theorem Dev.setSlot_chans (d : Dev) (n : Nat) (v) : (d.setSlot n v).chans = d.chans := rfl
@[simp] theorem Dev.setSlot_ports (d : Dev) (n : Nat) (v) : (d.setSlot n v).ports = d.ports := rfl
@[simp] theorem Dev.setSlot_squares (d : Dev) (n : Nat) (v) : (d.setSlot n v).squares = d.squares := rfl
@[simp] theorem Dev.setSlot_sqReads (d : Dev) (n : Nat) (v) : (d.setSlot n v).sqReads = d.sqReads := rfl
@[simp] theorem Dev.setSlot_sqResps (d : Dev) (n : Nat) (v) : (d.setSlot n v).sqResps = d.sqResps := rfl
@[simp] theorem Dev.setSlot_merge (d : Dev) (n : Nat) (v) : (d.setSlot n v).merge = d.merge := rfl
@[simp] theorem Dev.setSlot_parked (d : Dev) (n : Nat) (v) : (d.setSlot n v).parked = d.parked := rfl
@[simp] theorem Dev.setSlot_assembling (d : Dev) (n : Nat) (v) : (d.setSlot n v).assembling = d.assembling := rfl
@[simp] theorem Dev.setSlot_inbox (d : Dev) (n : Nat) (v) : (d.setSlot n v).inbox = d.inbox := rfl
@[simp] theorem Dev.setSlot_engines (d : Dev) (n : Nat) (v) : (d.setSlot n v).engines = d.engines := rfl
@[simp] theorem Dev.setSlot_regions (d : Dev) (n : Nat) (v) : (d.setSlot n v).regions = d.regions := rfl
@[simp] theorem Dev.setSlot_thresh (d : Dev) (n : Nat) (v) : (d.setSlot n v).thresh = d.thresh := rfl
@[simp] theorem Dev.setSlot_vault (d : Dev) (n : Nat) (v) : (d.setSlot n v).vault = d.vault := rfl
@[simp] theorem Dev.setSlot_count (d : Dev) (n : Nat) (v) : (d.setSlot n v).count = d.count := rfl
@[simp] theorem Dev.setSlot_attic (d : Dev) (n : Nat) (v) : (d.setSlot n v).attic = d.attic := rfl
@[simp] theorem Dev.setSlot_intc (d : Dev) (n : Nat) (v) : (d.setSlot n v).intc = d.intc := rfl
@[simp] theorem Dev.setSlot_cellar (d : Dev) (n : Nat) (v) : (d.setSlot n v).cellar = d.cellar := rfl
@[simp] theorem Dev.setSlot_power (d : Dev) (n : Nat) (v) : (d.setSlot n v).power = d.power := rfl
@[simp] theorem Dev.setSlot_drawWait (d : Dev) (n : Nat) (v) : (d.setSlot n v).drawWait = d.drawWait := rfl
@[simp] theorem Dev.setSlot_opSeq (d : Dev) (n : Nat) (v) : (d.setSlot n v).opSeq = d.opSeq := rfl
@[simp] theorem Dev.setSlot_free (d : Dev) (n : Nat) (v) : (d.setSlot n v).free = d.free := rfl
@[simp] theorem Dev.setSlot_out (d : Dev) (n : Nat) (v) : (d.setSlot n v).out = d.out := rfl

@[simp] theorem Dev.onSlot_kind (d : Dev) (n : Nat) (f) : (d.onSlot n f).kind = d.kind := rfl
@[simp] theorem Dev.onSlot_time (d : Dev) (n : Nat) (f) : (d.onSlot n f).time = d.time := rfl
@[simp] theorem Dev.onSlot_reset (d : Dev) (n : Nat) (f) : (d.onSlot n f).reset = d.reset := rfl
@[simp] theorem Dev.onSlot_fuses (d : Dev) (n : Nat) (f) : (d.onSlot n f).fuses = d.fuses := rfl
@[simp] theorem Dev.onSlot_hall (d : Dev) (n : Nat) (f) : (d.onSlot n f).hall = d.hall := rfl
@[simp] theorem Dev.onSlot_threads (d : Dev) (n : Nat) (f) : (d.onSlot n f).threads = d.threads := rfl
@[simp] theorem Dev.onSlot_lastPicked (d : Dev) (n : Nat) (f) : (d.onSlot n f).lastPicked = d.lastPicked := rfl
@[simp] theorem Dev.onSlot_mgmt (d : Dev) (n : Nat) (f) : (d.onSlot n f).mgmt = d.mgmt := rfl
@[simp] theorem Dev.onSlot_host (d : Dev) (n : Nat) (f) : (d.onSlot n f).host = d.host := rfl
@[simp] theorem Dev.onSlot_parts (d : Dev) (n : Nat) (f) : (d.onSlot n f).parts = d.parts := rfl
@[simp] theorem Dev.onSlot_regionPool (d : Dev) (n : Nat) (f) : (d.onSlot n f).regionPool = d.regionPool := rfl
@[simp] theorem Dev.onSlot_chanPool (d : Dev) (n : Nat) (f) : (d.onSlot n f).chanPool = d.chanPool := rfl
@[simp] theorem Dev.onSlot_squarePool (d : Dev) (n : Nat) (f) : (d.onSlot n f).squarePool = d.squarePool := rfl
@[simp] theorem Dev.onSlot_chans (d : Dev) (n : Nat) (f) : (d.onSlot n f).chans = d.chans := rfl
@[simp] theorem Dev.onSlot_ports (d : Dev) (n : Nat) (f) : (d.onSlot n f).ports = d.ports := rfl
@[simp] theorem Dev.onSlot_squares (d : Dev) (n : Nat) (f) : (d.onSlot n f).squares = d.squares := rfl
@[simp] theorem Dev.onSlot_sqReads (d : Dev) (n : Nat) (f) : (d.onSlot n f).sqReads = d.sqReads := rfl
@[simp] theorem Dev.onSlot_sqResps (d : Dev) (n : Nat) (f) : (d.onSlot n f).sqResps = d.sqResps := rfl
@[simp] theorem Dev.onSlot_merge (d : Dev) (n : Nat) (f) : (d.onSlot n f).merge = d.merge := rfl
@[simp] theorem Dev.onSlot_parked (d : Dev) (n : Nat) (f) : (d.onSlot n f).parked = d.parked := rfl
@[simp] theorem Dev.onSlot_assembling (d : Dev) (n : Nat) (f) : (d.onSlot n f).assembling = d.assembling := rfl
@[simp] theorem Dev.onSlot_inbox (d : Dev) (n : Nat) (f) : (d.onSlot n f).inbox = d.inbox := rfl
@[simp] theorem Dev.onSlot_engines (d : Dev) (n : Nat) (f) : (d.onSlot n f).engines = d.engines := rfl
@[simp] theorem Dev.onSlot_regions (d : Dev) (n : Nat) (f) : (d.onSlot n f).regions = d.regions := rfl
@[simp] theorem Dev.onSlot_thresh (d : Dev) (n : Nat) (f) : (d.onSlot n f).thresh = d.thresh := rfl
@[simp] theorem Dev.onSlot_vault (d : Dev) (n : Nat) (f) : (d.onSlot n f).vault = d.vault := rfl
@[simp] theorem Dev.onSlot_count (d : Dev) (n : Nat) (f) : (d.onSlot n f).count = d.count := rfl
@[simp] theorem Dev.onSlot_attic (d : Dev) (n : Nat) (f) : (d.onSlot n f).attic = d.attic := rfl
@[simp] theorem Dev.onSlot_intc (d : Dev) (n : Nat) (f) : (d.onSlot n f).intc = d.intc := rfl
@[simp] theorem Dev.onSlot_cellar (d : Dev) (n : Nat) (f) : (d.onSlot n f).cellar = d.cellar := rfl
@[simp] theorem Dev.onSlot_power (d : Dev) (n : Nat) (f) : (d.onSlot n f).power = d.power := rfl
@[simp] theorem Dev.onSlot_drawWait (d : Dev) (n : Nat) (f) : (d.onSlot n f).drawWait = d.drawWait := rfl
@[simp] theorem Dev.onSlot_opSeq (d : Dev) (n : Nat) (f) : (d.onSlot n f).opSeq = d.opSeq := rfl
@[simp] theorem Dev.onSlot_free (d : Dev) (n : Nat) (f) : (d.onSlot n f).free = d.free := rfl
@[simp] theorem Dev.onSlot_out (d : Dev) (n : Nat) (f) : (d.onSlot n f).out = d.out := rfl

@[simp] theorem Dev.setJob_kind (d : Dev) (n : Nat) (v) : (d.setJob n v).kind = d.kind := rfl
@[simp] theorem Dev.setJob_time (d : Dev) (n : Nat) (v) : (d.setJob n v).time = d.time := rfl
@[simp] theorem Dev.setJob_reset (d : Dev) (n : Nat) (v) : (d.setJob n v).reset = d.reset := rfl
@[simp] theorem Dev.setJob_fuses (d : Dev) (n : Nat) (v) : (d.setJob n v).fuses = d.fuses := rfl
@[simp] theorem Dev.setJob_hall (d : Dev) (n : Nat) (v) : (d.setJob n v).hall = d.hall := rfl
@[simp] theorem Dev.setJob_threads (d : Dev) (n : Nat) (v) : (d.setJob n v).threads = d.threads := rfl
@[simp] theorem Dev.setJob_lastPicked (d : Dev) (n : Nat) (v) : (d.setJob n v).lastPicked = d.lastPicked := rfl
@[simp] theorem Dev.setJob_larder (d : Dev) (n : Nat) (v) : (d.setJob n v).larder = d.larder := rfl
@[simp] theorem Dev.setJob_mgmt (d : Dev) (n : Nat) (v) : (d.setJob n v).mgmt = d.mgmt := rfl
@[simp] theorem Dev.setJob_host (d : Dev) (n : Nat) (v) : (d.setJob n v).host = d.host := rfl
@[simp] theorem Dev.setJob_parts (d : Dev) (n : Nat) (v) : (d.setJob n v).parts = d.parts := rfl
@[simp] theorem Dev.setJob_regionPool (d : Dev) (n : Nat) (v) : (d.setJob n v).regionPool = d.regionPool := rfl
@[simp] theorem Dev.setJob_chanPool (d : Dev) (n : Nat) (v) : (d.setJob n v).chanPool = d.chanPool := rfl
@[simp] theorem Dev.setJob_squarePool (d : Dev) (n : Nat) (v) : (d.setJob n v).squarePool = d.squarePool := rfl
@[simp] theorem Dev.setJob_chans (d : Dev) (n : Nat) (v) : (d.setJob n v).chans = d.chans := rfl
@[simp] theorem Dev.setJob_ports (d : Dev) (n : Nat) (v) : (d.setJob n v).ports = d.ports := rfl
@[simp] theorem Dev.setJob_squares (d : Dev) (n : Nat) (v) : (d.setJob n v).squares = d.squares := rfl
@[simp] theorem Dev.setJob_sqReads (d : Dev) (n : Nat) (v) : (d.setJob n v).sqReads = d.sqReads := rfl
@[simp] theorem Dev.setJob_sqResps (d : Dev) (n : Nat) (v) : (d.setJob n v).sqResps = d.sqResps := rfl
@[simp] theorem Dev.setJob_merge (d : Dev) (n : Nat) (v) : (d.setJob n v).merge = d.merge := rfl
@[simp] theorem Dev.setJob_parked (d : Dev) (n : Nat) (v) : (d.setJob n v).parked = d.parked := rfl
@[simp] theorem Dev.setJob_assembling (d : Dev) (n : Nat) (v) : (d.setJob n v).assembling = d.assembling := rfl
@[simp] theorem Dev.setJob_inbox (d : Dev) (n : Nat) (v) : (d.setJob n v).inbox = d.inbox := rfl
@[simp] theorem Dev.setJob_engines (d : Dev) (n : Nat) (v) : (d.setJob n v).engines = d.engines := rfl
@[simp] theorem Dev.setJob_regions (d : Dev) (n : Nat) (v) : (d.setJob n v).regions = d.regions := rfl
@[simp] theorem Dev.setJob_vault (d : Dev) (n : Nat) (v) : (d.setJob n v).vault = d.vault := rfl
@[simp] theorem Dev.setJob_count (d : Dev) (n : Nat) (v) : (d.setJob n v).count = d.count := rfl
@[simp] theorem Dev.setJob_attic (d : Dev) (n : Nat) (v) : (d.setJob n v).attic = d.attic := rfl
@[simp] theorem Dev.setJob_intc (d : Dev) (n : Nat) (v) : (d.setJob n v).intc = d.intc := rfl
@[simp] theorem Dev.setJob_cellar (d : Dev) (n : Nat) (v) : (d.setJob n v).cellar = d.cellar := rfl
@[simp] theorem Dev.setJob_power (d : Dev) (n : Nat) (v) : (d.setJob n v).power = d.power := rfl
@[simp] theorem Dev.setJob_drawWait (d : Dev) (n : Nat) (v) : (d.setJob n v).drawWait = d.drawWait := rfl
@[simp] theorem Dev.setJob_opSeq (d : Dev) (n : Nat) (v) : (d.setJob n v).opSeq = d.opSeq := rfl
@[simp] theorem Dev.setJob_free (d : Dev) (n : Nat) (v) : (d.setJob n v).free = d.free := rfl
@[simp] theorem Dev.setJob_out (d : Dev) (n : Nat) (v) : (d.setJob n v).out = d.out := rfl

@[simp] theorem Dev.onJob_kind (d : Dev) (n : Nat) (f) : (d.onJob n f).kind = d.kind := rfl
@[simp] theorem Dev.onJob_time (d : Dev) (n : Nat) (f) : (d.onJob n f).time = d.time := rfl
@[simp] theorem Dev.onJob_reset (d : Dev) (n : Nat) (f) : (d.onJob n f).reset = d.reset := rfl
@[simp] theorem Dev.onJob_fuses (d : Dev) (n : Nat) (f) : (d.onJob n f).fuses = d.fuses := rfl
@[simp] theorem Dev.onJob_hall (d : Dev) (n : Nat) (f) : (d.onJob n f).hall = d.hall := rfl
@[simp] theorem Dev.onJob_threads (d : Dev) (n : Nat) (f) : (d.onJob n f).threads = d.threads := rfl
@[simp] theorem Dev.onJob_lastPicked (d : Dev) (n : Nat) (f) : (d.onJob n f).lastPicked = d.lastPicked := rfl
@[simp] theorem Dev.onJob_larder (d : Dev) (n : Nat) (f) : (d.onJob n f).larder = d.larder := rfl
@[simp] theorem Dev.onJob_mgmt (d : Dev) (n : Nat) (f) : (d.onJob n f).mgmt = d.mgmt := rfl
@[simp] theorem Dev.onJob_host (d : Dev) (n : Nat) (f) : (d.onJob n f).host = d.host := rfl
@[simp] theorem Dev.onJob_parts (d : Dev) (n : Nat) (f) : (d.onJob n f).parts = d.parts := rfl
@[simp] theorem Dev.onJob_regionPool (d : Dev) (n : Nat) (f) : (d.onJob n f).regionPool = d.regionPool := rfl
@[simp] theorem Dev.onJob_chanPool (d : Dev) (n : Nat) (f) : (d.onJob n f).chanPool = d.chanPool := rfl
@[simp] theorem Dev.onJob_squarePool (d : Dev) (n : Nat) (f) : (d.onJob n f).squarePool = d.squarePool := rfl
@[simp] theorem Dev.onJob_chans (d : Dev) (n : Nat) (f) : (d.onJob n f).chans = d.chans := rfl
@[simp] theorem Dev.onJob_ports (d : Dev) (n : Nat) (f) : (d.onJob n f).ports = d.ports := rfl
@[simp] theorem Dev.onJob_squares (d : Dev) (n : Nat) (f) : (d.onJob n f).squares = d.squares := rfl
@[simp] theorem Dev.onJob_sqReads (d : Dev) (n : Nat) (f) : (d.onJob n f).sqReads = d.sqReads := rfl
@[simp] theorem Dev.onJob_sqResps (d : Dev) (n : Nat) (f) : (d.onJob n f).sqResps = d.sqResps := rfl
@[simp] theorem Dev.onJob_merge (d : Dev) (n : Nat) (f) : (d.onJob n f).merge = d.merge := rfl
@[simp] theorem Dev.onJob_parked (d : Dev) (n : Nat) (f) : (d.onJob n f).parked = d.parked := rfl
@[simp] theorem Dev.onJob_assembling (d : Dev) (n : Nat) (f) : (d.onJob n f).assembling = d.assembling := rfl
@[simp] theorem Dev.onJob_inbox (d : Dev) (n : Nat) (f) : (d.onJob n f).inbox = d.inbox := rfl
@[simp] theorem Dev.onJob_engines (d : Dev) (n : Nat) (f) : (d.onJob n f).engines = d.engines := rfl
@[simp] theorem Dev.onJob_regions (d : Dev) (n : Nat) (f) : (d.onJob n f).regions = d.regions := rfl
@[simp] theorem Dev.onJob_vault (d : Dev) (n : Nat) (f) : (d.onJob n f).vault = d.vault := rfl
@[simp] theorem Dev.onJob_count (d : Dev) (n : Nat) (f) : (d.onJob n f).count = d.count := rfl
@[simp] theorem Dev.onJob_attic (d : Dev) (n : Nat) (f) : (d.onJob n f).attic = d.attic := rfl
@[simp] theorem Dev.onJob_intc (d : Dev) (n : Nat) (f) : (d.onJob n f).intc = d.intc := rfl
@[simp] theorem Dev.onJob_cellar (d : Dev) (n : Nat) (f) : (d.onJob n f).cellar = d.cellar := rfl
@[simp] theorem Dev.onJob_power (d : Dev) (n : Nat) (f) : (d.onJob n f).power = d.power := rfl
@[simp] theorem Dev.onJob_drawWait (d : Dev) (n : Nat) (f) : (d.onJob n f).drawWait = d.drawWait := rfl
@[simp] theorem Dev.onJob_opSeq (d : Dev) (n : Nat) (f) : (d.onJob n f).opSeq = d.opSeq := rfl
@[simp] theorem Dev.onJob_free (d : Dev) (n : Nat) (f) : (d.onJob n f).free = d.free := rfl
@[simp] theorem Dev.onJob_out (d : Dev) (n : Nat) (f) : (d.onJob n f).out = d.out := rfl

@[simp] theorem Dev.onPdom_kind (d : Dev) (n : Nat) (f) : (d.onPdom n f).kind = d.kind := rfl
@[simp] theorem Dev.onPdom_time (d : Dev) (n : Nat) (f) : (d.onPdom n f).time = d.time := rfl
@[simp] theorem Dev.onPdom_reset (d : Dev) (n : Nat) (f) : (d.onPdom n f).reset = d.reset := rfl
@[simp] theorem Dev.onPdom_fuses (d : Dev) (n : Nat) (f) : (d.onPdom n f).fuses = d.fuses := rfl
@[simp] theorem Dev.onPdom_hall (d : Dev) (n : Nat) (f) : (d.onPdom n f).hall = d.hall := rfl
@[simp] theorem Dev.onPdom_threads (d : Dev) (n : Nat) (f) : (d.onPdom n f).threads = d.threads := rfl
@[simp] theorem Dev.onPdom_lastPicked (d : Dev) (n : Nat) (f) : (d.onPdom n f).lastPicked = d.lastPicked := rfl
@[simp] theorem Dev.onPdom_larder (d : Dev) (n : Nat) (f) : (d.onPdom n f).larder = d.larder := rfl
@[simp] theorem Dev.onPdom_mgmt (d : Dev) (n : Nat) (f) : (d.onPdom n f).mgmt = d.mgmt := rfl
@[simp] theorem Dev.onPdom_host (d : Dev) (n : Nat) (f) : (d.onPdom n f).host = d.host := rfl
@[simp] theorem Dev.onPdom_parts (d : Dev) (n : Nat) (f) : (d.onPdom n f).parts = d.parts := rfl
@[simp] theorem Dev.onPdom_regionPool (d : Dev) (n : Nat) (f) : (d.onPdom n f).regionPool = d.regionPool := rfl
@[simp] theorem Dev.onPdom_chanPool (d : Dev) (n : Nat) (f) : (d.onPdom n f).chanPool = d.chanPool := rfl
@[simp] theorem Dev.onPdom_squarePool (d : Dev) (n : Nat) (f) : (d.onPdom n f).squarePool = d.squarePool := rfl
@[simp] theorem Dev.onPdom_chans (d : Dev) (n : Nat) (f) : (d.onPdom n f).chans = d.chans := rfl
@[simp] theorem Dev.onPdom_ports (d : Dev) (n : Nat) (f) : (d.onPdom n f).ports = d.ports := rfl
@[simp] theorem Dev.onPdom_squares (d : Dev) (n : Nat) (f) : (d.onPdom n f).squares = d.squares := rfl
@[simp] theorem Dev.onPdom_sqReads (d : Dev) (n : Nat) (f) : (d.onPdom n f).sqReads = d.sqReads := rfl
@[simp] theorem Dev.onPdom_sqResps (d : Dev) (n : Nat) (f) : (d.onPdom n f).sqResps = d.sqResps := rfl
@[simp] theorem Dev.onPdom_merge (d : Dev) (n : Nat) (f) : (d.onPdom n f).merge = d.merge := rfl
@[simp] theorem Dev.onPdom_parked (d : Dev) (n : Nat) (f) : (d.onPdom n f).parked = d.parked := rfl
@[simp] theorem Dev.onPdom_assembling (d : Dev) (n : Nat) (f) : (d.onPdom n f).assembling = d.assembling := rfl
@[simp] theorem Dev.onPdom_inbox (d : Dev) (n : Nat) (f) : (d.onPdom n f).inbox = d.inbox := rfl
@[simp] theorem Dev.onPdom_engines (d : Dev) (n : Nat) (f) : (d.onPdom n f).engines = d.engines := rfl
@[simp] theorem Dev.onPdom_regions (d : Dev) (n : Nat) (f) : (d.onPdom n f).regions = d.regions := rfl
@[simp] theorem Dev.onPdom_thresh (d : Dev) (n : Nat) (f) : (d.onPdom n f).thresh = d.thresh := rfl
@[simp] theorem Dev.onPdom_vault (d : Dev) (n : Nat) (f) : (d.onPdom n f).vault = d.vault := rfl
@[simp] theorem Dev.onPdom_count (d : Dev) (n : Nat) (f) : (d.onPdom n f).count = d.count := rfl
@[simp] theorem Dev.onPdom_attic (d : Dev) (n : Nat) (f) : (d.onPdom n f).attic = d.attic := rfl
@[simp] theorem Dev.onPdom_intc (d : Dev) (n : Nat) (f) : (d.onPdom n f).intc = d.intc := rfl
@[simp] theorem Dev.onPdom_cellar (d : Dev) (n : Nat) (f) : (d.onPdom n f).cellar = d.cellar := rfl
@[simp] theorem Dev.onPdom_drawWait (d : Dev) (n : Nat) (f) : (d.onPdom n f).drawWait = d.drawWait := rfl
@[simp] theorem Dev.onPdom_opSeq (d : Dev) (n : Nat) (f) : (d.onPdom n f).opSeq = d.opSeq := rfl
@[simp] theorem Dev.onPdom_free (d : Dev) (n : Nat) (f) : (d.onPdom n f).free = d.free := rfl
@[simp] theorem Dev.onPdom_out (d : Dev) (n : Nat) (f) : (d.onPdom n f).out = d.out := rfl

@[simp] theorem Dev.onHall_kind (d : Dev) (f) : (d.onHall f).kind = d.kind := rfl
@[simp] theorem Dev.onHall_time (d : Dev) (f) : (d.onHall f).time = d.time := rfl
@[simp] theorem Dev.onHall_reset (d : Dev) (f) : (d.onHall f).reset = d.reset := rfl
@[simp] theorem Dev.onHall_fuses (d : Dev) (f) : (d.onHall f).fuses = d.fuses := rfl
@[simp] theorem Dev.onHall_hall (d : Dev) (f) : (d.onHall f).hall = f d.hall := rfl
@[simp] theorem Dev.onHall_threads (d : Dev) (f) : (d.onHall f).threads = d.threads := rfl
@[simp] theorem Dev.onHall_lastPicked (d : Dev) (f) : (d.onHall f).lastPicked = d.lastPicked := rfl
@[simp] theorem Dev.onHall_larder (d : Dev) (f) : (d.onHall f).larder = d.larder := rfl
@[simp] theorem Dev.onHall_mgmt (d : Dev) (f) : (d.onHall f).mgmt = d.mgmt := rfl
@[simp] theorem Dev.onHall_host (d : Dev) (f) : (d.onHall f).host = d.host := rfl
@[simp] theorem Dev.onHall_parts (d : Dev) (f) : (d.onHall f).parts = d.parts := rfl
@[simp] theorem Dev.onHall_regionPool (d : Dev) (f) : (d.onHall f).regionPool = d.regionPool := rfl
@[simp] theorem Dev.onHall_chanPool (d : Dev) (f) : (d.onHall f).chanPool = d.chanPool := rfl
@[simp] theorem Dev.onHall_squarePool (d : Dev) (f) : (d.onHall f).squarePool = d.squarePool := rfl
@[simp] theorem Dev.onHall_chans (d : Dev) (f) : (d.onHall f).chans = d.chans := rfl
@[simp] theorem Dev.onHall_ports (d : Dev) (f) : (d.onHall f).ports = d.ports := rfl
@[simp] theorem Dev.onHall_squares (d : Dev) (f) : (d.onHall f).squares = d.squares := rfl
@[simp] theorem Dev.onHall_sqReads (d : Dev) (f) : (d.onHall f).sqReads = d.sqReads := rfl
@[simp] theorem Dev.onHall_sqResps (d : Dev) (f) : (d.onHall f).sqResps = d.sqResps := rfl
@[simp] theorem Dev.onHall_merge (d : Dev) (f) : (d.onHall f).merge = d.merge := rfl
@[simp] theorem Dev.onHall_parked (d : Dev) (f) : (d.onHall f).parked = d.parked := rfl
@[simp] theorem Dev.onHall_assembling (d : Dev) (f) : (d.onHall f).assembling = d.assembling := rfl
@[simp] theorem Dev.onHall_inbox (d : Dev) (f) : (d.onHall f).inbox = d.inbox := rfl
@[simp] theorem Dev.onHall_engines (d : Dev) (f) : (d.onHall f).engines = d.engines := rfl
@[simp] theorem Dev.onHall_regions (d : Dev) (f) : (d.onHall f).regions = d.regions := rfl
@[simp] theorem Dev.onHall_thresh (d : Dev) (f) : (d.onHall f).thresh = d.thresh := rfl
@[simp] theorem Dev.onHall_vault (d : Dev) (f) : (d.onHall f).vault = d.vault := rfl
@[simp] theorem Dev.onHall_count (d : Dev) (f) : (d.onHall f).count = d.count := rfl
@[simp] theorem Dev.onHall_attic (d : Dev) (f) : (d.onHall f).attic = d.attic := rfl
@[simp] theorem Dev.onHall_intc (d : Dev) (f) : (d.onHall f).intc = d.intc := rfl
@[simp] theorem Dev.onHall_cellar (d : Dev) (f) : (d.onHall f).cellar = d.cellar := rfl
@[simp] theorem Dev.onHall_power (d : Dev) (f) : (d.onHall f).power = d.power := rfl
@[simp] theorem Dev.onHall_drawWait (d : Dev) (f) : (d.onHall f).drawWait = d.drawWait := rfl
@[simp] theorem Dev.onHall_opSeq (d : Dev) (f) : (d.onHall f).opSeq = d.opSeq := rfl
@[simp] theorem Dev.onHall_free (d : Dev) (f) : (d.onHall f).free = d.free := rfl
@[simp] theorem Dev.onHall_out (d : Dev) (f) : (d.onHall f).out = d.out := rfl

@[simp] theorem Dev.onLarder_kind (d : Dev) (f) : (d.onLarder f).kind = d.kind := rfl
@[simp] theorem Dev.onLarder_time (d : Dev) (f) : (d.onLarder f).time = d.time := rfl
@[simp] theorem Dev.onLarder_reset (d : Dev) (f) : (d.onLarder f).reset = d.reset := rfl
@[simp] theorem Dev.onLarder_fuses (d : Dev) (f) : (d.onLarder f).fuses = d.fuses := rfl
@[simp] theorem Dev.onLarder_hall (d : Dev) (f) : (d.onLarder f).hall = d.hall := rfl
@[simp] theorem Dev.onLarder_threads (d : Dev) (f) : (d.onLarder f).threads = d.threads := rfl
@[simp] theorem Dev.onLarder_lastPicked (d : Dev) (f) : (d.onLarder f).lastPicked = d.lastPicked := rfl
@[simp] theorem Dev.onLarder_larder (d : Dev) (f) : (d.onLarder f).larder = f d.larder := rfl
@[simp] theorem Dev.onLarder_mgmt (d : Dev) (f) : (d.onLarder f).mgmt = d.mgmt := rfl
@[simp] theorem Dev.onLarder_host (d : Dev) (f) : (d.onLarder f).host = d.host := rfl
@[simp] theorem Dev.onLarder_parts (d : Dev) (f) : (d.onLarder f).parts = d.parts := rfl
@[simp] theorem Dev.onLarder_regionPool (d : Dev) (f) : (d.onLarder f).regionPool = d.regionPool := rfl
@[simp] theorem Dev.onLarder_chanPool (d : Dev) (f) : (d.onLarder f).chanPool = d.chanPool := rfl
@[simp] theorem Dev.onLarder_squarePool (d : Dev) (f) : (d.onLarder f).squarePool = d.squarePool := rfl
@[simp] theorem Dev.onLarder_chans (d : Dev) (f) : (d.onLarder f).chans = d.chans := rfl
@[simp] theorem Dev.onLarder_ports (d : Dev) (f) : (d.onLarder f).ports = d.ports := rfl
@[simp] theorem Dev.onLarder_squares (d : Dev) (f) : (d.onLarder f).squares = d.squares := rfl
@[simp] theorem Dev.onLarder_sqReads (d : Dev) (f) : (d.onLarder f).sqReads = d.sqReads := rfl
@[simp] theorem Dev.onLarder_sqResps (d : Dev) (f) : (d.onLarder f).sqResps = d.sqResps := rfl
@[simp] theorem Dev.onLarder_merge (d : Dev) (f) : (d.onLarder f).merge = d.merge := rfl
@[simp] theorem Dev.onLarder_parked (d : Dev) (f) : (d.onLarder f).parked = d.parked := rfl
@[simp] theorem Dev.onLarder_assembling (d : Dev) (f) : (d.onLarder f).assembling = d.assembling := rfl
@[simp] theorem Dev.onLarder_inbox (d : Dev) (f) : (d.onLarder f).inbox = d.inbox := rfl
@[simp] theorem Dev.onLarder_engines (d : Dev) (f) : (d.onLarder f).engines = d.engines := rfl
@[simp] theorem Dev.onLarder_regions (d : Dev) (f) : (d.onLarder f).regions = d.regions := rfl
@[simp] theorem Dev.onLarder_thresh (d : Dev) (f) : (d.onLarder f).thresh = d.thresh := rfl
@[simp] theorem Dev.onLarder_vault (d : Dev) (f) : (d.onLarder f).vault = d.vault := rfl
@[simp] theorem Dev.onLarder_count (d : Dev) (f) : (d.onLarder f).count = d.count := rfl
@[simp] theorem Dev.onLarder_attic (d : Dev) (f) : (d.onLarder f).attic = d.attic := rfl
@[simp] theorem Dev.onLarder_intc (d : Dev) (f) : (d.onLarder f).intc = d.intc := rfl
@[simp] theorem Dev.onLarder_cellar (d : Dev) (f) : (d.onLarder f).cellar = d.cellar := rfl
@[simp] theorem Dev.onLarder_power (d : Dev) (f) : (d.onLarder f).power = d.power := rfl
@[simp] theorem Dev.onLarder_drawWait (d : Dev) (f) : (d.onLarder f).drawWait = d.drawWait := rfl
@[simp] theorem Dev.onLarder_opSeq (d : Dev) (f) : (d.onLarder f).opSeq = d.opSeq := rfl
@[simp] theorem Dev.onLarder_free (d : Dev) (f) : (d.onLarder f).free = d.free := rfl
@[simp] theorem Dev.onLarder_out (d : Dev) (f) : (d.onLarder f).out = d.out := rfl

@[simp] theorem Dev.onMgmt_kind (d : Dev) (f) : (d.onMgmt f).kind = d.kind := rfl
@[simp] theorem Dev.onMgmt_time (d : Dev) (f) : (d.onMgmt f).time = d.time := rfl
@[simp] theorem Dev.onMgmt_reset (d : Dev) (f) : (d.onMgmt f).reset = d.reset := rfl
@[simp] theorem Dev.onMgmt_fuses (d : Dev) (f) : (d.onMgmt f).fuses = d.fuses := rfl
@[simp] theorem Dev.onMgmt_hall (d : Dev) (f) : (d.onMgmt f).hall = d.hall := rfl
@[simp] theorem Dev.onMgmt_threads (d : Dev) (f) : (d.onMgmt f).threads = d.threads := rfl
@[simp] theorem Dev.onMgmt_lastPicked (d : Dev) (f) : (d.onMgmt f).lastPicked = d.lastPicked := rfl
@[simp] theorem Dev.onMgmt_larder (d : Dev) (f) : (d.onMgmt f).larder = d.larder := rfl
@[simp] theorem Dev.onMgmt_mgmt (d : Dev) (f) : (d.onMgmt f).mgmt = f d.mgmt := rfl
@[simp] theorem Dev.onMgmt_host (d : Dev) (f) : (d.onMgmt f).host = d.host := rfl
@[simp] theorem Dev.onMgmt_parts (d : Dev) (f) : (d.onMgmt f).parts = d.parts := rfl
@[simp] theorem Dev.onMgmt_regionPool (d : Dev) (f) : (d.onMgmt f).regionPool = d.regionPool := rfl
@[simp] theorem Dev.onMgmt_chanPool (d : Dev) (f) : (d.onMgmt f).chanPool = d.chanPool := rfl
@[simp] theorem Dev.onMgmt_squarePool (d : Dev) (f) : (d.onMgmt f).squarePool = d.squarePool := rfl
@[simp] theorem Dev.onMgmt_chans (d : Dev) (f) : (d.onMgmt f).chans = d.chans := rfl
@[simp] theorem Dev.onMgmt_ports (d : Dev) (f) : (d.onMgmt f).ports = d.ports := rfl
@[simp] theorem Dev.onMgmt_squares (d : Dev) (f) : (d.onMgmt f).squares = d.squares := rfl
@[simp] theorem Dev.onMgmt_sqReads (d : Dev) (f) : (d.onMgmt f).sqReads = d.sqReads := rfl
@[simp] theorem Dev.onMgmt_sqResps (d : Dev) (f) : (d.onMgmt f).sqResps = d.sqResps := rfl
@[simp] theorem Dev.onMgmt_merge (d : Dev) (f) : (d.onMgmt f).merge = d.merge := rfl
@[simp] theorem Dev.onMgmt_parked (d : Dev) (f) : (d.onMgmt f).parked = d.parked := rfl
@[simp] theorem Dev.onMgmt_assembling (d : Dev) (f) : (d.onMgmt f).assembling = d.assembling := rfl
@[simp] theorem Dev.onMgmt_inbox (d : Dev) (f) : (d.onMgmt f).inbox = d.inbox := rfl
@[simp] theorem Dev.onMgmt_engines (d : Dev) (f) : (d.onMgmt f).engines = d.engines := rfl
@[simp] theorem Dev.onMgmt_regions (d : Dev) (f) : (d.onMgmt f).regions = d.regions := rfl
@[simp] theorem Dev.onMgmt_thresh (d : Dev) (f) : (d.onMgmt f).thresh = d.thresh := rfl
@[simp] theorem Dev.onMgmt_vault (d : Dev) (f) : (d.onMgmt f).vault = d.vault := rfl
@[simp] theorem Dev.onMgmt_count (d : Dev) (f) : (d.onMgmt f).count = d.count := rfl
@[simp] theorem Dev.onMgmt_attic (d : Dev) (f) : (d.onMgmt f).attic = d.attic := rfl
@[simp] theorem Dev.onMgmt_intc (d : Dev) (f) : (d.onMgmt f).intc = d.intc := rfl
@[simp] theorem Dev.onMgmt_cellar (d : Dev) (f) : (d.onMgmt f).cellar = d.cellar := rfl
@[simp] theorem Dev.onMgmt_power (d : Dev) (f) : (d.onMgmt f).power = d.power := rfl
@[simp] theorem Dev.onMgmt_drawWait (d : Dev) (f) : (d.onMgmt f).drawWait = d.drawWait := rfl
@[simp] theorem Dev.onMgmt_opSeq (d : Dev) (f) : (d.onMgmt f).opSeq = d.opSeq := rfl
@[simp] theorem Dev.onMgmt_free (d : Dev) (f) : (d.onMgmt f).free = d.free := rfl
@[simp] theorem Dev.onMgmt_out (d : Dev) (f) : (d.onMgmt f).out = d.out := rfl

@[simp] theorem Dev.onHost_kind (d : Dev) (f) : (d.onHost f).kind = d.kind := rfl
@[simp] theorem Dev.onHost_time (d : Dev) (f) : (d.onHost f).time = d.time := rfl
@[simp] theorem Dev.onHost_reset (d : Dev) (f) : (d.onHost f).reset = d.reset := rfl
@[simp] theorem Dev.onHost_fuses (d : Dev) (f) : (d.onHost f).fuses = d.fuses := rfl
@[simp] theorem Dev.onHost_hall (d : Dev) (f) : (d.onHost f).hall = d.hall := rfl
@[simp] theorem Dev.onHost_threads (d : Dev) (f) : (d.onHost f).threads = d.threads := rfl
@[simp] theorem Dev.onHost_lastPicked (d : Dev) (f) : (d.onHost f).lastPicked = d.lastPicked := rfl
@[simp] theorem Dev.onHost_larder (d : Dev) (f) : (d.onHost f).larder = d.larder := rfl
@[simp] theorem Dev.onHost_mgmt (d : Dev) (f) : (d.onHost f).mgmt = d.mgmt := rfl
@[simp] theorem Dev.onHost_host (d : Dev) (f) : (d.onHost f).host = f d.host := rfl
@[simp] theorem Dev.onHost_parts (d : Dev) (f) : (d.onHost f).parts = d.parts := rfl
@[simp] theorem Dev.onHost_regionPool (d : Dev) (f) : (d.onHost f).regionPool = d.regionPool := rfl
@[simp] theorem Dev.onHost_chanPool (d : Dev) (f) : (d.onHost f).chanPool = d.chanPool := rfl
@[simp] theorem Dev.onHost_squarePool (d : Dev) (f) : (d.onHost f).squarePool = d.squarePool := rfl
@[simp] theorem Dev.onHost_chans (d : Dev) (f) : (d.onHost f).chans = d.chans := rfl
@[simp] theorem Dev.onHost_ports (d : Dev) (f) : (d.onHost f).ports = d.ports := rfl
@[simp] theorem Dev.onHost_squares (d : Dev) (f) : (d.onHost f).squares = d.squares := rfl
@[simp] theorem Dev.onHost_sqReads (d : Dev) (f) : (d.onHost f).sqReads = d.sqReads := rfl
@[simp] theorem Dev.onHost_sqResps (d : Dev) (f) : (d.onHost f).sqResps = d.sqResps := rfl
@[simp] theorem Dev.onHost_merge (d : Dev) (f) : (d.onHost f).merge = d.merge := rfl
@[simp] theorem Dev.onHost_parked (d : Dev) (f) : (d.onHost f).parked = d.parked := rfl
@[simp] theorem Dev.onHost_assembling (d : Dev) (f) : (d.onHost f).assembling = d.assembling := rfl
@[simp] theorem Dev.onHost_inbox (d : Dev) (f) : (d.onHost f).inbox = d.inbox := rfl
@[simp] theorem Dev.onHost_engines (d : Dev) (f) : (d.onHost f).engines = d.engines := rfl
@[simp] theorem Dev.onHost_regions (d : Dev) (f) : (d.onHost f).regions = d.regions := rfl
@[simp] theorem Dev.onHost_thresh (d : Dev) (f) : (d.onHost f).thresh = d.thresh := rfl
@[simp] theorem Dev.onHost_vault (d : Dev) (f) : (d.onHost f).vault = d.vault := rfl
@[simp] theorem Dev.onHost_count (d : Dev) (f) : (d.onHost f).count = d.count := rfl
@[simp] theorem Dev.onHost_attic (d : Dev) (f) : (d.onHost f).attic = d.attic := rfl
@[simp] theorem Dev.onHost_intc (d : Dev) (f) : (d.onHost f).intc = d.intc := rfl
@[simp] theorem Dev.onHost_cellar (d : Dev) (f) : (d.onHost f).cellar = d.cellar := rfl
@[simp] theorem Dev.onHost_power (d : Dev) (f) : (d.onHost f).power = d.power := rfl
@[simp] theorem Dev.onHost_drawWait (d : Dev) (f) : (d.onHost f).drawWait = d.drawWait := rfl
@[simp] theorem Dev.onHost_opSeq (d : Dev) (f) : (d.onHost f).opSeq = d.opSeq := rfl
@[simp] theorem Dev.onHost_free (d : Dev) (f) : (d.onHost f).free = d.free := rfl
@[simp] theorem Dev.onHost_out (d : Dev) (f) : (d.onHost f).out = d.out := rfl

@[simp] theorem Dev.onVault_kind (d : Dev) (f) : (d.onVault f).kind = d.kind := rfl
@[simp] theorem Dev.onVault_time (d : Dev) (f) : (d.onVault f).time = d.time := rfl
@[simp] theorem Dev.onVault_reset (d : Dev) (f) : (d.onVault f).reset = d.reset := rfl
@[simp] theorem Dev.onVault_fuses (d : Dev) (f) : (d.onVault f).fuses = d.fuses := rfl
@[simp] theorem Dev.onVault_hall (d : Dev) (f) : (d.onVault f).hall = d.hall := rfl
@[simp] theorem Dev.onVault_threads (d : Dev) (f) : (d.onVault f).threads = d.threads := rfl
@[simp] theorem Dev.onVault_lastPicked (d : Dev) (f) : (d.onVault f).lastPicked = d.lastPicked := rfl
@[simp] theorem Dev.onVault_larder (d : Dev) (f) : (d.onVault f).larder = d.larder := rfl
@[simp] theorem Dev.onVault_mgmt (d : Dev) (f) : (d.onVault f).mgmt = d.mgmt := rfl
@[simp] theorem Dev.onVault_host (d : Dev) (f) : (d.onVault f).host = d.host := rfl
@[simp] theorem Dev.onVault_parts (d : Dev) (f) : (d.onVault f).parts = d.parts := rfl
@[simp] theorem Dev.onVault_regionPool (d : Dev) (f) : (d.onVault f).regionPool = d.regionPool := rfl
@[simp] theorem Dev.onVault_chanPool (d : Dev) (f) : (d.onVault f).chanPool = d.chanPool := rfl
@[simp] theorem Dev.onVault_squarePool (d : Dev) (f) : (d.onVault f).squarePool = d.squarePool := rfl
@[simp] theorem Dev.onVault_chans (d : Dev) (f) : (d.onVault f).chans = d.chans := rfl
@[simp] theorem Dev.onVault_ports (d : Dev) (f) : (d.onVault f).ports = d.ports := rfl
@[simp] theorem Dev.onVault_squares (d : Dev) (f) : (d.onVault f).squares = d.squares := rfl
@[simp] theorem Dev.onVault_sqReads (d : Dev) (f) : (d.onVault f).sqReads = d.sqReads := rfl
@[simp] theorem Dev.onVault_sqResps (d : Dev) (f) : (d.onVault f).sqResps = d.sqResps := rfl
@[simp] theorem Dev.onVault_merge (d : Dev) (f) : (d.onVault f).merge = d.merge := rfl
@[simp] theorem Dev.onVault_parked (d : Dev) (f) : (d.onVault f).parked = d.parked := rfl
@[simp] theorem Dev.onVault_assembling (d : Dev) (f) : (d.onVault f).assembling = d.assembling := rfl
@[simp] theorem Dev.onVault_inbox (d : Dev) (f) : (d.onVault f).inbox = d.inbox := rfl
@[simp] theorem Dev.onVault_engines (d : Dev) (f) : (d.onVault f).engines = d.engines := rfl
@[simp] theorem Dev.onVault_regions (d : Dev) (f) : (d.onVault f).regions = d.regions := rfl
@[simp] theorem Dev.onVault_thresh (d : Dev) (f) : (d.onVault f).thresh = d.thresh := rfl
@[simp] theorem Dev.onVault_vault (d : Dev) (f) : (d.onVault f).vault = f d.vault := rfl
@[simp] theorem Dev.onVault_count (d : Dev) (f) : (d.onVault f).count = d.count := rfl
@[simp] theorem Dev.onVault_attic (d : Dev) (f) : (d.onVault f).attic = d.attic := rfl
@[simp] theorem Dev.onVault_intc (d : Dev) (f) : (d.onVault f).intc = d.intc := rfl
@[simp] theorem Dev.onVault_cellar (d : Dev) (f) : (d.onVault f).cellar = d.cellar := rfl
@[simp] theorem Dev.onVault_power (d : Dev) (f) : (d.onVault f).power = d.power := rfl
@[simp] theorem Dev.onVault_drawWait (d : Dev) (f) : (d.onVault f).drawWait = d.drawWait := rfl
@[simp] theorem Dev.onVault_opSeq (d : Dev) (f) : (d.onVault f).opSeq = d.opSeq := rfl
@[simp] theorem Dev.onVault_free (d : Dev) (f) : (d.onVault f).free = d.free := rfl
@[simp] theorem Dev.onVault_out (d : Dev) (f) : (d.onVault f).out = d.out := rfl

@[simp] theorem Dev.onIntc_kind (d : Dev) (f) : (d.onIntc f).kind = d.kind := rfl
@[simp] theorem Dev.onIntc_time (d : Dev) (f) : (d.onIntc f).time = d.time := rfl
@[simp] theorem Dev.onIntc_reset (d : Dev) (f) : (d.onIntc f).reset = d.reset := rfl
@[simp] theorem Dev.onIntc_fuses (d : Dev) (f) : (d.onIntc f).fuses = d.fuses := rfl
@[simp] theorem Dev.onIntc_hall (d : Dev) (f) : (d.onIntc f).hall = d.hall := rfl
@[simp] theorem Dev.onIntc_threads (d : Dev) (f) : (d.onIntc f).threads = d.threads := rfl
@[simp] theorem Dev.onIntc_lastPicked (d : Dev) (f) : (d.onIntc f).lastPicked = d.lastPicked := rfl
@[simp] theorem Dev.onIntc_larder (d : Dev) (f) : (d.onIntc f).larder = d.larder := rfl
@[simp] theorem Dev.onIntc_mgmt (d : Dev) (f) : (d.onIntc f).mgmt = d.mgmt := rfl
@[simp] theorem Dev.onIntc_host (d : Dev) (f) : (d.onIntc f).host = d.host := rfl
@[simp] theorem Dev.onIntc_parts (d : Dev) (f) : (d.onIntc f).parts = d.parts := rfl
@[simp] theorem Dev.onIntc_regionPool (d : Dev) (f) : (d.onIntc f).regionPool = d.regionPool := rfl
@[simp] theorem Dev.onIntc_chanPool (d : Dev) (f) : (d.onIntc f).chanPool = d.chanPool := rfl
@[simp] theorem Dev.onIntc_squarePool (d : Dev) (f) : (d.onIntc f).squarePool = d.squarePool := rfl
@[simp] theorem Dev.onIntc_chans (d : Dev) (f) : (d.onIntc f).chans = d.chans := rfl
@[simp] theorem Dev.onIntc_ports (d : Dev) (f) : (d.onIntc f).ports = d.ports := rfl
@[simp] theorem Dev.onIntc_squares (d : Dev) (f) : (d.onIntc f).squares = d.squares := rfl
@[simp] theorem Dev.onIntc_sqReads (d : Dev) (f) : (d.onIntc f).sqReads = d.sqReads := rfl
@[simp] theorem Dev.onIntc_sqResps (d : Dev) (f) : (d.onIntc f).sqResps = d.sqResps := rfl
@[simp] theorem Dev.onIntc_merge (d : Dev) (f) : (d.onIntc f).merge = d.merge := rfl
@[simp] theorem Dev.onIntc_parked (d : Dev) (f) : (d.onIntc f).parked = d.parked := rfl
@[simp] theorem Dev.onIntc_assembling (d : Dev) (f) : (d.onIntc f).assembling = d.assembling := rfl
@[simp] theorem Dev.onIntc_inbox (d : Dev) (f) : (d.onIntc f).inbox = d.inbox := rfl
@[simp] theorem Dev.onIntc_engines (d : Dev) (f) : (d.onIntc f).engines = d.engines := rfl
@[simp] theorem Dev.onIntc_regions (d : Dev) (f) : (d.onIntc f).regions = d.regions := rfl
@[simp] theorem Dev.onIntc_thresh (d : Dev) (f) : (d.onIntc f).thresh = d.thresh := rfl
@[simp] theorem Dev.onIntc_vault (d : Dev) (f) : (d.onIntc f).vault = d.vault := rfl
@[simp] theorem Dev.onIntc_count (d : Dev) (f) : (d.onIntc f).count = d.count := rfl
@[simp] theorem Dev.onIntc_attic (d : Dev) (f) : (d.onIntc f).attic = d.attic := rfl
@[simp] theorem Dev.onIntc_intc (d : Dev) (f) : (d.onIntc f).intc = f d.intc := rfl
@[simp] theorem Dev.onIntc_cellar (d : Dev) (f) : (d.onIntc f).cellar = d.cellar := rfl
@[simp] theorem Dev.onIntc_power (d : Dev) (f) : (d.onIntc f).power = d.power := rfl
@[simp] theorem Dev.onIntc_drawWait (d : Dev) (f) : (d.onIntc f).drawWait = d.drawWait := rfl
@[simp] theorem Dev.onIntc_opSeq (d : Dev) (f) : (d.onIntc f).opSeq = d.opSeq := rfl
@[simp] theorem Dev.onIntc_free (d : Dev) (f) : (d.onIntc f).free = d.free := rfl
@[simp] theorem Dev.onIntc_out (d : Dev) (f) : (d.onIntc f).out = d.out := rfl

@[simp] theorem Dev.onCellar_kind (d : Dev) (f) : (d.onCellar f).kind = d.kind := rfl
@[simp] theorem Dev.onCellar_time (d : Dev) (f) : (d.onCellar f).time = d.time := rfl
@[simp] theorem Dev.onCellar_reset (d : Dev) (f) : (d.onCellar f).reset = d.reset := rfl
@[simp] theorem Dev.onCellar_fuses (d : Dev) (f) : (d.onCellar f).fuses = d.fuses := rfl
@[simp] theorem Dev.onCellar_hall (d : Dev) (f) : (d.onCellar f).hall = d.hall := rfl
@[simp] theorem Dev.onCellar_threads (d : Dev) (f) : (d.onCellar f).threads = d.threads := rfl
@[simp] theorem Dev.onCellar_lastPicked (d : Dev) (f) : (d.onCellar f).lastPicked = d.lastPicked := rfl
@[simp] theorem Dev.onCellar_larder (d : Dev) (f) : (d.onCellar f).larder = d.larder := rfl
@[simp] theorem Dev.onCellar_mgmt (d : Dev) (f) : (d.onCellar f).mgmt = d.mgmt := rfl
@[simp] theorem Dev.onCellar_host (d : Dev) (f) : (d.onCellar f).host = d.host := rfl
@[simp] theorem Dev.onCellar_parts (d : Dev) (f) : (d.onCellar f).parts = d.parts := rfl
@[simp] theorem Dev.onCellar_regionPool (d : Dev) (f) : (d.onCellar f).regionPool = d.regionPool := rfl
@[simp] theorem Dev.onCellar_chanPool (d : Dev) (f) : (d.onCellar f).chanPool = d.chanPool := rfl
@[simp] theorem Dev.onCellar_squarePool (d : Dev) (f) : (d.onCellar f).squarePool = d.squarePool := rfl
@[simp] theorem Dev.onCellar_chans (d : Dev) (f) : (d.onCellar f).chans = d.chans := rfl
@[simp] theorem Dev.onCellar_ports (d : Dev) (f) : (d.onCellar f).ports = d.ports := rfl
@[simp] theorem Dev.onCellar_squares (d : Dev) (f) : (d.onCellar f).squares = d.squares := rfl
@[simp] theorem Dev.onCellar_sqReads (d : Dev) (f) : (d.onCellar f).sqReads = d.sqReads := rfl
@[simp] theorem Dev.onCellar_sqResps (d : Dev) (f) : (d.onCellar f).sqResps = d.sqResps := rfl
@[simp] theorem Dev.onCellar_merge (d : Dev) (f) : (d.onCellar f).merge = d.merge := rfl
@[simp] theorem Dev.onCellar_parked (d : Dev) (f) : (d.onCellar f).parked = d.parked := rfl
@[simp] theorem Dev.onCellar_assembling (d : Dev) (f) : (d.onCellar f).assembling = d.assembling := rfl
@[simp] theorem Dev.onCellar_inbox (d : Dev) (f) : (d.onCellar f).inbox = d.inbox := rfl
@[simp] theorem Dev.onCellar_engines (d : Dev) (f) : (d.onCellar f).engines = d.engines := rfl
@[simp] theorem Dev.onCellar_regions (d : Dev) (f) : (d.onCellar f).regions = d.regions := rfl
@[simp] theorem Dev.onCellar_thresh (d : Dev) (f) : (d.onCellar f).thresh = d.thresh := rfl
@[simp] theorem Dev.onCellar_vault (d : Dev) (f) : (d.onCellar f).vault = d.vault := rfl
@[simp] theorem Dev.onCellar_count (d : Dev) (f) : (d.onCellar f).count = d.count := rfl
@[simp] theorem Dev.onCellar_attic (d : Dev) (f) : (d.onCellar f).attic = d.attic := rfl
@[simp] theorem Dev.onCellar_intc (d : Dev) (f) : (d.onCellar f).intc = d.intc := rfl
@[simp] theorem Dev.onCellar_cellar (d : Dev) (f) : (d.onCellar f).cellar = f d.cellar := rfl
@[simp] theorem Dev.onCellar_power (d : Dev) (f) : (d.onCellar f).power = d.power := rfl
@[simp] theorem Dev.onCellar_drawWait (d : Dev) (f) : (d.onCellar f).drawWait = d.drawWait := rfl
@[simp] theorem Dev.onCellar_opSeq (d : Dev) (f) : (d.onCellar f).opSeq = d.opSeq := rfl
@[simp] theorem Dev.onCellar_free (d : Dev) (f) : (d.onCellar f).free = d.free := rfl
@[simp] theorem Dev.onCellar_out (d : Dev) (f) : (d.onCellar f).out = d.out := rfl

@[simp] theorem Dev.onAttic_kind (d : Dev) (f) : (d.onAttic f).kind = d.kind := rfl
@[simp] theorem Dev.onAttic_time (d : Dev) (f) : (d.onAttic f).time = d.time := rfl
@[simp] theorem Dev.onAttic_reset (d : Dev) (f) : (d.onAttic f).reset = d.reset := rfl
@[simp] theorem Dev.onAttic_fuses (d : Dev) (f) : (d.onAttic f).fuses = d.fuses := rfl
@[simp] theorem Dev.onAttic_hall (d : Dev) (f) : (d.onAttic f).hall = d.hall := rfl
@[simp] theorem Dev.onAttic_threads (d : Dev) (f) : (d.onAttic f).threads = d.threads := rfl
@[simp] theorem Dev.onAttic_lastPicked (d : Dev) (f) : (d.onAttic f).lastPicked = d.lastPicked := rfl
@[simp] theorem Dev.onAttic_larder (d : Dev) (f) : (d.onAttic f).larder = d.larder := rfl
@[simp] theorem Dev.onAttic_mgmt (d : Dev) (f) : (d.onAttic f).mgmt = d.mgmt := rfl
@[simp] theorem Dev.onAttic_host (d : Dev) (f) : (d.onAttic f).host = d.host := rfl
@[simp] theorem Dev.onAttic_parts (d : Dev) (f) : (d.onAttic f).parts = d.parts := rfl
@[simp] theorem Dev.onAttic_regionPool (d : Dev) (f) : (d.onAttic f).regionPool = d.regionPool := rfl
@[simp] theorem Dev.onAttic_chanPool (d : Dev) (f) : (d.onAttic f).chanPool = d.chanPool := rfl
@[simp] theorem Dev.onAttic_squarePool (d : Dev) (f) : (d.onAttic f).squarePool = d.squarePool := rfl
@[simp] theorem Dev.onAttic_chans (d : Dev) (f) : (d.onAttic f).chans = d.chans := rfl
@[simp] theorem Dev.onAttic_ports (d : Dev) (f) : (d.onAttic f).ports = d.ports := rfl
@[simp] theorem Dev.onAttic_squares (d : Dev) (f) : (d.onAttic f).squares = d.squares := rfl
@[simp] theorem Dev.onAttic_sqReads (d : Dev) (f) : (d.onAttic f).sqReads = d.sqReads := rfl
@[simp] theorem Dev.onAttic_sqResps (d : Dev) (f) : (d.onAttic f).sqResps = d.sqResps := rfl
@[simp] theorem Dev.onAttic_merge (d : Dev) (f) : (d.onAttic f).merge = d.merge := rfl
@[simp] theorem Dev.onAttic_parked (d : Dev) (f) : (d.onAttic f).parked = d.parked := rfl
@[simp] theorem Dev.onAttic_assembling (d : Dev) (f) : (d.onAttic f).assembling = d.assembling := rfl
@[simp] theorem Dev.onAttic_inbox (d : Dev) (f) : (d.onAttic f).inbox = d.inbox := rfl
@[simp] theorem Dev.onAttic_engines (d : Dev) (f) : (d.onAttic f).engines = d.engines := rfl
@[simp] theorem Dev.onAttic_regions (d : Dev) (f) : (d.onAttic f).regions = d.regions := rfl
@[simp] theorem Dev.onAttic_thresh (d : Dev) (f) : (d.onAttic f).thresh = d.thresh := rfl
@[simp] theorem Dev.onAttic_vault (d : Dev) (f) : (d.onAttic f).vault = d.vault := rfl
@[simp] theorem Dev.onAttic_count (d : Dev) (f) : (d.onAttic f).count = d.count := rfl
@[simp] theorem Dev.onAttic_attic (d : Dev) (f) : (d.onAttic f).attic = f d.attic := rfl
@[simp] theorem Dev.onAttic_intc (d : Dev) (f) : (d.onAttic f).intc = d.intc := rfl
@[simp] theorem Dev.onAttic_cellar (d : Dev) (f) : (d.onAttic f).cellar = d.cellar := rfl
@[simp] theorem Dev.onAttic_power (d : Dev) (f) : (d.onAttic f).power = d.power := rfl
@[simp] theorem Dev.onAttic_drawWait (d : Dev) (f) : (d.onAttic f).drawWait = d.drawWait := rfl
@[simp] theorem Dev.onAttic_opSeq (d : Dev) (f) : (d.onAttic f).opSeq = d.opSeq := rfl
@[simp] theorem Dev.onAttic_free (d : Dev) (f) : (d.onAttic f).free = d.free := rfl
@[simp] theorem Dev.onAttic_out (d : Dev) (f) : (d.onAttic f).out = d.out := rfl

@[simp] theorem Dev.onCount_kind (d : Dev) (f) : (d.onCount f).kind = d.kind := rfl
@[simp] theorem Dev.onCount_time (d : Dev) (f) : (d.onCount f).time = d.time := rfl
@[simp] theorem Dev.onCount_reset (d : Dev) (f) : (d.onCount f).reset = d.reset := rfl
@[simp] theorem Dev.onCount_fuses (d : Dev) (f) : (d.onCount f).fuses = d.fuses := rfl
@[simp] theorem Dev.onCount_hall (d : Dev) (f) : (d.onCount f).hall = d.hall := rfl
@[simp] theorem Dev.onCount_threads (d : Dev) (f) : (d.onCount f).threads = d.threads := rfl
@[simp] theorem Dev.onCount_lastPicked (d : Dev) (f) : (d.onCount f).lastPicked = d.lastPicked := rfl
@[simp] theorem Dev.onCount_larder (d : Dev) (f) : (d.onCount f).larder = d.larder := rfl
@[simp] theorem Dev.onCount_mgmt (d : Dev) (f) : (d.onCount f).mgmt = d.mgmt := rfl
@[simp] theorem Dev.onCount_host (d : Dev) (f) : (d.onCount f).host = d.host := rfl
@[simp] theorem Dev.onCount_parts (d : Dev) (f) : (d.onCount f).parts = d.parts := rfl
@[simp] theorem Dev.onCount_regionPool (d : Dev) (f) : (d.onCount f).regionPool = d.regionPool := rfl
@[simp] theorem Dev.onCount_chanPool (d : Dev) (f) : (d.onCount f).chanPool = d.chanPool := rfl
@[simp] theorem Dev.onCount_squarePool (d : Dev) (f) : (d.onCount f).squarePool = d.squarePool := rfl
@[simp] theorem Dev.onCount_chans (d : Dev) (f) : (d.onCount f).chans = d.chans := rfl
@[simp] theorem Dev.onCount_ports (d : Dev) (f) : (d.onCount f).ports = d.ports := rfl
@[simp] theorem Dev.onCount_squares (d : Dev) (f) : (d.onCount f).squares = d.squares := rfl
@[simp] theorem Dev.onCount_sqReads (d : Dev) (f) : (d.onCount f).sqReads = d.sqReads := rfl
@[simp] theorem Dev.onCount_sqResps (d : Dev) (f) : (d.onCount f).sqResps = d.sqResps := rfl
@[simp] theorem Dev.onCount_merge (d : Dev) (f) : (d.onCount f).merge = d.merge := rfl
@[simp] theorem Dev.onCount_parked (d : Dev) (f) : (d.onCount f).parked = d.parked := rfl
@[simp] theorem Dev.onCount_assembling (d : Dev) (f) : (d.onCount f).assembling = d.assembling := rfl
@[simp] theorem Dev.onCount_inbox (d : Dev) (f) : (d.onCount f).inbox = d.inbox := rfl
@[simp] theorem Dev.onCount_engines (d : Dev) (f) : (d.onCount f).engines = d.engines := rfl
@[simp] theorem Dev.onCount_regions (d : Dev) (f) : (d.onCount f).regions = d.regions := rfl
@[simp] theorem Dev.onCount_thresh (d : Dev) (f) : (d.onCount f).thresh = d.thresh := rfl
@[simp] theorem Dev.onCount_vault (d : Dev) (f) : (d.onCount f).vault = d.vault := rfl
@[simp] theorem Dev.onCount_count (d : Dev) (f) : (d.onCount f).count = f d.count := rfl
@[simp] theorem Dev.onCount_attic (d : Dev) (f) : (d.onCount f).attic = d.attic := rfl
@[simp] theorem Dev.onCount_intc (d : Dev) (f) : (d.onCount f).intc = d.intc := rfl
@[simp] theorem Dev.onCount_cellar (d : Dev) (f) : (d.onCount f).cellar = d.cellar := rfl
@[simp] theorem Dev.onCount_power (d : Dev) (f) : (d.onCount f).power = d.power := rfl
@[simp] theorem Dev.onCount_drawWait (d : Dev) (f) : (d.onCount f).drawWait = d.drawWait := rfl
@[simp] theorem Dev.onCount_opSeq (d : Dev) (f) : (d.onCount f).opSeq = d.opSeq := rfl
@[simp] theorem Dev.onCount_free (d : Dev) (f) : (d.onCount f).free = d.free := rfl
@[simp] theorem Dev.onCount_out (d : Dev) (f) : (d.onCount f).out = d.out := rfl

@[simp] theorem Dev.onPower_kind (d : Dev) (f) : (d.onPower f).kind = d.kind := rfl
@[simp] theorem Dev.onPower_time (d : Dev) (f) : (d.onPower f).time = d.time := rfl
@[simp] theorem Dev.onPower_reset (d : Dev) (f) : (d.onPower f).reset = d.reset := rfl
@[simp] theorem Dev.onPower_fuses (d : Dev) (f) : (d.onPower f).fuses = d.fuses := rfl
@[simp] theorem Dev.onPower_hall (d : Dev) (f) : (d.onPower f).hall = d.hall := rfl
@[simp] theorem Dev.onPower_threads (d : Dev) (f) : (d.onPower f).threads = d.threads := rfl
@[simp] theorem Dev.onPower_lastPicked (d : Dev) (f) : (d.onPower f).lastPicked = d.lastPicked := rfl
@[simp] theorem Dev.onPower_larder (d : Dev) (f) : (d.onPower f).larder = d.larder := rfl
@[simp] theorem Dev.onPower_mgmt (d : Dev) (f) : (d.onPower f).mgmt = d.mgmt := rfl
@[simp] theorem Dev.onPower_host (d : Dev) (f) : (d.onPower f).host = d.host := rfl
@[simp] theorem Dev.onPower_parts (d : Dev) (f) : (d.onPower f).parts = d.parts := rfl
@[simp] theorem Dev.onPower_regionPool (d : Dev) (f) : (d.onPower f).regionPool = d.regionPool := rfl
@[simp] theorem Dev.onPower_chanPool (d : Dev) (f) : (d.onPower f).chanPool = d.chanPool := rfl
@[simp] theorem Dev.onPower_squarePool (d : Dev) (f) : (d.onPower f).squarePool = d.squarePool := rfl
@[simp] theorem Dev.onPower_chans (d : Dev) (f) : (d.onPower f).chans = d.chans := rfl
@[simp] theorem Dev.onPower_ports (d : Dev) (f) : (d.onPower f).ports = d.ports := rfl
@[simp] theorem Dev.onPower_squares (d : Dev) (f) : (d.onPower f).squares = d.squares := rfl
@[simp] theorem Dev.onPower_sqReads (d : Dev) (f) : (d.onPower f).sqReads = d.sqReads := rfl
@[simp] theorem Dev.onPower_sqResps (d : Dev) (f) : (d.onPower f).sqResps = d.sqResps := rfl
@[simp] theorem Dev.onPower_merge (d : Dev) (f) : (d.onPower f).merge = d.merge := rfl
@[simp] theorem Dev.onPower_parked (d : Dev) (f) : (d.onPower f).parked = d.parked := rfl
@[simp] theorem Dev.onPower_assembling (d : Dev) (f) : (d.onPower f).assembling = d.assembling := rfl
@[simp] theorem Dev.onPower_inbox (d : Dev) (f) : (d.onPower f).inbox = d.inbox := rfl
@[simp] theorem Dev.onPower_engines (d : Dev) (f) : (d.onPower f).engines = d.engines := rfl
@[simp] theorem Dev.onPower_regions (d : Dev) (f) : (d.onPower f).regions = d.regions := rfl
@[simp] theorem Dev.onPower_thresh (d : Dev) (f) : (d.onPower f).thresh = d.thresh := rfl
@[simp] theorem Dev.onPower_vault (d : Dev) (f) : (d.onPower f).vault = d.vault := rfl
@[simp] theorem Dev.onPower_count (d : Dev) (f) : (d.onPower f).count = d.count := rfl
@[simp] theorem Dev.onPower_attic (d : Dev) (f) : (d.onPower f).attic = d.attic := rfl
@[simp] theorem Dev.onPower_intc (d : Dev) (f) : (d.onPower f).intc = d.intc := rfl
@[simp] theorem Dev.onPower_cellar (d : Dev) (f) : (d.onPower f).cellar = d.cellar := rfl
@[simp] theorem Dev.onPower_power (d : Dev) (f) : (d.onPower f).power = f d.power := rfl
@[simp] theorem Dev.onPower_drawWait (d : Dev) (f) : (d.onPower f).drawWait = d.drawWait := rfl
@[simp] theorem Dev.onPower_opSeq (d : Dev) (f) : (d.onPower f).opSeq = d.opSeq := rfl
@[simp] theorem Dev.onPower_free (d : Dev) (f) : (d.onPower f).free = d.free := rfl
@[simp] theorem Dev.onPower_out (d : Dev) (f) : (d.onPower f).out = d.out := rfl

@[simp] theorem Dev.onReset_kind (d : Dev) (f) : (d.onReset f).kind = d.kind := rfl
@[simp] theorem Dev.onReset_time (d : Dev) (f) : (d.onReset f).time = d.time := rfl
@[simp] theorem Dev.onReset_reset (d : Dev) (f) : (d.onReset f).reset = f d.reset := rfl
@[simp] theorem Dev.onReset_fuses (d : Dev) (f) : (d.onReset f).fuses = d.fuses := rfl
@[simp] theorem Dev.onReset_hall (d : Dev) (f) : (d.onReset f).hall = d.hall := rfl
@[simp] theorem Dev.onReset_threads (d : Dev) (f) : (d.onReset f).threads = d.threads := rfl
@[simp] theorem Dev.onReset_lastPicked (d : Dev) (f) : (d.onReset f).lastPicked = d.lastPicked := rfl
@[simp] theorem Dev.onReset_larder (d : Dev) (f) : (d.onReset f).larder = d.larder := rfl
@[simp] theorem Dev.onReset_mgmt (d : Dev) (f) : (d.onReset f).mgmt = d.mgmt := rfl
@[simp] theorem Dev.onReset_host (d : Dev) (f) : (d.onReset f).host = d.host := rfl
@[simp] theorem Dev.onReset_parts (d : Dev) (f) : (d.onReset f).parts = d.parts := rfl
@[simp] theorem Dev.onReset_regionPool (d : Dev) (f) : (d.onReset f).regionPool = d.regionPool := rfl
@[simp] theorem Dev.onReset_chanPool (d : Dev) (f) : (d.onReset f).chanPool = d.chanPool := rfl
@[simp] theorem Dev.onReset_squarePool (d : Dev) (f) : (d.onReset f).squarePool = d.squarePool := rfl
@[simp] theorem Dev.onReset_chans (d : Dev) (f) : (d.onReset f).chans = d.chans := rfl
@[simp] theorem Dev.onReset_ports (d : Dev) (f) : (d.onReset f).ports = d.ports := rfl
@[simp] theorem Dev.onReset_squares (d : Dev) (f) : (d.onReset f).squares = d.squares := rfl
@[simp] theorem Dev.onReset_sqReads (d : Dev) (f) : (d.onReset f).sqReads = d.sqReads := rfl
@[simp] theorem Dev.onReset_sqResps (d : Dev) (f) : (d.onReset f).sqResps = d.sqResps := rfl
@[simp] theorem Dev.onReset_merge (d : Dev) (f) : (d.onReset f).merge = d.merge := rfl
@[simp] theorem Dev.onReset_parked (d : Dev) (f) : (d.onReset f).parked = d.parked := rfl
@[simp] theorem Dev.onReset_assembling (d : Dev) (f) : (d.onReset f).assembling = d.assembling := rfl
@[simp] theorem Dev.onReset_inbox (d : Dev) (f) : (d.onReset f).inbox = d.inbox := rfl
@[simp] theorem Dev.onReset_engines (d : Dev) (f) : (d.onReset f).engines = d.engines := rfl
@[simp] theorem Dev.onReset_regions (d : Dev) (f) : (d.onReset f).regions = d.regions := rfl
@[simp] theorem Dev.onReset_thresh (d : Dev) (f) : (d.onReset f).thresh = d.thresh := rfl
@[simp] theorem Dev.onReset_vault (d : Dev) (f) : (d.onReset f).vault = d.vault := rfl
@[simp] theorem Dev.onReset_count (d : Dev) (f) : (d.onReset f).count = d.count := rfl
@[simp] theorem Dev.onReset_attic (d : Dev) (f) : (d.onReset f).attic = d.attic := rfl
@[simp] theorem Dev.onReset_intc (d : Dev) (f) : (d.onReset f).intc = d.intc := rfl
@[simp] theorem Dev.onReset_cellar (d : Dev) (f) : (d.onReset f).cellar = d.cellar := rfl
@[simp] theorem Dev.onReset_power (d : Dev) (f) : (d.onReset f).power = d.power := rfl
@[simp] theorem Dev.onReset_drawWait (d : Dev) (f) : (d.onReset f).drawWait = d.drawWait := rfl
@[simp] theorem Dev.onReset_opSeq (d : Dev) (f) : (d.onReset f).opSeq = d.opSeq := rfl
@[simp] theorem Dev.onReset_free (d : Dev) (f) : (d.onReset f).free = d.free := rfl
@[simp] theorem Dev.onReset_out (d : Dev) (f) : (d.onReset f).out = d.out := rfl

@[simp] theorem Dev.onThresh_kind (d : Dev) (f) : (d.onThresh f).kind = d.kind := rfl
@[simp] theorem Dev.onThresh_time (d : Dev) (f) : (d.onThresh f).time = d.time := rfl
@[simp] theorem Dev.onThresh_reset (d : Dev) (f) : (d.onThresh f).reset = d.reset := rfl
@[simp] theorem Dev.onThresh_fuses (d : Dev) (f) : (d.onThresh f).fuses = d.fuses := rfl
@[simp] theorem Dev.onThresh_hall (d : Dev) (f) : (d.onThresh f).hall = d.hall := rfl
@[simp] theorem Dev.onThresh_threads (d : Dev) (f) : (d.onThresh f).threads = d.threads := rfl
@[simp] theorem Dev.onThresh_lastPicked (d : Dev) (f) : (d.onThresh f).lastPicked = d.lastPicked := rfl
@[simp] theorem Dev.onThresh_larder (d : Dev) (f) : (d.onThresh f).larder = d.larder := rfl
@[simp] theorem Dev.onThresh_mgmt (d : Dev) (f) : (d.onThresh f).mgmt = d.mgmt := rfl
@[simp] theorem Dev.onThresh_host (d : Dev) (f) : (d.onThresh f).host = d.host := rfl
@[simp] theorem Dev.onThresh_parts (d : Dev) (f) : (d.onThresh f).parts = d.parts := rfl
@[simp] theorem Dev.onThresh_regionPool (d : Dev) (f) : (d.onThresh f).regionPool = d.regionPool := rfl
@[simp] theorem Dev.onThresh_chanPool (d : Dev) (f) : (d.onThresh f).chanPool = d.chanPool := rfl
@[simp] theorem Dev.onThresh_squarePool (d : Dev) (f) : (d.onThresh f).squarePool = d.squarePool := rfl
@[simp] theorem Dev.onThresh_chans (d : Dev) (f) : (d.onThresh f).chans = d.chans := rfl
@[simp] theorem Dev.onThresh_ports (d : Dev) (f) : (d.onThresh f).ports = d.ports := rfl
@[simp] theorem Dev.onThresh_squares (d : Dev) (f) : (d.onThresh f).squares = d.squares := rfl
@[simp] theorem Dev.onThresh_sqReads (d : Dev) (f) : (d.onThresh f).sqReads = d.sqReads := rfl
@[simp] theorem Dev.onThresh_sqResps (d : Dev) (f) : (d.onThresh f).sqResps = d.sqResps := rfl
@[simp] theorem Dev.onThresh_merge (d : Dev) (f) : (d.onThresh f).merge = d.merge := rfl
@[simp] theorem Dev.onThresh_parked (d : Dev) (f) : (d.onThresh f).parked = d.parked := rfl
@[simp] theorem Dev.onThresh_assembling (d : Dev) (f) : (d.onThresh f).assembling = d.assembling := rfl
@[simp] theorem Dev.onThresh_inbox (d : Dev) (f) : (d.onThresh f).inbox = d.inbox := rfl
@[simp] theorem Dev.onThresh_engines (d : Dev) (f) : (d.onThresh f).engines = d.engines := rfl
@[simp] theorem Dev.onThresh_regions (d : Dev) (f) : (d.onThresh f).regions = d.regions := rfl
@[simp] theorem Dev.onThresh_thresh (d : Dev) (f) : (d.onThresh f).thresh = f d.thresh := rfl
@[simp] theorem Dev.onThresh_vault (d : Dev) (f) : (d.onThresh f).vault = d.vault := rfl
@[simp] theorem Dev.onThresh_count (d : Dev) (f) : (d.onThresh f).count = d.count := rfl
@[simp] theorem Dev.onThresh_attic (d : Dev) (f) : (d.onThresh f).attic = d.attic := rfl
@[simp] theorem Dev.onThresh_intc (d : Dev) (f) : (d.onThresh f).intc = d.intc := rfl
@[simp] theorem Dev.onThresh_cellar (d : Dev) (f) : (d.onThresh f).cellar = d.cellar := rfl
@[simp] theorem Dev.onThresh_power (d : Dev) (f) : (d.onThresh f).power = d.power := rfl
@[simp] theorem Dev.onThresh_drawWait (d : Dev) (f) : (d.onThresh f).drawWait = d.drawWait := rfl
@[simp] theorem Dev.onThresh_opSeq (d : Dev) (f) : (d.onThresh f).opSeq = d.opSeq := rfl
@[simp] theorem Dev.onThresh_free (d : Dev) (f) : (d.onThresh f).free = d.free := rfl
@[simp] theorem Dev.onThresh_out (d : Dev) (f) : (d.onThresh f).out = d.out := rfl

@[simp] theorem Dev.emit_kind (d : Dev) (o : Out) : (d.emit o).kind = d.kind := rfl
@[simp] theorem Dev.emit_time (d : Dev) (o : Out) : (d.emit o).time = d.time := rfl
@[simp] theorem Dev.emit_reset (d : Dev) (o : Out) : (d.emit o).reset = d.reset := rfl
@[simp] theorem Dev.emit_fuses (d : Dev) (o : Out) : (d.emit o).fuses = d.fuses := rfl
@[simp] theorem Dev.emit_hall (d : Dev) (o : Out) : (d.emit o).hall = d.hall := rfl
@[simp] theorem Dev.emit_threads (d : Dev) (o : Out) : (d.emit o).threads = d.threads := rfl
@[simp] theorem Dev.emit_lastPicked (d : Dev) (o : Out) : (d.emit o).lastPicked = d.lastPicked := rfl
@[simp] theorem Dev.emit_larder (d : Dev) (o : Out) : (d.emit o).larder = d.larder := rfl
@[simp] theorem Dev.emit_mgmt (d : Dev) (o : Out) : (d.emit o).mgmt = d.mgmt := rfl
@[simp] theorem Dev.emit_host (d : Dev) (o : Out) : (d.emit o).host = d.host := rfl
@[simp] theorem Dev.emit_parts (d : Dev) (o : Out) : (d.emit o).parts = d.parts := rfl
@[simp] theorem Dev.emit_regionPool (d : Dev) (o : Out) : (d.emit o).regionPool = d.regionPool := rfl
@[simp] theorem Dev.emit_chanPool (d : Dev) (o : Out) : (d.emit o).chanPool = d.chanPool := rfl
@[simp] theorem Dev.emit_squarePool (d : Dev) (o : Out) : (d.emit o).squarePool = d.squarePool := rfl
@[simp] theorem Dev.emit_chans (d : Dev) (o : Out) : (d.emit o).chans = d.chans := rfl
@[simp] theorem Dev.emit_ports (d : Dev) (o : Out) : (d.emit o).ports = d.ports := rfl
@[simp] theorem Dev.emit_squares (d : Dev) (o : Out) : (d.emit o).squares = d.squares := rfl
@[simp] theorem Dev.emit_sqReads (d : Dev) (o : Out) : (d.emit o).sqReads = d.sqReads := rfl
@[simp] theorem Dev.emit_sqResps (d : Dev) (o : Out) : (d.emit o).sqResps = d.sqResps := rfl
@[simp] theorem Dev.emit_merge (d : Dev) (o : Out) : (d.emit o).merge = d.merge := rfl
@[simp] theorem Dev.emit_parked (d : Dev) (o : Out) : (d.emit o).parked = d.parked := rfl
@[simp] theorem Dev.emit_assembling (d : Dev) (o : Out) : (d.emit o).assembling = d.assembling := rfl
@[simp] theorem Dev.emit_inbox (d : Dev) (o : Out) : (d.emit o).inbox = d.inbox := rfl
@[simp] theorem Dev.emit_engines (d : Dev) (o : Out) : (d.emit o).engines = d.engines := rfl
@[simp] theorem Dev.emit_regions (d : Dev) (o : Out) : (d.emit o).regions = d.regions := rfl
@[simp] theorem Dev.emit_thresh (d : Dev) (o : Out) : (d.emit o).thresh = d.thresh := rfl
@[simp] theorem Dev.emit_vault (d : Dev) (o : Out) : (d.emit o).vault = d.vault := rfl
@[simp] theorem Dev.emit_count (d : Dev) (o : Out) : (d.emit o).count = d.count := rfl
@[simp] theorem Dev.emit_attic (d : Dev) (o : Out) : (d.emit o).attic = d.attic := rfl
@[simp] theorem Dev.emit_intc (d : Dev) (o : Out) : (d.emit o).intc = d.intc := rfl
@[simp] theorem Dev.emit_cellar (d : Dev) (o : Out) : (d.emit o).cellar = d.cellar := rfl
@[simp] theorem Dev.emit_power (d : Dev) (o : Out) : (d.emit o).power = d.power := rfl
@[simp] theorem Dev.emit_drawWait (d : Dev) (o : Out) : (d.emit o).drawWait = d.drawWait := rfl
@[simp] theorem Dev.emit_opSeq (d : Dev) (o : Out) : (d.emit o).opSeq = d.opSeq := rfl
@[simp] theorem Dev.emit_free (d : Dev) (o : Out) : (d.emit o).free = d.free := rfl
@[simp] theorem Dev.emit_out (d : Dev) (o : Out) : (d.emit o).out = d.out ++ [o] := rfl

end Sys2Proof.Machine
end

