-- ==== Sys2Proof/Laws/Port.lean ====
section
/-! SUPPORT. What an access of the register port does once: where the windows lie, when an access has no fault, what a write then
leaves. -/

namespace Sys2Proof.Machine

/-! ## Where the windows lie (R15) -/

theorem windowOf_hall (k : Kind) (o : Nat) (h : o < 0x10000) : windowOf k (hallAt o) = some (.hall, o) := by
  unfold windowOf hallAt
  rw [if_neg (by omega), if_pos (by omega)]
  simp

theorem porchBase_le (k : Kind) : porchBase (Kind.parts k + 1) ≤ 0x2000000 := by cases k <;> decide

/-- Which window of a row of equal ones an offset lies in, and where in it. -/
theorem window_split (base size i o : Nat) (h : o < size) :
    (base + size * i + o - base) / size = i ∧ (base + size * i + o) % size = (base + o) % size := by
  have e : base + size * i + o - base = o + size * i := by omega
  have f : base + size * i + o = base + o + size * i := by omega
  rw [e, f, Nat.add_mul_div_left _ _ (by omega), Nat.div_eq_of_lt h, Nat.add_mul_mod_self_left]
  simp

theorem windowOf_porch (k : Kind) (n o : Nat) (h : o < 0x40000) (hn : n ≤ Kind.parts k) :
    windowOf k (porchAt n o) = some (.porch n, o) := by
  have e : porchBase (Kind.parts k + 1) = 0x1000000 + 0x40000 * (Kind.parts k + 1) := rfl
  obtain ⟨h1, h2⟩ := window_split 0x1000000 0x40000 n o h
  unfold windowOf porchAt
  rw [e]
  unfold porchBase
  repeat rw [if_neg (by omega)]
  rw [if_pos (by omega), h1, h2]
  congr 2; omega

theorem windowOf_port (k : Kind) (p o : Nat) (h : o < 0x1000) (hp : p < Kind.ports k) : windowOf k (portAt p o) = some (.port p, o) := by
  have := porchBase_le k
  have hk : Kind.ports k ≤ 32 := by cases k <;> decide
  obtain ⟨h1, h2⟩ := window_split 0x2100000 0x1000 p o h
  unfold windowOf portAt
  simp (disch := omega) only [if_neg, if_pos]
  rw [h1, h2]
  congr 2; omega

theorem windowOf_mem (k : Kind) (m o : Nat) (h : o < 0x1000) (hm : m < Kind.engines k) : windowOf k (memAt m o) = some (.mem m, o) := by
  have := porchBase_le k
  have hk : Kind.ports k ≤ 32 := by cases k <;> decide
  obtain ⟨h1, h2⟩ := window_split 0x2300000 0x1000 m o h
  unfold windowOf memAt
  simp (disch := omega) only [if_neg, if_pos]
  rw [h1, h2]
  congr 2; omega

/-- The windows behind the engines', by their base. -/
theorem windowOf_fixed (k : Kind) (o : Nat) (h : o < 0x100000) :
    windowOf k (0x2400000 + o) = some (.thresh, o) ∧ windowOf k (intcAt o) = some (.intc, o) ∧
    windowOf k (countAt o) = some (.count, o) ∧ windowOf k (atticAt o) = some (.attic, o) ∧
    windowOf k (cellarAt o) = some (.cellar, o) ∧ windowOf k (0x2900000 + o) = some (.vault, o) ∧
    windowOf k (0x2A00000 + o) = some (.hostpath, o) ∧ windowOf k (sideAt o) = some (.side, o) ∧
    windowOf k (0x2000000 + o) = some (.larder, o) := by
  have := porchBase_le k
  have hk : Kind.ports k ≤ 32 := by cases k <;> decide
  have he : Kind.engines k ≤ 12 := by cases k <;> decide
  unfold windowOf intcAt countAt atticAt cellarAt sideAt
  and_intros <;> simp (disch := omega) only [if_neg, if_pos] <;> simp

/-! ## Accesses without a fault (R26, R29, R32, R34, R35, R40) -/

theorem Dev.ready_status {d : Dev} (h : d.ready = true) : d.reset.status = 1 := by
  simp [Dev.ready] at h; exact h.1

theorem Dev.ready_frozen {d : Dev} (h : d.ready = true) : d.reset.frozen = false := by
  simp [Dev.ready] at h; exact h.2

/-- A 64-bit write of an aligned register that its requester may write and that is no half of a 128-bit entry. -/
theorem Dev.portFault_none {d : Dev} {r : Requester} {off : Nat} {w : Win} {o : Nat} (hr : d.ready = true) (ha : off % 8 = 0)
    (hw : windowOf d.kind off = some (w, o)) (hm : d.mayAccess r w true = true)
    (hp : ∀ n, w = .porch n → porchWide o = false) : d.portFault r true off 8 = none := by
  have hs := Dev.ready_status hr
  unfold Dev.portFault
  simp only [hw, hs, hm, ha]
  cases w <;> simp_all

/-- The same for a read. -/
theorem Dev.portFault_read {d : Dev} {r : Requester} {off : Nat} {w : Win} {o : Nat} (hr : d.ready = true) (ha : off % 8 = 0)
    (hw : windowOf d.kind off = some (w, o)) (hm : d.mayAccess r w false = true) : d.portFault r false off 8 = none := by
  have hs := Dev.ready_status hr
  unfold Dev.portFault
  simp only [hw, hs, hm, ha]
  cases w <;> simp_all

/-- What such a write does: the register's own effect, and the answer. -/
theorem Dev.regWrite_ok {d : Dev} {r : Requester} {off : Nat} {v : Word} {w : Win} {o : Nat} (hr : d.ready = true) (ha : off % 8 = 0)
    (hw : windowOf d.kind off = some (w, o)) (hm : d.mayAccess r w true = true) (hp : ∀ n, w = .porch n → porchWide o = false)
    (hon : d.windowOn w = true) : d.regWrite r off v = (d.winWrite w o v).emit (.regWrite false) := by
  have hf := Dev.portFault_none hr ha hw hm hp
  have hz := Dev.ready_frozen hr
  have e : (v.setWidth 128).setWidth 64 = v := by ext i hi; simp
  simp [Dev.regWrite, Dev.portWrite64, Dev.portWrite, hf, hz, hw, hon, Dev.winWriteN, e]

/-- What such a read does. -/
theorem Dev.regRead_ok {d : Dev} {r : Requester} {off : Nat} {w : Win} {o : Nat} (hr : d.ready = true) (ha : off % 8 = 0)
    (hw : windowOf d.kind off = some (w, o)) (hm : d.mayAccess r w false = true) (hon : d.windowOn w = true) :
    d.regRead r off = (d.winRead r w o).2.emit (.regRead (BitVec.ofNat 64 (d.winRead r w o).1) false) := by
  have hf := Dev.portFault_read hr ha hw hm
  have hz := Dev.ready_frozen hr
  simp [Dev.regRead, Dev.portRead, hf, hz, hw, hon]

/-- The manager may write every window but the Floor, the Larder and a partition's Porch. -/
theorem Dev.managerMay_access {d : Dev} {r : Requester} {w : Win} (h : d.managerMay r) (h1 : w ≠ .floor) (h2 : w ≠ .larder)
    (h3 : ∀ n, w = .porch n → n = d.mgr) : d.mayAccess r w true = true := by
  obtain ⟨hc, -⟩ := h
  simp only [Dev.mayAccess, hc, Dev.managerAccess]
  cases w <;> simp_all [Win.porchOf]

/-- The manager may read every window but a partition's Porch. -/
theorem Dev.managerMay_read {d : Dev} {r : Requester} {w : Win} (h : d.managerMay r) (h3 : ∀ n, w = .porch n → n = d.mgr) :
    d.mayAccess r w false = true := by
  obtain ⟨hc, -⟩ := h
  simp only [Dev.mayAccess, hc, Dev.managerAccess]
  cases w <;> simp_all [Win.porchOf]

/-- Who may reach the registers of a thread's Porch. -/
theorem Dev.ownerMay_access {d : Dev} {r : Requester} {n : Nat} {w : Bool} (h : d.ownerMay r n) : d.mayAccess r (.porch n) w = true := by
  obtain ⟨-, ⟨hc, hn⟩ | ⟨hc, hn, hp, hb⟩⟩ := h
  · simp [Dev.mayAccess, hc, Dev.managerAccess, Win.porchOf, hn]
  · subst hn
    simp [Dev.mayAccess, hc, Dev.partAccess, Win.porchOf, hp, hb]

theorem Dev.ownerMay_thread {d : Dev} {r : Requester} {n : Nat} (h : d.ownerMay r n) : n ≤ Kind.parts d.kind := by
  obtain ⟨-, ⟨-, hn⟩ | ⟨-, hn, hp, -⟩⟩ := h
  · simp [hn, Dev.mgr]
  · simp [Dev.nparts] at hp; omega

/-! ## The fixed windows -/

/-- The manager's 64-bit write of a register of the Hall. -/
theorem Dev.hallWrite_ok {d : Dev} {r : Requester} {o : Nat} {v : Word} (h : d.managerMay r) (ho : o < 0x10000) (ha : o % 8 = 0) :
    d.regWrite r (hallAt o) v = (d.hallWrite o v).emit (.regWrite false) :=
  Dev.regWrite_ok h.2 (by unfold hallAt; omega) (windowOf_hall _ _ ho) (Dev.managerMay_access h (by simp) (by simp) (by simp)) (by simp) rfl

/-- The manager's 64-bit write of a register of the interrupt controller. -/
theorem Dev.intcWrite_ok {d : Dev} {r : Requester} {o : Nat} {v : Word} (h : d.managerMay r) (ho : o < 0x100000) (ha : o % 8 = 0) :
    d.regWrite r (intcAt o) v = (d.intcWrite o v).emit (.regWrite false) :=
  Dev.regWrite_ok h.2 (by unfold intcAt; omega) (windowOf_fixed _ _ ho).2.1 (Dev.managerMay_access h (by simp) (by simp) (by simp))
    (by simp) rfl

/-- The manager's 64-bit write of a register of SIDE. -/
theorem Dev.sideWrite_ok {d : Dev} {r : Requester} {o : Nat} {v : Word} (h : d.managerMay r) (ho : o < 0x100000) (ha : o % 8 = 0) :
    d.regWrite r (sideAt o) v = (d.sideWrite o v).emit (.regWrite false) :=
  Dev.regWrite_ok h.2 (by unfold sideAt; omega) (windowOf_fixed _ _ ho).2.2.2.2.2.2.2.1
    (Dev.managerMay_access h (by simp) (by simp) (by simp)) (by simp) rfl

/-- A 64-bit write of a register of a Porch by its owner. -/
theorem Dev.porchWrite_ok {d : Dev} {r : Requester} {n o : Nat} {v : Word} (h : d.ownerMay r n) (ho : o < 0x40000) (ha : o % 8 = 0)
    (hw : porchWide o = false) : d.regWrite r (porchAt n o) v = (d.porchWrite n o v).emit (.regWrite false) :=
  Dev.regWrite_ok h.1 (by unfold porchAt porchBase; omega) (windowOf_porch _ _ _ ho (Dev.ownerMay_thread h)) (Dev.ownerMay_access h)
    (by rintro m ⟨⟩; exact hw) rfl

end Sys2Proof.Machine
end

