-- ==== Sys2Proof/Laws/Pump.lean ====
section
/-! SUPPORT. In a quiet block settling changes nothing, and a command's frame keeps what its effect leaves. -/

namespace Sys2Proof.Machine

theorem Dev.pumpWith_idle {d : Dev} (h : OnEnd) (hn : d.nextOp = none) : d.pumpWith h = d := by
  unfold Dev.pumpWith pumpLimit
  show Dev.pumpGo h (999999 + 1) d = d
  simp [Dev.pumpGo, Dev.pumpOne, hn]

/-- A fold whose step changes nothing on any element changes nothing. -/
theorem foldl_keep {α β : Type} (l : List α) (f : β → α → β) (d : β) (h : ∀ x ∈ l, f d x = d) : l.foldl f d = d := by
  induction l with
  | nil => rfl
  | cons x r ih =>
    simp only [List.foldl_cons, h x (by simp)]
    exact ih fun y hy => h y (by simp [hy])

theorem Dev.settle_quiet {d : Dev} (h : d.quiet = true) : d.settle = d := by
  simp only [Dev.quiet, Bool.and_eq_true, List.all_eq_true, List.isEmpty_iff, Bool.not_eq_true', decide_eq_true_eq] at h
  obtain ⟨⟨⟨⟨⟨⟨⟨⟨⟨-, hm⟩, hw⟩, hc⟩, hr⟩, hl⟩, hs⟩, hq⟩, hp⟩, ht⟩ := h
  have e0 : d.drainDue = d := by
    unfold Dev.drainDue
    exact foldl_keep _ _ _ fun x hx => by simp [hm x hx]
  have e1 : d.reapEvicted = d := by
    unfold Dev.reapEvicted
    exact foldl_keep _ _ _ fun x hx => by simp [hc x hx]
  have e2 : d.reapRegions = d := by
    unfold Dev.reapRegions
    exact foldl_keep _ _ _ fun x hx => by
      have := hr x hx
      simp only [Region.calm, Bool.and_eq_true, Bool.not_eq_true'] at this
      simp [this.1]
  have e3 : d.loadSettle = d := by simp [Dev.loadSettle, hl]
  have ev : d.vaultTurn = d := by
    have : d.onVault (fun v => { v with waiting := [] }) = d := by
      unfold Dev.onVault
      rw [← hw]
    unfold Dev.vaultTurn
    rw [hw, this]
    simp [forEach]
  have e4 : d.sendResps = d := by simp [Dev.sendResps, hs]
  have e5 : d.sendReads = d := by
    unfold Dev.sendReads
    exact foldl_keep _ _ _ fun x hx => by simp [hq x hx]
  have e6 : d.unpark = d := by
    unfold Dev.unpark
    rw [hp]
    have : ({ d with parked := [] } : Dev) = d := by rw [← hp]
    rw [this]
    rfl
  have e7 : d.budgetWatch = d := by
    unfold Dev.budgetWatch
    refine foldl_keep _ _ _ fun x hx => ?_
    have hx := hr x hx
    simp only [Region.calm, Bool.and_eq_true, Bool.not_eq_true', Bool.or_eq_true, decide_eq_true_eq] at hx
    obtain ⟨-, (h1 | h1) | h1⟩ := hx
    · simp [h1]
    · simp [h1]
    · by_cases hn : x.2.newSlot.isSome = true
      · simp only [hn, if_true, Bool.and_eq_true, decide_eq_true_eq] at h1
        have a1 : ¬ budgetHigh ≤ x.2.writes := by omega
        have a2 : ¬ budgetHigh ≤ x.2.oldWrites := by omega
        simp [hn, a1, a2]
      · simp only [hn] at h1
        simp only [Bool.false_eq_true, if_false, decide_eq_true_eq] at h1
        simp [hn, h1]
  have e8 : d.leadNext = d := by
    unfold Dev.leadNext
    refine foldl_keep _ _ _ fun x hx => foldl_keep _ _ _ fun y hy => ?_
    have := ht x hx y hy
    rw [if_neg (by omega)]
  unfold Dev.settle
  rw [e0, e1, e2, e3, ev, e4, e5, e6, e7, e8]

/-- A quiet block has nothing to settle. -/
theorem Dev.pump_quiet {d : Dev} (h : d.quiet = true) : d.pump = d := by
  have hn : d.nextOp = none := by
    simp only [Dev.quiet, Bool.and_eq_true, Option.isNone_iff_eq_none] at h
    exact h.1.1.1.1.1.1.1.1.1
  unfold Dev.pump
  rw [Dev.pumpWith_idle _ hn, Dev.settle_quiet h, Dev.pumpWith_idle _ hn]

/-- The operation the pump would attempt rests on the engines alone, while no critical error has frozen the block. -/
theorem Dev.nextOp_congr {d e : Dev} (h1 : e.engines = d.engines) (h2 : e.reset.frozen = d.reset.frozen) : e.nextOp = d.nextOp := by
  have h : ∀ (x : Engine) (ops before : List MemOp), e.firstReady x before ops = d.firstReady x before ops := by
    intro x ops
    induction ops with
    | nil => intro b; rfl
    | cons op r ih =>
      intro b
      have hr : e.opReady x b op = d.opReady x b op := by
        unfold Dev.opReady Dev.eng
        rw [h1]
      simp only [Dev.firstReady, hr, ih]
  unfold Dev.nextOp
  simp only [h1, h2, h]

/-- What quiet rests on: an effect that leaves it leaves the block as quiet. -/
theorem Dev.quiet_of {d e : Dev} (h : d.quiet = true) (h0 : e.reset.frozen = d.reset.frozen) (h1 : e.engines = d.engines)
    (hm : e.merge = d.merge) (hw : e.vault.waiting = d.vault.waiting) (h2 : e.chans = d.chans)
    (h3 : e.regions = d.regions) (h4 : e.vault.loads = d.vault.loads) (h5 : e.sqResps = d.sqResps) (h6 : e.sqReads = d.sqReads)
    (h7 : e.parked = d.parked) (h8 : ∀ p ∈ e.parts, ∀ t ∈ p.2.dom.tickets, t.2.length ≤ 1024) : e.quiet = true := by
  simp only [Dev.quiet, Bool.and_eq_true] at h
  simp only [Dev.quiet, Dev.nextOp_congr h1 h0, hm, hw, h2, h3, h4, h5, h6, h7, Bool.and_eq_true]
  refine ⟨h.1, ?_⟩
  simp only [List.all_eq_true, decide_eq_true_eq]
  exact h8

/-- The tickets of a quiet block are all short. -/
theorem Dev.quiet_tickets {d : Dev} (h : d.quiet = true) : ∀ p ∈ d.parts, ∀ t ∈ p.2.dom.tickets, t.2.length ≤ 1024 := by
  simp only [Dev.quiet, Bool.and_eq_true, List.all_eq_true, decide_eq_true_eq] at h
  exact h.2

/-- An effect that leaves the configuration, house time and the fuses is kept whole by a command's frame. -/
theorem Dev.keep_eq {d d0 : Dev} (h1 : d.kind = d0.kind) (h2 : d.time = d0.time) (h3 : d.fuses = d0.fuses) : d.keep d0 = d := by
  cases d
  simp_all [Dev.keep]

/-- The frame of a command whose effect leaves configuration, house time and fuses. -/
theorem State.run_eq {s : State} {now : Nat} {f : Dev → Dev} {e : Dev} (h : f (s.at now) = e) (h1 : e.kind = (s.at now).kind)
    (h2 : e.time = (s.at now).time) (h3 : e.fuses = (s.at now).fuses) : s.run now f = s.left e := by
  unfold State.run State.left
  rw [show s.dev.advance now = s.at now from rfl, h, Dev.keep_eq h1 h2 h3]

theorem State.runUnit_eq {s : State} {now : Nat} {p : Bool} {f : Dev → Dev} {e : Dev} (hp : p = true) (h : f (s.at now) = e)
    (h1 : e.kind = (s.at now).kind) (h2 : e.time = (s.at now).time) (h3 : e.fuses = (s.at now).fuses) :
    s.runUnit now p f = s.left e := by
  subst hp
  exact State.run_eq h h1 h2 h3

/-- A command that settles, in a quiet block. -/
theorem State.goesOn_quiet {s : State} {now : Nat} {e : Dev} (h : e.quiet = true) (h1 : e.kind = (s.at now).kind)
    (h2 : e.time = (s.at now).time) (h3 : e.fuses = (s.at now).fuses) : s.goesOn now e = s.left e := by
  unfold State.goesOn State.left
  rw [Dev.pump_quiet h, Dev.keep_eq h1 h2 h3]

@[simp] theorem State.at_kind (s : State) (now : Nat) : (s.at now).kind = s.dev.kind := rfl

end Sys2Proof.Machine
end

