-- ==== Sys2Proof/Laws/Table.lean ====
section
/-! SUPPORT. Setting an entry keeps a table's canonical form, so that tables that read alike are one list. -/

namespace Sys2Proof.Machine

theorem rising_le {α : Type} (t : Tbl α) (a b : Nat) (hb : b ≤ a) (h : rising a t = true) : rising b t = true := by
  cases t with
  | nil => rfl
  | cons e r =>
    simp only [rising, Bool.and_eq_true, decide_eq_true_eq] at h ⊢
    exact ⟨by omega, h.2⟩

theorem rising_tdel {α : Type} (t : Tbl α) (low k : Nat) (h : rising low t = true) : rising low (tdel t k) = true := by
  induction t generalizing low with
  | nil => rfl
  | cons e r ih =>
    obtain ⟨i, w⟩ := e
    simp only [rising, Bool.and_eq_true, decide_eq_true_eq] at h
    simp only [tdel]
    split
    · exact ih low (rising_le r (i + 1) low (by omega) h.2)
    · simp [rising, h.1, ih (i + 1) h.2]

theorem rising_tput {α : Type} (t : Tbl α) (low k : Nat) (v : α) (hk : low ≤ k) (h : rising low t = true) :
    rising low (tput t k v) = true := by
  induction t generalizing low with
  | nil => simp [tput, rising, hk]
  | cons e r ih =>
    obtain ⟨i, w⟩ := e
    simp only [rising, Bool.and_eq_true, decide_eq_true_eq] at h
    simp only [tput]
    split
    · simp [rising, h.1, ih (i + 1) (by omega) h.2]
    · split
      · rename_i e
        subst e
        simp [rising, h.1, h.2]
      · simp only [rising, Bool.and_eq_true, decide_eq_true_eq]
        exact ⟨hk, by omega, h.2⟩

/-- Setting an entry keeps the canonical form. -/
theorem tblWf_tset {α : Type} [DecidableEq α] (t : Tbl α) (d : α) (k : Nat) (v : α) (h : tblWf t d = true) :
    tblWf (tset t d k v) d = true := by
  simp only [tblWf, Bool.and_eq_true] at h ⊢
  refine ⟨?_, ?_⟩
  · unfold tset
    split
    · exact rising_tdel t 0 k h.1
    · exact rising_tput t 0 k v (Nat.zero_le k) h.1
  · by_cases hv : v = d
    · subst hv
      have : ∀ t : Tbl α, (t.all fun e => decide (e.2 ≠ v)) = true → ((tdel t k).all fun e => decide (e.2 ≠ v)) = true := by
        intro t
        induction t with
        | nil => exact id
        | cons e r ih =>
          obtain ⟨i, w⟩ := e
          intro h
          simp only [List.all_cons, Bool.and_eq_true] at h
          simp only [tdel]
          split
          · exact ih h.2
          · simp only [List.all_cons, Bool.and_eq_true]
            exact ⟨h.1, ih h.2⟩
      simpa [tset] using this t h.2
    · exact all_tset t d k v _ h.2 (by simpa using hv)

end Sys2Proof.Machine
end

