-- ==== Sys2Proof/Tests/Slice0.lean ====
section
/-! SUPPORT. Tests: a command that each check of WellFormed refuses, published vectors of the algorithms, and for every statement
that has hypotheses concrete states and operands that meet them, clause by clause, at the values where clauses meet. What Config
leaves opaque (a signature that verifies, a decapsulated key) is a hypothesis of the theorem that needs it. -/

namespace Sys2Proof.Tests

open Machine

set_option Elab.async false

/-! ## Helpers -/

def mgrReq : Requester := { cls := 0, idx := 0 }
def partReq (n : Nat) : Requester := { cls := 1, idx := BitVec.ofNat 5 n }
def dbgReq : Requester := { cls := 2, idx := 0 }

/-- A READY block of eight partitions with its node id and a DRBG that serves, partitions 0 and 1 bound. -/
def base : Dev :=
  { kind := .k8, reset := { status := 1 }, hall := { node := 5, nodeValid := true },
    larder := { drbg := { st := .ready, draws := 7, seeded := true } }, mgmt := { lcWord := 3 }, parts := [(0, { st := .bound }), (1, { st := .bound })] }

/-- The machine with a block, nothing waiting. -/
def sys (d : Dev) : State := { dev := d }

/-- A row's word: opcode, go, a, b, c, d (R48). -/
def rowWord (op a b c d : Nat) : BitVec 128 := BitVec.ofNat 128 (op * 2 ^ 120 + 2 ^ 119 + a * 2 ^ 96 + b * 2 ^ 80 + c * 2 ^ 64 + d)

/-- Row 9 in flight at a stage, its object in a slot. -/
def fl (stage : Stage) (w : BitVec 128) (slot : Nat := 0) : Flight := { row := 9, step := w, stage := stage, slot := slot }

/-- The block with one row in flight on a thread. -/
def withFlight (d : Dev) (n : Nat) (x : Flight) : Dev := d.onTh n fun t => { t with flights := [x] }

/-! ## Commands that are not well formed (each check of WellFormed refuses one) -/

theorem test_wf_requester : Instr.wf .k8 (.portFaultInfoRelease (partReq 8) 0) = false ∧ Instr.wf .k8 (.portFaultInfoRelease (partReq 7) 0) = true ∧
    Instr.wf .k8 (.portFaultInfoRelease { cls := 0, idx := 1 } 0) = false := by decide +kernel
theorem test_wf_offset : Instr.wf .k8 (.registerRead mgrReq 0x4000000 8 0) = false ∧ Instr.wf .k8 (.registerRead mgrReq 0x3FFFFF8 8 0) = true := by decide +kernel
theorem test_wf_thread : Instr.wf .k8 (.nop 9 0 0) = false ∧ Instr.wf .k8 (.nop 8 255 0) = true := by decide +kernel
theorem test_wf_row : Instr.wf .k8 (.nop 0 256 0) = false := by decide +kernel
theorem test_wf_time : Instr.wf .k8 (.rowIssue (2 ^ 64)) = false ∧ Instr.wf .k8 (.rowIssue (2 ^ 64 - 1)) = true := by decide +kernel
theorem test_wf_part : Instr.wf .k8 (.getTdispVersion 8 0) = false ∧ Instr.wf .k16 (.getTdispVersion 8 0) = true := by decide +kernel
theorem test_wf_port : Instr.wf .k8 (.linkUp 8 0) = false ∧ Instr.wf .k8 (.linkUp 7 0) = true := by decide +kernel
theorem test_wf_engine : Instr.wf .k8 (.landingSlotGrant 4 0) = false ∧ Instr.wf .k32 (.landingSlotGrant 11 0) = true := by decide +kernel
theorem test_wf_domain : Instr.wf .k8 (.spreadStep 14 0) = false ∧ Instr.wf .k8 (.powerOffRequest mgrReq 14 0) = false := by decide +kernel
theorem test_wf_switch : Instr.wf .k8 (.pwrAck 5 true 0) = false ∧ Instr.wf .k8 (.pwrAck 4 true 0) = true := by decide +kernel
theorem test_wf_loop : Instr.wf .k8 (.vok 7 0) = false ∧ Instr.wf .k8 (.vok 8 0) = true ∧ Instr.wf .k8 (.vok 14 0) = false := by decide +kernel
theorem test_wf_square : Instr.wf .k8 (.sumEvent 256 0 0) = false := by decide +kernel
theorem test_wf_chan : Instr.wf .k8 (.syncTimeout 16384 0) = false := by decide +kernel
theorem test_wf_packet : Instr.wf .k8 (.data 0 [] 0) = false ∧ Instr.wf .k8 (.data 0 (List.replicate 33 0) 0) = false := by decide +kernel
theorem test_wf_line : Instr.wf .k8 (.memoryWrite 0 0 0 (List.replicate 127 0) 0) = false := by decide +kernel
theorem test_wf_check : Instr.wf .k8 (.stackReadResponse 0 0 (List.replicate 128 0) (List.replicate 15 0) 0 0) = false := by decide +kernel
theorem test_wf_stream : Instr.wf .k8 (.memoryRead 0 8 0 0) = false := by decide +kernel
theorem test_wf_message : Instr.wf .k8 (.getNonce none (List.replicate 19 0) 0) = false := by decide +kernel
theorem test_wf_domain_message : Instr.wf .k8 (.hello (List.replicate 15 0) 0) = false := by decide +kernel
theorem test_wf_frame : Instr.wf .k8 (.ident (List.replicate 7 0) 0) = false := by decide +kernel
theorem test_wf_spdm : Instr.wf .k8 (.getVersion (.interface 8) 0) = false ∧ Instr.wf .k8 (.challenge .management 8 0 0) = false := by decide +kernel
theorem test_wf_ide : Instr.wf .k8 (.kSetGo 64 true true 0 0) = false := by decide +kernel
theorem test_wf_job : Instr.wf .k8 (.rekeyEnd 64 0) = false ∧ Instr.wf .k8 (.jobStall 64 0) = true ∧ Instr.wf .k8 (.jobStall 65 0) = false := by decide +kernel
theorem test_wf_packet_index : Instr.wf .k8 (.gatherTimeout 0 0 1024 0) = false := by decide +kernel
theorem test_wf_reassembly : Instr.wf .k8 (.domainReassemblyTimeout 0x4000 0 0) = false ∧ Instr.wf .k8 (.domainReassemblyTimeout 0 32 0) = false := by decide +kernel
theorem test_wf_mailbox : Instr.wf .k8 (.mailboxPost mgrReq false 0 16 0 0) = false := by decide +kernel
theorem test_wf_counter : Instr.wf .k8 (.countRead mgrReq 0 16 0) = false := by decide +kernel
theorem test_wf_source : Instr.wf .k8 (.externalEdge 256 0) = false := by decide +kernel
theorem test_wf_target : Instr.wf .k8 (.irqAck 8 0) = false := by decide +kernel
theorem test_wf_mask_word : Instr.wf .k8 (.maskSet mgrReq 4 0 0) = false := by decide +kernel
theorem test_wf_unit : Instr.wf .k8 (.selfTest (.portTx 8 0) true true 0) = false ∧ Instr.wf .k8 (.selfTest (.portTx 7 0) true true 0) = true := by decide +kernel
theorem test_wf_upset : Instr.wf .k8 (.selfTest (.upset (.symbol 4)) true true 0) = false ∧ Instr.wf .k8 (.selfTest (.upset (.symbol 3)) true true 0) = true := by decide +kernel
theorem test_wf_link_record : Instr.wf .k8 (.linkStateRecordAccess 256 none) = false := by decide +kernel

/-! ## Published vectors -/

/-- SHA-384 of "abc" (FIPS 180-4). -/
theorem test_sha384_abc : beNat (sha384 [0x61, 0x62, 0x63]) =
    0xcb00753f45a35e8bb5a03d699ac65007272c32ab0eded1631a8b605a43ff5bed8086072ba1e7cc2358baeca134c825a7 := by decide +kernel

/-- AES-256 of FIPS 197, C.3. -/
theorem test_aes256_fips : beNat (aes256 0x1F1E1D1C1B1A191817161514131211100F0E0D0C0B0A09080706050403020100 (natBe 16 0x00112233445566778899AABBCCDDEEFF)) =
    0x8EA2B7CA516745BFEAFC49904B496089 := by decide +kernel
theorem test_aes256_inverse : aesInvWith (expand 0x1F1E1D1C1B1A191817161514131211100F0E0D0C0B0A09080706050403020100)
    [0x8E, 0xA2, 0xB7, 0xCA, 0x51, 0x67, 0x45, 0xBF, 0xEA, 0xFC, 0x49, 0x90, 0x4B, 0x49, 0x60, 0x89] =
    [0x00, 0x11, 0x22, 0x33, 0x44, 0x55, 0x66, 0x77, 0x88, 0x99, 0xAA, 0xBB, 0xCC, 0xDD, 0xEE, 0xFF] := by decide +kernel
/-- The inverse S-box undoes the S-box, every byte. -/
theorem test_inverse_sbox : ((List.range 256).all fun b => invSbox (sbox b) = b) = true := by decide +kernel
/-- CRC-32 of "123456789" (the check value every catalogue gives). -/
theorem test_crc32 : crc32 [0x31, 0x32, 0x33, 0x34, 0x35, 0x36, 0x37, 0x38, 0x39] = 0xCBF43926 := by decide +kernel
/-- GCM of a zero block under a zero key and IV (the algorithm's published test case 14). -/
theorem test_gcm_zero : (gcmSeal 0 (List.replicate 12 0) [] (List.replicate 16 0)).1 = natBe 16 0xCEA7403D4D606B6E074EC5D3BAF39D18 ∧
    (gcmSeal 0 (List.replicate 12 0) [] (List.replicate 16 0)).2 = natBe 16 0xD0D1C8A799996BF0265B98B5D48AB919 := by decide +kernel

/-! ## Single steps -/

theorem test_step_front : step { (sys base) with pending := [.linkUp 3 0, .linkDown 3 0] } = exec (.linkUp 3 0) { (sys base) with pending := [.linkDown 3 0] } := rfl
theorem test_step_idle : (match step (sys base) with
    | .next t => t.dev.time
    | _ => 0) = 10 := by decide +kernel
theorem test_no_words : decodeTableWord 0 0 = none ∧ ∀ s : State, s.withFetchWord 32 5 = s := ⟨rfl, fun _ => rfl⟩

/-! ## Hypotheses met: the frame of every command -/

/-- The block as a command at `now` finds it. -/
def seen (d : Dev) (now : Nat := 0) : Dev := (sys d).at now

theorem test_met_HouseTimeRunsOnAndNeverBack : (sys base).pending = [] ∧
    (∃ t, exec (.linkUp 7 5) (sys base) = .next t) ∧ ∀ i a, Instr.linkUp 7 5 ≠ .coldBoot i a :=
  ⟨rfl, ⟨_, rfl⟩, by intros; nofun⟩
theorem test_met_WellFormedCommandsAnswer : Instr.wf (sys base).dev.kind (.linkUp 7 (2 ^ 64 - 1)) = true := by and_intros <;> decide +kernel
theorem test_met_StepsOnlyBlowFuses : Fuses.within { lc := 3 } { lc := 7, uds := 1 } ∧ Fuses.wf { lc := 7, uds := 1 } = true ∧
    ∃ t, step { (sys { base with fuses := { lc := 7, uds := 1 } }) with pending := [.linkUp 7 0] } = .next t := by
  refine ⟨⟨by decide, by decide, by decide, by decide, fun n h => absurd h (Nat.not_lt_zero n)⟩, by decide, ⟨_, rfl⟩⟩
theorem test_met_ResetMeetsFuseInvariant : Fuses.within {} State.reset.dev.fuses :=
  ⟨by decide, by decide, by decide, by decide, fun n h => absurd h (Nat.not_lt_zero n)⟩

/-! ## Hypotheses met: the interrupt controller -/

theorem test_met_MaskAndPendWritesActBitByBit : (seen base).managerMay mgrReq ∧ 3 < 4 := by unfold Dev.managerMay; and_intros <;> decide +kernel

theorem test_met_TargetsLockOnFirstWrite :
    let d := seen { base with intc := { target := [(0, 0x80)], tgtCtrl := [(7, 0x80)] } }
    d.managerMay mgrReq ∧ (131 < 132 ∧ srcPresent d.kind 131 = true ∧ (tget d.intc.target 0 131).getLsbD 7 = false) ∧
    (132 ≤ 132 ∧ 132 < 256 ∧ (tget d.intc.target 0 132).getLsbD 7 = false ∧ (0#64).getLsbD 4 = false) ∧
    ((tget d.intc.target 0 255).getLsbD 7 = false) ∧
    (srcPresent d.kind 0 = true ∧ (tget d.intc.target 0 0).getLsbD 7 = true) ∧
    (0 < 8 ∧ (tget d.intc.tgtCtrl 0 0).getLsbD 7 = false) ∧ (7 < 8 ∧ (tget d.intc.tgtCtrl 0 7).getLsbD 7 = true) := by
  unfold Dev.managerMay; and_intros <;> decide +kernel

/-- Sources 140 (edge, pending) and 200 (masked) locked to target 0; target 1 MANUAL and 2 MESSAGE in service of 140. -/
def intcWaits : Dev :=
  { base with time := 100, intc := { pend := oneBit 256 140, mask := BitVec.allOnes 256 &&& ~~~(oneBit 256 140), target := [(140, 0x88)],
                                     tgtCtrl := [(2, 0x81)] } }
def intcServes : Dev := { base with intc := { serving := [(1, 141), (2, 141)], tgtCtrl := [(2, 0x81)] } }

theorem test_met_DeliveryAndEndOfInterrupt :
    (let d := seen intcWaits 100
     d.intc.freeAt 0 100 = true ∧ d.intc.candidate d.kind 0 100 140 = true ∧ (∀ m, m < 140 → d.intc.candidate d.kind 0 100 m = false) ∧
     (∀ n, n < 256 → d.intc.candidate d.kind 7 100 n = false)) ∧
    (let d := seen intcServes
     d.managerMay mgrReq ∧ (d.intc.message 1 = false ∧ d.intc.inService 1 = true ∧ (140#64).toNat % 256 = tget d.intc.serving 0 1 - 1 ∧
       tget d.intc.serving 0 1 - 1 < 256) ∧
     (d.intc.message 0 = false ∧ d.intc.inService 0 = false) ∧ (d.intc.message 1 = false ∧ tget d.intc.serving 0 1 ≠ (255#64).toNat % 256 + 1) ∧
     (d.intc.message 2 = true ∧ d.intc.inService 2 = true)) := by
  unfold Dev.managerMay; and_intros <;> decide +kernel

/-- Source 132 an edge source at its storm limit, 255 a level source active since time 0, its guard a millisecond. -/
def intcInputs : Dev :=
  { base with intc := { target := [(255, 0x90)], edges := [(132, 0x3E8)], activeSince := [(255, 1)], stuckTime := 1, raw := oneBit 256 255 } }

theorem test_met_ExternalInputsPendAndGuard :
    (let d := seen intcInputs
     132 ≤ 132 ∧ d.intc.isLevel 132 = false ∧ tget (if d.intc.interval = d.time / 1000000 then d.intc.edges else []) 0 132 = tget d.intc.stormLimit 0x3E8 132 ∧
     tget (if d.intc.interval = d.time / 1000000 then d.intc.edges else []) 0 133 ≠ tget d.intc.stormLimit 0x3E8 133 ∧ d.intc.isLevel 133 = false ∧
     d.intc.isLevel 255 = true ∧ d.vault.sealOpen = false) ∧
    (let d := seen intcInputs
     d.intc.isLevel 129 = true ∧ tget d.intc.activeSince 0 255 = 0 + 1 ∧ d.time < 0 + d.intc.stuckTime * 1000000) ∧
    (let d := seen intcInputs 1000000
     tget d.intc.activeSince 0 255 = 0 + 1 ∧ 0 + d.intc.stuckTime * 1000000 ≤ d.time) := by
  and_intros <;> decide +kernel

theorem test_met_ExternalInputsPendAndGuard_presence (active : Bool) :
    ∃ e, exec (if active then .presencePress 0 else .presenceRelease 0) (sys base) = (sys base).left e := by
  cases active <;> exact ⟨_, rfl⟩

/-! ## Hypotheses met: the register port and the Porch -/

theorem test_met_AccessSizesAndAlignments :
    (seen base).portFault mgrReq false 0x10 8 = none ∧ (seen base).portFault mgrReq false 0x14 8 = some .align ∧
    (seen base).portFault mgrReq false 0x10 16 = some .size := by and_intros <;> decide +kernel

theorem test_met_PortFaultsAreAnsweredCountedAndCaptured :
    let d := seen base
    d.reset.frozen = false ∧ d.quiet = true ∧ d.portFault mgrReq false 0x14 8 = some .align ∧ d.portFault mgrReq true 0x14 8 = some .align ∧
    d.portFault mgrReq false 0x10 4 = some .size ∧ (seen { base with reset := {} }).portFault mgrReq false 0x10008 8 = some .notReady ∧
    (d.reset.status = 1 ∧ windowOf d.kind 0x3FFFFF8 = none) ∧ d.hall.faultInfo.getLsbD 63 = false ∧
    ({ base.hall with faultInfo := 2 ^ 63 } : Hall).faultInfo.getLsbD 63 = true ∧
    (∃ w o, windowOf d.kind 0x1000008 = some (w, o) ∧ d.mayAccess (partReq 1) w false = false) ∧
    (∃ w o, windowOf d.kind 0x1000008 = some (w, o) ∧ d.mayAccess (partReq 0) w true = true ∧ o < 0x1000) := by
  iterate 9 refine ⟨by decide +kernel, ?_⟩
  exact ⟨⟨.porch 0, 8, by decide +kernel⟩, .porch 0, 8, by decide +kernel⟩

/-- The trace domain off. -/
def noTrace : Dev := { base with power := { domains := [(3, { st := .off })] } }

theorem test_met_SwitchedOffWindowsReadZero :
    windowOf (seen noTrace).kind 0x2700000 = some (.attic, 0) ∧ (seen noTrace).windowOn .attic = false ∧ (seen noTrace).reset.frozen = false ∧
      (seen noTrace).quiet = true ∧ (seen noTrace).portFault mgrReq false 0x2700000 8 = none ∧
      (seen noTrace).portFault mgrReq true 0x2700000 8 = none := by
  and_intros <;> decide +kernel

theorem test_met_RegistersStoreReadAndClear :
    (seen base).managerMay mgrReq ∧ (seen base).quiet = true ∧ 10 ≤ (10#128).toNat % 2 ^ 64 % 2 ^ 20 ∧ (10#128).toNat % 2 ^ 64 % 2 ^ 20 ≤ 1000000 ∧
    (1000000#128).toNat % 2 ^ 64 % 2 ^ 20 ≤ 1000000 ∧ (9#128).toNat % 2 ^ 64 % 2 ^ 20 < 10 ∧ 1000000 < (1000001#128).toNat % 2 ^ 64 % 2 ^ 20 ∧
    (dbgReq.cls = 2 ∧ (seen { base with mgmt := { lcWord := 7 } }).lc = .debug) := by unfold Dev.managerMay; and_intros <;> decide +kernel

/-- Thread 1 halted with row 255 loaded and a FIFO of two. -/
def porchDev : Dev := { base with threads := [(1, { rows := [(255, rowWord 1 0 0 0 0)], halted := true, fifo := [5, 6] })] }

theorem test_met_PorchAccessesOfTheDriver :
    (seen porchDev).ownerMay (partReq 1) 1 ∧ (seen porchDev).ownerMay (partReq 0) 0 ∧ (seen porchDev).ownerMay mgrReq 8 ∧
    (let t := (seen porchDev).th 1
     (tget t.rows 0 255).getLsbD 119 = true ∧ (tget t.rows 0 0).getLsbD 119 = false ∧ t.fifo = [5, 6] ∧ t.halted = true) ∧
    (let t := (seen porchDev).th 0
     t.fifo = [] ∧ t.halted = false) := by unfold Dev.ownerMay; and_intros <;> decide +kernel

/-! ## Hypotheses met: the sequencer -/

/-- Thread 0 holds one row at its issue pointer. -/
def issues (w : BitVec 128) : Dev := { base with threads := [(0, { rows := [(0, w)] })] }
theorem base_turn (w : BitVec 128) (i : Nat) (h : i < (0 + (seen (issues w)).mgr + 1 - (seen (issues w)).lastPicked) % ((seen (issues w)).mgr + 1)) :
    (seen (issues w)).eligible (((seen (issues w)).lastPicked + i) % ((seen (issues w)).mgr + 1)) = false :=
  absurd h (by show ¬ i < (0 + 8 + 1 - 0) % (8 + 1); omega)

theorem test_met_IssueTakesTheNextEligibleRow :
    ((seen (issues (rowWord 0x01 0 0 0 0))).ready = true ∧ (seen (issues (rowWord 0x01 0 0 0 0))).eligible 0 = true ∧
      (Step.of (tget ((seen (issues (rowWord 0x01 0 0 0 0))).th 0).rows 0 0)).op = some .nop) ∧
    (let d := { seen (issues (rowWord 0x04 0 0 0 7)) with lastPicked := 1 }
     (seen (issues (rowWord 0x04 0 0 0 7))).eligible 0 = true ∧ (Step.of (rowWord 0x04 0 0 0 7)).op = some .event ∧
     ∃ e s k b o, d.check 0 .event (Step.of (rowWord 0x04 0 0 0 7)) = .pass e s k b o) ∧
    (let d := { seen (issues (rowWord 0x10 0 0 0 0)) with lastPicked := 1 }
     (seen (issues (rowWord 0x10 0 0 0 0))).eligible 0 = true ∧ (d.th 0).flights = [] ∧
     d.check 0 .genkey (Step.of (rowWord 0x10 0 0 0 0)) = .fail Status.badField) ∧
    (seen (issues 0)).eligible 0 = false :=
  ⟨by decide +kernel, ⟨by decide +kernel, by decide +kernel, ⟨_, _, _, _, _, rfl⟩⟩, ⟨by decide +kernel, rfl, rfl⟩, by decide +kernel⟩

theorem test_met_SequencerRowsCompleteOrPend :
    (let x := fl .decoded (rowWord 0x01 0 0 0 0)
     (seen (withFlight base 0 x)).ready = true ∧ (seen (withFlight base 0 x)).flight 0 9 = some x ∧ (Step.of x.step).op = some .nop ∧
     (seen (withFlight base 0 x)).checkFields 0 .nop (Step.of x.step) = none) ∧
    (let x := fl .checked (rowWord 0x04 0 0 0 7)
     (seen (withFlight base 8 x)).flight 8 9 = some x ∧ 8 ≤ (seen (withFlight base 8 x)).mgr ∧ (Step.of x.step).op = some .event) ∧
    (let x := fl .decoded (rowWord 0xFF 0 0 0 0)
     (seen (withFlight base 0 x)).flight 0 9 = some x ∧ (Step.of x.step).op = none ∧ (Step.of x.step).cont = false ∧
     (Step.of (x.step ||| oneBit 128 116)).cont = true) ∧
    (let x := fl .decoded (rowWord 0x02 0 0 0 7)
     (seen (withFlight base 0 x)).flight 0 9 = some x ∧ (Step.of x.step).op = some .fence ∧
     (seen (withFlight base 0 x)).checkFields 0 .fence (Step.of x.step) = none) ∧
    (∀ c ∈ [1, 2 ^ 31 - 1], (fun dist => 0 < dist ∧ dist < 2 ^ 31) ((c + 2 ^ 32 - (0#32).toNat) % 2 ^ 32)) ∧
    (∀ c ∈ [0, 2 ^ 31 + 1, 2 ^ 32 - 1], (fun dist => dist = 0 ∨ 2 ^ 31 < dist) ((c + 2 ^ 32 - (0#32).toNat) % 2 ^ 32)) ∧
    (∀ c ∈ [0, 1, 2 ^ 31 - 1, 2 ^ 31, 2 ^ 31 + 1, 2 ^ 32 - 1],
      let x := fl .decoded (rowWord 0x03 0 0 0 c)
      let d := seen (withFlight base 0 x)
      d.flight 0 9 = some x ∧ (Step.of x.step).op = some .wait ∧ d.checkFields 0 .wait (Step.of x.step) = none ∧ fld (Step.of x.step).d 0 32 = c ∧
      (d.th (waitThread 0 (Step.of x.step))).cookie = 0) := by and_intros <;> decide +kernel

theorem test_met_IssueTakesTheNextEligibleRow_held :
    let d := { seen { base with threads := [(0, { rows := [(0, rowWord 0x10 0x1001 0 1 0)], handles := [(hKey .key 1, { st := .closing })], held := true })] }
      with lastPicked := 1 }
    d.eligible 0 = false ∧ (d.th 0).held = true ∧ d.check 0 .genkey (Step.of (rowWord 0x10 0x1001 0 1 0)) = .held :=
  ⟨by decide +kernel, rfl, rfl⟩

/-- The held row of a thread whose pool has room again. -/
theorem test_met_IssueTakesTheNextEligibleRow_released :
    let d := { (base.onPart 0 fun p => { p with quotas := [(0, 4)] }) with
      threads := [(0, { rows := [(0, rowWord 0x10 0x1001 0 1 0)], held := true })], larder := { pool := { next := 97, limit := 2048 } } }
    (sys d).dev.time ≤ 5 ∧ ((seen d 5).th 0).held = true ∧
    ∃ e a b c f, (seen d 5).check 0 .genkey (Step.of (rowWord 0x10 0x1001 0 1 0)) = .pass e a b c f :=
  ⟨by decide +kernel, by decide +kernel, _, _, _, _, _, rfl⟩

/-- A pending FENCE and a pending WAIT for cookie 5 of thread 0 itself. -/
def fenceFl : Flight := fl .barrier (rowWord 0x02 0 0 0 7)
def waitFl : Flight := fl .barrier (rowWord 0x03 0 0 0 5)

theorem test_met_BarriersAndEngineReportsComplete :
    (let d := seen (withFlight base 0 fenceFl)
     d.ready = true ∧ 0 ≤ d.mgr ∧ d.flight 0 9 = some fenceFl ∧ d.barrierOf 0 .fence = some fenceFl ∧ (d.th 0).flights.head? = some fenceFl) ∧
    (let d := seen (base.onTh 8 fun t => { t with flights := [{ fl .running 0 with row := 8 }, fenceFl] })
     8 ≤ d.mgr ∧ d.barrierOf 8 .fence = some fenceFl ∧ (d.th 8).flights.head?.map (·.row) ≠ some fenceFl.row) ∧
    (∀ c ∈ [5, 5 + 2 ^ 31 - 1], let d := seen (base.onTh 0 fun t => { t with flights := [waitFl], cookie := BitVec.ofNat 32 c })
     d.barrierOf 0 .wait = some waitFl ∧
     cookieAtOrAfter (d.th (waitThread 0 (Step.of waitFl.step))).cookie (BitVec.ofNat 32 (fld (Step.of waitFl.step).d 0 32)) = true) ∧
    (∀ c ∈ [4, 5 + 2 ^ 31], let d := seen (base.onTh 0 fun t => { t with flights := [waitFl], cookie := BitVec.ofNat 32 c })
     d.barrierOf 0 .wait = some waitFl ∧
     cookieAtOrAfter (d.th (waitThread 0 (Step.of waitFl.step))).cookie (BitVec.ofNat 32 (fld (Step.of waitFl.step).d 0 32)) = false) ∧
    (fl (.finished Status.done) 0).stage = .finished Status.done ∧
    (let x := fl .running (rowWord 0x14 0x1001 0 0 0) 97
     (seen (withFlight base 0 x)).flight 0 9 = some x ∧ x.stage = .running ∧
     (seen (base.onTh 0 fun t => { t with flights := [x, { fl .running (rowWord 0x12 0x1001 0x1001 0 0) 97 with row := 10 }] })).drainedNow x = false) ∧
    (let x := fl .running (rowWord 0x31 0x1001 0 0 0) 3
     (seen { (withFlight base 0 x) with chans := [(3, { st := .down })] }).drainedNow x = true) := by
  and_intros <;> decide +kernel

theorem test_met_RowsRetireAndEventsPostInOrder :
    (let x := fl (.completed Status.done) (rowWord 0x02 0 0 0 7)
     let d := seen (withFlight base 0 x)
     d.ready = true ∧ 0 ≤ d.mgr ∧ (d.th 0).flights = [x] ∧ (d.th 0).fifo.length + (d.th 0).posts.length < 64) ∧
    (let x := fl (.completed Status.done) (rowWord 0x01 0 0 0 0)
     let d := seen (withFlight base 0 x)
     (d.th 0).flights = [x] ∧ (Step.of x.step).notify = false ∧ (Step.of x.step).op = some .nop) ∧
    (let x := fl (.completed Status.done) (rowWord 0x02 0 0 0 7)
     let d := seen ((withFlight base 0 x).onPart 0 fun p => { p with addRange := true })
     (d.th 0).flights = [x] ∧ (Step.of x.step).op = some .fence ∧ statusOk Status.done = true ∧ 0 < d.nparts ∧ (d.part 0).addRange = true) ∧
    (let x := fl (.completed Status.badField) (rowWord 0x01 0 0 0 0)
     let d := seen (base.onTh 0 fun t => { t with flights := [x], fifo := List.replicate 63 0, posts := [{ row := 1, opcode := 1, status := 1 }] })
     (d.th 0).flights = [x] ∧ Status.badField ≠ Status.done ∧ 64 ≤ (d.th 0).fifo.length + (d.th 0).posts.length ∧ (d.th 0).fifo.length < 64) ∧
    (let d := seen (base.onTh 0 fun t => { t with jobEnds := [{ row := 1, opcode := 0xA4, status := 1, cookie := some 3, job := true }], jobs := 1 })
     (d.th 0).posts = [] ∧ (d.th 0).fifo.length < 64 ∧ (d.th 0).jobEnds.length = 1) := by
  and_intros <;> decide +kernel

/-- GENKEY dispatched at time 0, its deadline of class 1 passed at 10 ms; ERASE being withdrawn since 0. -/
def genkeyFl : Flight := { fl .dispatched (rowWord 0x10 0x1001 0 15 0) 97 with limit := (seen base).limitOf .genkey }
def eraseFl : Flight := { fl .dispatched (rowWord 0x14 0x1001 0 0 0) 97 with oldGen := 1 }

theorem test_met_HungStepsAreWithdrawn :
    (let d := seen (withFlight base 0 genkeyFl) (deadlineReset 1 * 1000)
     d.ready = true ∧ 0 < d.nparts ∧ d.flight 0 9 = some genkeyFl ∧ genkeyFl.row = 9 ∧ (d.late 0 genkeyFl).isSome = true) ∧
    (seen (withFlight base 0 genkeyFl) (deadlineReset 1 * 1000 - 1)).late 0 genkeyFl = none ∧
    (∀ x ∈ [genkeyFl, eraseFl], ((seen (base.onTh 0 fun t => { t with withdrawals := [x] })).th 0).withdrawals = [x] ∧ x.row = 9) ∧
    (Step.of genkeyFl.step).op = some .genkey ∧ (Step.of eraseFl.step).op = some .erase ∧
    (let d := seen (base.onTh 0 fun t => { t with withdrawals := [eraseFl] }) 100000
     eraseFl.decodedAt + 100000 ≤ d.time ∧ (d.part 0).st ≠ .resetting) ∧
    (seen base 99999).time < eraseFl.decodedAt + 100000 := by
  and_intros <;> decide +kernel

/-! ## Hypotheses met: keys -/

/-- A filled key slot of a thread's handle 1, generation 1. -/
def keyOf (thread usage : Nat) (wrappable : Bool) (spent : Bool := false) : LSlot :=
  { key := 0x1F1E1D1C1B1A191817161514131211100F0E0D0C0B0A09080706050403020100,
    attr := attrWord .k8 usage wrappable Origin.generated 2 0 defaultMasks ||| (if spent then 0x20 else 0), owner := ownerWord thread 1 1 0, st := 1 }

theorem test_met_GenkeyFillsANewSlotFromTheDrbg :
    (seen (withFlight base 0 genkeyFl)).dispatched 0 9 .genkey genkeyFl ∧ (seen base).canDraw = true ∧
    (seen { base with larder := { drbg := { st := .ready, sinceReseed := 65535 } } }).canDraw = true ∧
    (1 ≤ (seen base).mgr ∧ ((seen base).part 1).st = .bound ∧ (Step.of (rowWord 0x10 0x1001 0 31 0)).reserved = 0 ∧ (Step.of (rowWord 0x10 0x1001 0 31 0)).c % 16 ≠ 0 ∧
      (Step.of (rowWord 0x10 0x1001 0 31 0)).c < 32 ∧ (Step.of (rowWord 0x10 0x1001 0 16 0)).c % 16 = 0) := by
  unfold Dev.dispatched; and_intros <;> decide +kernel

/-- One step of the public-key engine at the head of its queue, keys in slots 97 and 98. -/
def pkeDev (x : Flight) (usage : Nat) (wrappable : Bool) : Dev :=
  let d := withFlight base 0 x
  { d with larder := { d.larder with slots := [(97, keyOf 0 15 wrappable), (98, keyOf 0 usage true)], pke := [{ thread := 0, row := some 9, since := 0 }] } }
def stepB (op a b c d : Nat) : Flight := { fl .dispatched (rowWord op a b c d) 97 with bSlot := some 98 }

theorem test_met_PublicKeyEngineStepsFillSlots :
    (let x := stepB 0x11 0x1002 0x1001 1 (0xFFFE * 2 ^ 32)
     let d := seen (pkeDev x 15 true)
     d.pkeServes 0 9 ∧ d.dispatched 0 9 .derive x ∧ (Step.of x.step).b ≠ 0 ∧ d.keyLook 0 (Step.of x.step).b 98 = .ok ∧ d.slotPasses 98 = true ∧
     d.keyMay 98 useDerive .seq (d.worldOf 0 98) = true ∧ fld (Step.of x.step).d 32 16 ≠ 0xFFFF) ∧
    (let x := stepB 0x11 0x1002 0x1001 1 0
     let d := seen (pkeDev x (15 - 2 ^ useDerive) true)
     d.dispatched 0 9 .derive x ∧ d.keyMay 98 useDerive .seq (d.worldOf 0 98) = false) ∧
    (let x := stepB 0x11 0x1002 0 1 0
     let d := seen (pkeDev x 15 true)
     d.dispatched 0 9 .derive x ∧ (Step.of x.step).b = 0 ∧ d.impliedParent 0 = none) ∧
    (let x := stepB 0x12 0x1001 0x1001 15 0
     let d := seen (pkeDev x 15 true)
     d.dispatched 0 9 .wrap x ∧ d.keyLook 0 (Step.of x.step).b 98 = .ok ∧ d.keyLook 0 (Step.of x.step).a 97 = .ok ∧ d.slotPasses 97 = true ∧
     d.keyMay 98 useWrap .seq (d.worldOf 0 98) = true ∧ (d.slot 97).wrappable = true) ∧
    (let x := stepB 0x12 0x1001 0x1001 15 0
     let d := seen (pkeDev x 15 false)
     d.dispatched 0 9 .wrap x ∧ (d.slot 97).wrappable = false) ∧
    (let x := stepB 0x13 0x1002 0x1001 1 15
     let d := seen (pkeDev x 15 true)
     d.dispatched 0 9 .unwrap x ∧ d.keyMay 98 useWrap .seq (d.worldOf 0 98) = true) ∧
    (let x := stepB 0x15 0x1002 0 1 15
     let d := seen (pkeDev x 15 true)
     d.dispatched 0 9 .import x ∧ d.importPair 0 = 0 ∧
     (seen ((pkeDev x 15 true).onPart 0 fun p => { p with importPair := 3 })).importPair 0 ≠ 0) := by
  unfold Dev.dispatched
  and_intros <;> first | exact ⟨_, _, rfl, rfl, rfl⟩ | decide +kernel

/-- What RFC 3394 wraps 256 bits into with its 256-bit key, and what it wraps to. -/
def rfcKek : Key := 0x1F1E1D1C1B1A191817161514131211100F0E0D0C0B0A09080706050403020100
def rfcWrapped : Bytes := natBe 40 0x28C9F404C4B810F4CBCCB35CFB87F8263F5786E2D80ED326CBC7F0E71A99F43BFB988B9B7A02DD21


/-- A register of the unwrapping: A and the four semiblocks, last first. -/
def kwRegs (a : Nat) (r : List Nat) : Bytes × List Bytes := (natBe 8 a, r.map (natBe 8))
theorem rfc_pass1 : (fun x => kwUnstep (expand rfcKek) x.2 x.1 24) (kwRegs 0x28C9F404C4B810F4 [0xFB988B9B7A02DD21, 0xCBC7F0E71A99F43B, 0x3F5786E2D80ED326, 0xCBCCB35CFB87F826]) =
    kwRegs 0xD058823360F88A23 [0x7DFE775B9687E73, 0x1CFBF6B4C24CB982, 0xF7EDAD518C960D36, 0x1BB8C765A84195E7] := by decide +kernel
theorem rfc_pass2 : (fun x => kwUnstep (expand rfcKek) x.2 x.1 20) (kwRegs 0xD058823360F88A23 [0x7DFE775B9687E73, 0x1CFBF6B4C24CB982, 0xF7EDAD518C960D36, 0x1BB8C765A84195E7]) =
    kwRegs 0x5075496800978B5A [0x40F68C91DB49702C, 0xC272E9466AAE98F9, 0xBCA418BBF7DCE60B, 0x4745856AF333F01F] := by decide +kernel
theorem rfc_pass3 : (fun x => kwUnstep (expand rfcKek) x.2 x.1 16) (kwRegs 0x5075496800978B5A [0x40F68C91DB49702C, 0xC272E9466AAE98F9, 0xBCA418BBF7DCE60B, 0x4745856AF333F01F]) =
    kwRegs 0xF9ED8A1429515669 [0x3CF149E90E8C04D9, 0xF56701DAF0388216, 0xFBEC169FA5C0F6BA, 0xD6AE29ECE7192D43] := by decide +kernel
theorem rfc_pass4 : (fun x => kwUnstep (expand rfcKek) x.2 x.1 12) (kwRegs 0xF9ED8A1429515669 [0x3CF149E90E8C04D9, 0xF56701DAF0388216, 0xFBEC169FA5C0F6BA, 0xD6AE29ECE7192D43]) =
    kwRegs 0xC58B9D3AC6D5B946 [0x73E3B6CBE5D05D74, 0xC365B66943E2D760, 0xEFD48BA304945576, 0xE7D1194D853E53F8] := by decide +kernel
theorem rfc_pass5 : (fun x => kwUnstep (expand rfcKek) x.2 x.1 8) (kwRegs 0xC58B9D3AC6D5B946 [0x73E3B6CBE5D05D74, 0xC365B66943E2D760, 0xEFD48BA304945576, 0xE7D1194D853E53F8]) =
    kwRegs 0x564408FDD0DD2EA0 [0xE5923CB9FDB56FBC, 0x6CA405593A3B5154, 0xF60E0CDB7F429FE8, 0xF661BD9F31FBFA31] := by decide +kernel
theorem rfc_pass6 : (fun x => kwUnstep (expand rfcKek) x.2 x.1 4) (kwRegs 0x564408FDD0DD2EA0 [0xE5923CB9FDB56FBC, 0x6CA405593A3B5154, 0xF60E0CDB7F429FE8, 0xF661BD9F31FBFA31]) =
    kwRegs 0xA6A6A6A6A6A6A6A6 [0x8090A0B0C0D0E0F, 0x1020304050607, 0x8899AABBCCDDEEFF, 0x11223344556677] := by decide +kernel
/-- RFC 3394, 4.6: the wrapped key data unwrap to 00112233..0E0F. -/
theorem test_kw_rfc3394 : kwUnwrap rfcKek rfcWrapped = some (natBe 32 0x00112233445566778899AABBCCDDEEFF000102030405060708090A0B0C0D0E0F) := by
  have h : (chunks 8 rfcWrapped.length (rfcWrapped.drop 8)).reverse = (kwRegs 0x28C9F404C4B810F4 [0xFB988B9B7A02DD21, 0xCBC7F0E71A99F43B, 0x3F5786E2D80ED326, 0xCBCCB35CFB87F826]).2 := by decide +kernel
  have h8 : rfcWrapped.take 8 = (kwRegs 0x28C9F404C4B810F4 [0xFB988B9B7A02DD21, 0xCBC7F0E71A99F43B, 0x3F5786E2D80ED326, 0xCBCCB35CFB87F826]).1 := by decide +kernel
  have p1 := rfc_pass1
  have p2 := rfc_pass2
  have p3 := rfc_pass3
  have p4 := rfc_pass4
  have p5 := rfc_pass5
  have p6 := rfc_pass6
  dsimp only at p1 p2 p3 p4 p5 p6
  have hl : ∀ a x y z w, (kwRegs a [x, y, z, w]).2.length = 4 := fun _ _ _ _ _ => rfl
  simp only [kwUnwrap, h, h8, hl, kwUnpasses, Nat.reduceMul, Nat.reduceSub, p1, p2, p3, p4, p5, p6]
  decide +kernel

/-- The block of UNWRAP with bytes in the last transfer buffer. -/
def unwrapDev (w : Bytes) : Dev :=
  (pkeDev (stepB 0x13 0x1002 0x1001 1 15) 15 true).onTh 0 fun t => t.putXfer (256 * 15) w

theorem test_met_PublicKeyEngineStepsFillSlots_unwrap :
    ((unwrapDev rfcWrapped).slot 98).key = rfcKek ∧ ((unwrapDev rfcWrapped).th 0).xferBytes (256 * 15) 40 = rfcWrapped ∧
    (∃ k, kwUnwrap ((unwrapDev rfcWrapped).slot 98).key (((unwrapDev rfcWrapped).th 0).xferBytes (256 * 15) 40) = some k) := by
  have h1 : ((unwrapDev rfcWrapped).slot 98).key = rfcKek := by decide +kernel
  have h2 : ((unwrapDev rfcWrapped).th 0).xferBytes (256 * 15) 40 = rfcWrapped := by decide +kernel
  exact ⟨h1, h2, _, by rw [h1, h2]; exact test_kw_rfc3394⟩

/-- Any other 40 bytes whose KW check fails meet the other clause; the check fails on eight zero bytes, say. -/
theorem test_met_PublicKeyEngineStepsFillSlots_unwrap_fails : kwUnwrap rfcKek (List.replicate 8 0) = none ∧
    ((unwrapDev (List.replicate 40 0)).th 0).xferBytes (256 * 15) 40 = List.replicate 40 0 := by
  and_intros <;> decide +kernel


theorem test_met_PublicKeyEngineStepsFillSlots_import (key : Key)
    (h : decapsulate (some 0) 3 (wrapLabel 5 0) (List.replicate 1792 0) = some key) :
    let d := (pkeDev (stepB 0x15 0x1002 0 1 15) 15 true).onPart 0 fun p => { p with importPair := 3 }
    d.importPair 0 ≠ 0 ∧ decapsulate (some 0) (d.importPair 0) (wrapLabel d.hall.node.toNat 0) ((d.th 0).xferBytes (256 * 15) 1792) = some key := by
  refine ⟨by decide +kernel, ?_⟩
  have e : (((pkeDev (stepB 0x15 0x1002 0 1 15) 15 true).onPart 0 fun p => { p with importPair := 3 }).th 0).xferBytes (256 * 15) 1792 =
    List.replicate 1792 0 := by decide +kernel
  rw [show ((pkeDev (stepB 0x15 0x1002 0 1 15) 15 true).onPart 0 fun p => { p with importPair := 3 }).importPair 0 = 3 by decide +kernel]
  rw [e]; exact h

theorem test_met_KeysDrainRequestsServeAndSlotsRetire :
    (let d := seen (withFlight base 0 eraseFl)
     d.dispatched 0 9 .erase eraseFl ∧ d.keyDrained 97 = true) ∧
    (let d := seen (base.onTh 0 fun t => { t with flights := [{ fl .dispatched (rowWord 0x12 0x1001 0x1001 0 0) 97 with row := 8 }, eraseFl] })
     d.dispatched 0 9 .erase eraseFl ∧ d.keyDrained 97 = false) ∧
    (let d := seen (pkeDev genkeyFl 15 true)
     d.ready = true ∧ d.larder.pke = [{ thread := 0, row := some 9, since := 0 }]) ∧
    (let x := { fl .checked (rowWord 0x12 0x1001 0x1001 0 0) 97 with row := 9 }
     let d := seen { withFlight base 0 x with larder := { pke := [{ thread := 0, row := none, since := 0 }], pkeWait := [{ thread := 0, row := some 9, since := 0 }] } }
     d.larder.pkeWait.head?.map (·.row) = some (some 9) ∧ d.flight 0 9 = some x ∧ x.stage = .checked) ∧
    (let d := seen { base with larder := { drbg := { st := .ready, seeded := true, sinceReseed := 65536 } } }
     d.larder.drbg.st = .ready ∧ 65536 ≤ d.larder.drbg.sinceReseed) ∧
    (let d := seen { base with larder := { drbg := { st := .ready, seeded := true, sinceReseed := 65535 } } } 99999999
     d.larder.drbg.sinceReseed < 65536 ∧ d.time < d.larder.drbg.lastReseed + 100000000 ∧ d.larder.drbg.seeded = true ∧ d.larder.drbg.fails < 2 ∧
     d.larder.drbg.st ≠ .failed ∧ d.larder.drbg.st ≠ .healthHold ∧ d.larder.drbg.st ≠ .instantiating) ∧
    (let d := seen base 100000000
     d.larder.drbg.st = .ready ∧ d.larder.drbg.lastReseed + 100000000 ≤ d.time) ∧
    (let d := seen { base with larder := { drbg := { st := .healthHold, seeded := true, fails := 2 } } }
     d.larder.drbg.seeded = true ∧ d.larder.drbg.st = .healthHold ∧ d.larder.drbg.st ≠ .failed ∧ d.larder.drbg.fails = 2) ∧
    (∀ i ∈ [96, 2047], let d := seen { base with larder := { slots := [(i, keyOf 0 15 true)] } }
     96 ≤ i ∧ i < Kind.keySlots d.kind ∧ (d.slot i).retired = false ∧ (d.slot i).st = 1) := by
  unfold Dev.dispatched; and_intros <;> decide +kernel


/-! ## Hypotheses met: regions, jobs, pages -/

/-- A thread with region handle 1 live in slot 3, and the region mapped: 64 MiB at 0. -/
def regionDev (thread : Nat) (x : Flight) (r : Region) : Dev :=
  let d := (base.onPart 0 fun p => { p with quotas := [(0, 4096)] }).onTh thread fun t => { t with flights := [x], handles := [(hKey .region 1, { st := .live, slot := 3 })] }
  { d with regions := [(3, r)], larder := { d.larder with pool := Pool.ofRange 96 2048, slots := [(3, { key := 9, st := 3 })] } }
def reg3 : Region := { st := .live, thread := 0, index := 1, gen := 1, log2 := 26, keySlot := 97 }

theorem test_met_MapregMapsAndKeysARegion :
    (let x := fl .dispatched (rowWord 0x20 0x1001 0 26 0) 3
     (seen (regionDev 0 x {})).dispatched 0 9 .mapreg x ∧ (seen (regionDev 0 x {})).canDraw = true ∧
     (seen (regionDev 0 x {})).engineOff (mapBase (Step.of x.step)) (mapLog (Step.of x.step)) = false ∧ mapKind (Step.of x.step) = 0 ∧
     (seen { (regionDev 0 x {}) with power := { domains := [(8, { st := .turningOff })] } }).engineOff 0 26 = true) ∧
    (let x := fl .dispatched (rowWord 0x20 0x1001 0 (26 + 64) 0) 3
     let d := seen { (regionDev 8 x {}) with larder := { drbg := { st := .ready }, slots := [(3, { key := 9, st := 3 })], baseSeq := 2 ^ 32 - 1 } }
     d.dispatched 8 9 .mapreg x ∧ mapKind (Step.of x.step) = 1 ∧ d.resKey 3 = some 9 ∧ d.larder.baseSeq < 2 ^ 32 ∧
     d.engineOff (mapBase (Step.of x.step)) (mapLog (Step.of x.step)) = false) ∧
    (let x := fl .dispatched (rowWord 0x20 0x1001 0 (26 + 128) 0) 3
     (seen (regionDev 0 x {})).dispatched 0 9 .mapreg x ∧ mapKind (Step.of x.step) = 2) := by
  unfold Dev.dispatched; and_intros <;> decide +kernel

theorem test_met_RegionJobsSegmentsAndPagesStart_jobs :
    (let x := fl .dispatched (rowWord 0x21 0x1001 0 0 0) 3
     (seen (regionDev 0 x reg3)).dispatched 0 9 .unmapreg x ∧ (seen (regionDev 0 x reg3)).jobOn 3 = none) ∧
    (let x := fl .dispatched (rowWord 0x24 0x1001 0 0 5) 3
     let d := seen (regionDev 0 x reg3)
     d.dispatched 0 9 .rekey x ∧ d.rekeyRefusal 0 3 (Step.of x.step) = none ∧ d.freeJob = some 0 ∧ bitOf (Step.of x.step).c 1 = false ∧ (d.reg 3).kind = 0 ∧ d.canDraw = true ∧
     (seen (regionDev 0 x { reg3 with epoch := 0xFFFE })).rekeyRefusal 0 3 (Step.of x.step) = some Status.keyEpoch ∧
     (seen (regionDev 0 x { reg3 with epoch := 0xFFFD })).rekeyRefusal 0 3 (Step.of x.step) = none) ∧
    (let x := { fl .dispatched (rowWord 0x24 0x1001 0x1001 2 5) 3 with bSlot := some 97 }
     let d := seen (((regionDev 0 x reg3).setSlot 97 (keyOf 0 1 false)).onTh 0 fun t => { t with exportBase := 0x1000 })
     d.dispatched 0 9 .rekey x ∧ d.rekeyRefusal 0 3 (Step.of x.step) = none ∧ bitOf (Step.of x.step).c 1 = true ∧ d.exportKeyCheck 0 97 = none) ∧
    (let x := fl .dispatched (rowWord 0x25 0x1001 0 0 5) 1
     let d := seen ((withFlight base 8 x).onPart 1 fun p => { p with st := .frozen })
     d.dispatched 8 9 .sweep x ∧ d.sweepRefusal 8 1 = none ∧ d.freeJob = some 0 ∧ 8 ≠ 1 ∧
     (seen (withFlight base 8 x)).sweepRefusal 8 1 = some Status.denied) := by
  unfold Dev.dispatched; and_intros <;> decide +kernel

theorem test_met_RegionJobsSegmentsAndPagesStart_runs :
    (let x := fl .dispatched (rowWord 0x22 0x1001 0 0x8000 0) 3
     let d := seen (regionDev 0 x reg3)
     d.dispatched 0 9 .seal x ∧ sealLong (d.reg 3).log2 (Step.of x.step) = false ∧
     sealLong ((seen (regionDev 0 x { reg3 with log2 := 25 })).reg 3).log2 (Step.of x.step) = true ∧
     ¬ ((d.reg 3).kind = 2 ∨ (d.reg 3).kind = 1 ∧ (d.reg 3).share ≠ 0) ∧ (d.reg 3).loadLocked = false ∧
     ((seen (regionDev 0 x { reg3 with loadLocked := true })).reg 3).loadLocked = true) ∧
    (let x := fl .dispatched (rowWord 0x23 0x1001 0 0 0) 3
     let d := seen (regionDev 8 x { reg3 with thread := 8, kind := 1, share := 1, log2 := 27 })
     d.dispatched 8 9 .unseal x ∧ sealLong (d.reg 3).log2 (Step.of x.step) = false ∧ ((d.reg 3).kind = 1 ∧ (d.reg 3).share ≠ 0)) ∧
    (let x := fl .dispatched (rowWord 0x27 0x1001 0 0xFFFF (0xFFFF * 2 ^ 48 + 8191 * 8192)) 3
     let d := seen (regionDev 0 x reg3)
     d.dispatched 0 9 .pagein x ∧ d.pageRefusal 0 3 (Step.of x.step) true = none) ∧
    (let x := fl .dispatched (rowWord 0x26 0x1001 0 0 (8192 * 8192)) 3
     let d := seen (regionDev 0 x reg3)
     d.dispatched 0 9 .pageout x ∧ d.pageRefusal 0 3 (Step.of x.step) false = some Status.badField) := by
  unfold Dev.dispatched; and_intros <;> decide +kernel

/-! ## Hypotheses met: channels, remote fences, squares -/

/-- Partition 0 a member of a domain with its key in slot 8. -/
def member (d : Dev) : Dev :=
  { (d.onPart 0 fun p => { p with dom := { st := .member, id := 77, epoch := 1 } }) with
    larder := { d.larder with slots := tset d.larder.slots {} 8 { key := 11, st := 3 }, pool := Pool.ofRange 96 2048 } }

def chopen (c d : Nat) : Flight := fl .dispatched (rowWord 0x30 0x1001 0 c d) 4

theorem test_met_ChannelStepsOpenAdvanceAndClose :
    (let x := chopen 0 (6 + 2 ^ 32 * 9)
     let d := seen (member (withFlight base 0 x))
     d.dispatched 0 9 .chopen x ∧ d.hall.nodeValid = true ∧ (d.domKey 0).isSome = true ∧
     ¬ (fld (Step.of x.step).d 0 14 = d.hall.node.toNat ∨
       (d.findChan (bitOf (Step.of x.step).c 0) 0 (fld (Step.of x.step).d 0 14) (fld (Step.of x.step).d 16 5) (fld (Step.of x.step).d 32 32)).isSome = true ∨
       (bitOf (Step.of x.step).c 0 = false ∧ fld (Step.of x.step).d 32 32 < (d.part 0).txFloor)) ∧
     (seen (withFlight base 0 x)).domKey 0 = none) ∧
    (let x := chopen 1 (6 + 2 ^ 32 * 9)
     let d := seen (member (withFlight base 0 x))
     d.dispatched 0 9 .chopen x ∧ bitOf (Step.of x.step).c 0 = true ∧ d.canDraw = true) ∧
    (let x := chopen 0 5
     (seen (member (withFlight base 0 x))).dispatched 0 9 .chopen x ∧ fld (Step.of x.step).d 0 14 = (seen base).hall.node.toNat) ∧
    (∀ e ∈ [0, 0xFFFD, 0xFFFE], let x := fl .dispatched (rowWord 0x32 0x1001 0 0 0) 4
     let d := seen { (withFlight base 0 x) with chans := [(4, { st := .open_, epoch := e })] }
     d.dispatched 0 9 .chepoch x ∧ (d.ch 4).rx = false ∧ (d.ch 4).st ≠ .down ∧ ((d.ch 4).epoch < 0xFFFE ∨ 0xFFFE ≤ (d.ch 4).epoch)) ∧
    (∀ c ∈ [({ st := .open_, rx := true } : Chan), { st := .down }], let x := fl .dispatched (rowWord 0x32 0x1001 0 0 0) 4
     let d := seen { (withFlight base 0 x) with chans := [(4, c)] }
     d.dispatched 0 9 .chepoch x ∧ ((d.ch 4).rx = true ∨ (d.ch 4).st = .down)) ∧
    (∀ c ∈ [({ st := .open_ } : Chan), { st := .down }], let x := fl .dispatched (rowWord 0x31 0x1001 0 0 0) 4
     let d := seen { (withFlight base 0 x) with chans := [(4, c)] }
     d.dispatched 0 9 .chclose x ∧ ((d.ch 4).st = .open_ ∧ (d.ch 4).rx = false ∨ (d.ch 4).st = .down)) := by
  unfold Dev.dispatched; and_intros <;> decide +kernel

def rfenceFl (s : Stage) : Flight := fl s (rowWord 0x05 0 0 0 7)

theorem test_met_RemoteFencesWaitForTheirMarkers :
    (let d := seen (withFlight base 0 (rfenceFl .dispatched))
     d.dispatched 0 9 .rfence (rfenceFl .dispatched) ∧ d.txSlots 0 = [] ∧ (rfenceFl .dispatched).timedOut = 0) ∧
    (let d := seen { (withFlight base 0 (rfenceFl .dispatched)) with chans := [(4, { st := .open_ }), (5, { st := .closing, next := 2 ^ 62 - 2 })] }
     d.dispatched 0 9 .rfence (rfenceFl .dispatched) ∧ d.txSlots 0 ≠ [] ∧ (d.txSlots 0).Nodup ∧
     (∀ k, k ∈ d.txSlots 0 → (d.ch k).rx = false ∧ (d.ch k).marker = none ∧ (d.ch k).next + 1 < 2 ^ 62 ∧
        (d.ch k).epoch + 2 * (d.ch k).held.length + 4 ≤ 0xFFFE)) ∧
    (let d := seen (withFlight base 0 (rfenceFl .running))
     d.ready = true ∧ 0 ≤ d.mgr ∧ d.flight 0 9 = some (rfenceFl .running) ∧ (rfenceFl .running).stage = .running ∧
     (Step.of (rfenceFl .running).step).op = some .rfence ∧
     (∀ e ∈ d.chans, ∀ k, e.2.marker = some k → ¬ (k.thread = 0 ∧ k.row = 9))) ∧
    (∃ e ∈ [(4, ({ marker := some { m := 0, since := 0, firstSent := 0, lastSent := 0, thread := 0, row := 9 } } : Chan))],
      ∃ k, e.2.marker = some k ∧ k.thread = 0 ∧ k.row = 9) := by
  unfold Dev.dispatched
  and_intros <;> decide +kernel

/-- SUMSET of index 1 of a ring of 3 on the square in slot 2. -/
def sumsetFl (c d : Nat) : Flight := fl .dispatched (rowWord 0x35 0x1001 0 c d) 2
def ringCtx (i : Nat) : SumCtx := { sumId := 1, ringId := i, index := 1, n := 3, st := .open_, row := 0 }
def square2 (x : Flight) (q : Square) : Dev := { (member (withFlight base 0 x)) with squares := [(2, q)] }
def live2 : Square := { st := .live, id := 40, thread := 0, key := 12 }

theorem test_met_SquaresAreJoinedLeftAndGivenContexts :
    (let x := fl .dispatched (rowWord 0x33 0x1001 0 0 41) 1
     (seen (withFlight base 0 x)).dispatched 0 9 .sqjoin x ∧ (seen (withFlight base 0 x)).domKey 0 = none ∧
     (seen (square2 x live2)).dispatched 0 9 .sqjoin x ∧ (seen (square2 x live2)).domKey 0 = some 11 ∧
     (seen (square2 x live2)).findSquare 0 41 = none ∧ (seen (square2 x live2)).findSquare 0 40 = some (2, live2) ∧
     (seen (square2 x { live2 with st := .gone })).findSquare 0 40 = some (2, { live2 with st := .gone })) ∧
    (let x := sumsetFl 1 (5 + 2 ^ 48 * 2)
     let d := seen (square2 x live2)
     d.dispatched 0 9 .sumset x ∧ (d.sq 2).st ≠ .gone ∧ d.sumsetBad 0 (Step.of x.step) = false ∧ (d.sq 2).ctxs.length < 16 ∧
     (seen (square2 x { live2 with ctxs := (List.range 15).map ringCtx })).sumsetBad 0 (Step.of x.step) = false ∧
     ((seen (square2 x { live2 with ctxs := (List.range 15).map ringCtx })).sq 2).ctxs.length < 16 ∧
     16 ≤ ((seen (square2 x { live2 with ctxs := (List.range 16).map ringCtx })).sq 2).ctxs.length) ∧
    (let x := sumsetFl 3 (5 + 2 ^ 48 * 2)
     (seen (square2 x live2)).sumsetBad 0 (Step.of x.step) = true) ∧
    (let x := fl .dispatched (rowWord 0x34 0x1001 0 0 0) 2
     (seen (square2 x live2)).dispatched 0 9 .sqleave x ∧ ((seen (square2 x live2)).sq 2).st ≠ .gone ∧
     ((seen (square2 x { live2 with st := .gone })).sq 2).st = .gone) := by
  unfold Dev.dispatched; and_intros <;> decide +kernel


/-! ## Hypotheses met: measurements, partitions, domains, Vault steps -/

/-- A step at the head of the public-key engine's queue. -/
def served (n : Nat) (x : Flight) : Dev :=
  let d := withFlight base n x
  { d with larder := { d.larder with pke := [{ thread := n, row := some 9, since := 0 }] } }

theorem test_met_MeasureAttestSnapAndTrace :
    ((seen (served 0 (fl .dispatched (rowWord 0x41 0 0 3 0)))).pkeServes 0 9 ∧ (seen (served 8 (fl .dispatched (rowWord 0x41 0 0 15 0)))).pkeServes 8 9) ∧
    (seen (served 0 (fl .dispatched (rowWord 0x41 0 0 3 0)))).dispatched 0 9 .measure (fl .dispatched (rowWord 0x41 0 0 3 0)) ∧
    (seen (served 8 (fl .dispatched (rowWord 0x41 0 0 15 0)))).dispatched 8 9 .measure (fl .dispatched (rowWord 0x41 0 0 15 0)) ∧
    (seen (served 0 (fl .dispatched (rowWord 0x40 0 0 15 0x10000)))).dispatched 0 9 .attest (fl .dispatched (rowWord 0x40 0 0 15 0x10000)) ∧
    (seen (served 8 (fl .dispatched (rowWord 0x40 0 0 0 0x10000)))).dispatched 8 9 .attest (fl .dispatched (rowWord 0x40 0 0 0 0x10000)) ∧
    (let x := fl .dispatched (rowWord 0x70 0 0 0 0)
     (seen (withFlight base 0 x)).dispatched 0 9 .snap x ∧ ((seen (withFlight base 0 x)).th 0).snapWait = none ∧
     ((seen (base.onTh 0 fun t => { t with flights := [x], snapWait := some 8 })).th 0).snapWait.isSome = true) ∧
    (let x := fl .running (rowWord 0x70 0 0 0 0)
     let d := seen (base.onTh 0 fun t => { t with flights := [x], snapWait := some 9 })
     d.ready = true ∧ (d.th 0).snapWait = some 9 ∧ d.flight 0 9 = some x ∧ (Step.of x.step).order = false) ∧
    (let x := fl .running (rowWord 0x70 0 0 0 0 ||| oneBit 128 117)
     let d := seen (base.onTh 8 fun t => { t with flights := [{ fl .running 0 with row := 8 }, x], snapWait := some 9 })
     (d.th 8).snapWait = some 9 ∧ d.flight 8 9 = some x ∧ (Step.of x.step).order = true ∧ (∀ y ∈ (d.th 8).flights.head?, y.row ≠ 9) ∧ d.count.snaps = 0 ∧
     ((seen (base.onTh 8 fun t => { t with flights := [x], snapWait := some 9 })).th 8).flights.head? = some x) ∧
    (let x := fl .dispatched (rowWord 0x71 0 0 0 6)
     let d := seen (withFlight base 8 x)
     d.dispatched 8 9 .trace x ∧ d.attic.ctrl.getLsbD 0 = true ∧ d.attic.ctrl.getLsbD 1 = false ∧ d.powered 3 = true ∧ d.attic.queue.length < 64 ∧
     ({ ctrl := 0 } : Attic).ctrl.getLsbD 0 = false) := by
  unfold Dev.pkeServes Dev.dispatched
  and_intros <;> first | exact ⟨_, _, rfl, rfl, rfl⟩ | decide +kernel

/-- A manager's step on partition 1. -/
def onPart1 (op c d : Nat) (p : Part) : Dev :=
  (withFlight base 8 (fl .dispatched (rowWord op 0x1001 0 c d) 1)).onPart 1 fun _ => p
def partFl (op c d : Nat) : Flight := fl .dispatched (rowWord op 0x1001 0 c d) 1

theorem test_met_PartitionStepsFreezeLimitSaveAndRestore_limits :
    (∀ s ∈ [PState.bound, .frozen, .resetting], (seen (onPart1 0x50 0 0 { st := s })).dispatched 8 9 .freeze (partFl 0x50 0 0)) ∧
    (∀ s ∈ [PState.bound, .frozen, .enabled], (seen (onPart1 0x53 0 0 { st := s })).dispatched 8 9 .thaw (partFl 0x53 0 0)) ∧
    (seen (onPart1 0x54 3 4096 { st := .bound })).dispatched 8 9 .quota (partFl 0x54 3 4096) ∧
    (seen (onPart1 0x54 3 4096 { st := .bound })).quotaBad 1 3 4096 = false ∧ (seen (onPart1 0x54 3 4097 { st := .bound })).quotaBad 1 3 4097 = true ∧
    (seen (onPart1 0x54 7 0 { st := .bound })).quotaBad 1 7 0 = true ∧ (seen (onPart1 0x54 6 100 { st := .bound })).quotaBad 1 6 100 = false := by
  unfold Dev.dispatched; and_intros <;> decide +kernel

/-- SAVE and RESTORE of partition 1 with key b in slot 98. -/
def migrFl (op d : Nat) : Flight := { fl .dispatched (rowWord op 0x1001 0x1001 0 d) 1 with bSlot := some 98 }
def migrDev (op d usage : Nat) (spent : Bool) (p : Part) : Dev :=
  ((withFlight base 8 (migrFl op d)).onPart 1 fun _ => p).setSlot 98 (keyOf 1 usage false spent)
/-- Consent for key b (R388). -/
def consent : Word := 2 ^ 63 + 0x1001

theorem test_met_PartitionStepsFreezeLimitSaveAndRestore_save :
    (let d := seen (migrDev 0x51 64 3 false { st := .frozen, migrate := consent, restoreCount := 0xFFFD })
     d.dispatched 8 9 .save (migrFl 0x51 64) ∧ (migrFl 0x51 64).ruling = none ∧ d.keyLook 1 (Step.of (migrFl 0x51 64).step).b 98 = .ok ∧ d.slotPasses 98 = true ∧
     d.keyMay 98 useEncrypt .seq (d.worldOf 8 98) = true ∧ (d.slot 98).spent = false ∧ d.saveRefusal 1 (Step.of (migrFl 0x51 64).step) = none) ∧
    (seen (migrDev 0x51 64 3 false { st := .frozen, restoreCount := 0xFFFE })).saveRefusal 1 (Step.of (migrFl 0x51 64).step) = some Status.badField ∧
    (seen (migrDev 0x51 32 3 false { st := .frozen })).saveRefusal 1 (Step.of (migrFl 0x51 32).step) = some Status.badField ∧
    ((seen (migrDev 0x51 64 3 false { st := .bound })).part 1).st ≠ .frozen ∧
    (let d := seen (migrDev 0x51 64 3 false { st := .frozen })
     (Step.of (migrFl 0x51 64).step).d % 64 = 0 ∧ d.hall.nodeValid = true ∧ (d.part 1).restoreCount < 0xFFFE ∧ (d.part 1).migrate.getLsbD 63 = false) ∧
    (let d := seen (migrDev 0x51 64 3 true { st := .frozen })
     d.dispatched 8 9 .save (migrFl 0x51 64) ∧ d.keyLook 1 (Step.of (migrFl 0x51 64).step).b 98 = .ok ∧ d.slotPasses 98 = true ∧ (d.slot 98).spent = true) ∧
    (let d := seen (migrDev 0x52 64 3 false { st := .frozen, migrate := consent })
     d.dispatched 8 9 .restore (migrFl 0x52 64) ∧ d.keyLook 1 (Step.of (migrFl 0x52 64).step).b 98 = .ok ∧
     d.keyMay 98 useDecrypt .seq (d.worldOf 8 98) = true ∧ d.restoreBad 1 98 (Step.of (migrFl 0x52 64).step) = false ∧
     consents 0 (Step.of (migrFl 0x52 64).step).b = false) ∧
    (let x := { migrFl 0x52 64 with consent := consent }
     let d := seen (((withFlight base 8 x).onPart 1 fun _ => { st := .frozen }).setSlot 98 (keyOf 1 3 false))
     d.dispatched 8 9 .restore x ∧ d.restoreBad 1 98 (Step.of x.step) = false ∧ consents x.consent (Step.of x.step).b = true) ∧
    (let x := { migrFl 0x51 64 with ruling := some Status.denied }
     let d := seen (((withFlight base 8 x).onPart 1 fun _ => { st := .frozen }).setSlot 98 (keyOf 1 3 false))
     d.dispatched 8 9 .save x ∧ x.ruling = some Status.denied ∧ (d.slot 98).spent = false) ∧
    (seen (migrDev 0x52 64 3 false { st := .frozen, saved := true })).restoreBad 1 98 (Step.of (migrFl 0x52 64).step) = true := by
  unfold Dev.dispatched; and_intros <;> decide +kernel

/-- A ticket in the transfer buffer: a verifier that is not zero and the id of a domain, zeros behind. -/
def ticket (dom : Byte) : Tbl Byte := [(0, 1), (48, dom)]
def joinDev (x : Flight) (t : Tbl Byte) : Dev := (withFlight base 0 x).onTh 0 fun h => { h with xfer := t }

theorem test_met_DomainStepsJoinLeaveAndLead :
    (let x := fl .dispatched (rowWord 0x42 0 0 0 (2 ^ 24))
     (seen (member (withFlight base 0 x))).dispatched 0 9 .domjoin x ∧ bitOf (Step.of x.step).d 24 = true ∧ ((seen (member (withFlight base 0 x))).dom 0).st ≠ .none) ∧
    (let x := fl .dispatched (rowWord 0x42 0 0 0 6)
     let d := seen (joinDev x (ticket 77))
     let t := (d.th 0).xferBytes 0 1024
     d.dispatched 0 9 .domjoin x ∧ bitOf (Step.of x.step).d 24 = false ∧ d.canDraw = true ∧
     ¬ (zeroAt t 0 48 = true ∨ zeroAt t 792 232 = false ∨ ticketDomain t = 0 ∨ (d.dom 0).joinRow.isSome = true ∨
       ((d.dom 0).st = .member ∧ ticketDomain t ≠ (d.dom 0).id.toNat))) ∧
    (let x := fl .dispatched (rowWord 0x42 0 0 0 6)
     let d := seen (member (joinDev x (ticket 76)))
     d.dispatched 0 9 .domjoin x ∧ (d.dom 0).st = .member ∧ ticketDomain ((d.th 0).xferBytes 0 1024) ≠ (d.dom 0).id.toNat ∧
     zeroAt ((seen (withFlight base 0 x)).th 0 |>.xferBytes 0 1024) 0 48 = true) ∧
    (let x := fl .dispatched (rowWord 0x43 0 0 0 0x1000)
     (seen (joinDev x (ticket 77))).dispatched 0 9 .domlead x) := by
  unfold Dev.dispatched; and_intros <;> decide +kernel

/-- A manifest of one entry whose image is empty. -/
def manifest1 : Bytes := List.replicate 6 0 ++ natLe 2 1 ++ List.replicate 64 0
def vaultDev (x : Flight) (v : Vault) : Dev := { (regionDev 8 x { reg3 with thread := 8, kind := 1 }) with vault := v }
def vopenFl : Flight := fl .dispatched (rowWord 0x60 0 0 0 0)
def vloadFl (d : Nat) : Flight := fl .dispatched (rowWord 0x61 0x1001 0 0 d) 3
def vcloseFl : Flight := fl .dispatched (rowWord 0x62 0 0 0 0)
/-- An exchange under way: no step of the Vault island has its turn. -/
def exchanging : Vault := { st := .open_, await := .ident, req := { row := some (8, 4) } }

theorem test_met_VaultStepsOpenLoadAndClose_open :
    (let d := seen (vaultDev vopenFl {})
     d.dispatched 8 9 .vopen vopenFl ∧ d.vault.stepTurn vopenFl = true ∧ d.powered 4 = true ∧ d.vault.sealOpen = false ∧ d.vault.sealEvent = false ∧
     d.vault.st = .closed ∧ d.vault.progBusy = false ∧ d.canDraw = true) ∧
    (seen (vaultDev vopenFl { st := .open_ })).vaultRefusal false = some Status.denied ∧
    (seen (vaultDev vopenFl { sealOpen := true })).vault.sealOpen = true ∧ (seen (vaultDev vopenFl { sealEvent := true })).vault.sealEvent = true ∧
    (seen { (vaultDev vopenFl {}) with power := { domains := [(4, { st := .off })] } }).powered 4 = false ∧
    (seen (vaultDev vopenFl { progBusy := true })).vault.progBusy = true ∧
    ((seen (vaultDev vopenFl exchanging)).vault.stepTurn vopenFl = false ∧ (seen (vaultDev vopenFl exchanging)).dispatched 8 9 .vopen vopenFl) := by
  unfold Dev.dispatched; and_intros <;> decide +kernel

theorem test_met_VaultStepsOpenLoadAndClose_load :
    (let d := seen (vaultDev (vloadFl 5) { st := .open_, manifest := manifest1 })
     let st := Step.of (vloadFl 5).step
     d.dispatched 8 9 .vload (vloadFl 5) ∧ d.vault.stepTurn (vloadFl 5) = true ∧ d.powered 4 = true ∧ d.vault.st = .open_ ∧
     st.c < leAt d.vault.manifest 6 2 ∧ entryLength (entryOf d.vault.manifest st.c) ≤ 2 ^ (d.reg 3).log2 ∧ (d.reg 3).kind = 1 ∧
     (bitOf st.d 32 = false ∧ (d.reg 3).share = 0) ∧ d.vault.loads = [] ∧ (d.th 8).jobs < 8) ∧
    (let d := seen { (vaultDev (vloadFl (5 + 2 ^ 32)) { st := .loading, manifest := manifest1 }) with
       regions := [(3, { reg3 with thread := 8, kind := 1, share := 2 })], parts := [(1, { st := .frozen })] }
     bitOf (Step.of (vloadFl (5 + 2 ^ 32)).step).d 32 = true ∧ (d.reg 3).share ≠ 0 ∧
     ((List.range d.nparts).all fun k => !(d.reg 3).share.getLsbD k || (d.part k).st = .frozen) = true ∧ d.vault.st = .loading) ∧
    (seen (vaultDev (vloadFl 5) { st := .open_ })).vloadRefusal 8 3 (Step.of (vloadFl 5).step) = some Status.badField ∧
    ((seen (vaultDev (vloadFl 5) {})).vault.st ≠ .open_ ∧ (seen (vaultDev (vloadFl 5) {})).vault.st ≠ .loading) ∧
    ((seen (vaultDev (vloadFl 5) exchanging)).vault.stepTurn (vloadFl 5) = false ∧ (seen (vaultDev (vloadFl 5) exchanging)).dispatched 8 9 .vload (vloadFl 5)) := by
  unfold Dev.dispatched; and_intros <;> decide +kernel

theorem test_met_VaultStepsOpenLoadAndClose_close :
    (let d := seen (vaultDev vcloseFl { st := .open_ })
     d.dispatched 8 9 .vclose vcloseFl ∧ d.vault.stepTurn vcloseFl = true ∧ d.vault.loads = [] ∧ d.vault.st = .open_) ∧
    (seen (vaultDev vcloseFl {})).vault.st ≠ .open_ ∧
    (seen (vaultDev vcloseFl { loads := [{ thread := 8, row := 9, region := 3, handle := 0, entry := 0, cookie := 0, replace := false }] })).vault.loads ≠ [] ∧
    ((seen (vaultDev vcloseFl exchanging)).vault.stepTurn vcloseFl = false ∧ (seen (vaultDev vcloseFl exchanging)).dispatched 8 9 .vclose vcloseFl) := by
  unfold Dev.dispatched; and_intros <;> decide +kernel


/-! ## Hypotheses met: management -/

/-- A management message with sequence 9 (R120): its code, its body. -/
def mgmtMsg (code : Byte) (body : Bytes) : Bytes :=
  0x7F :: (natBe 4 Config.iana.toNat ++ ([code, 0, 0] ++ natLe 4 9 ++ natLe 4 body.length ++ List.replicate 32 0 ++ body))

/-- The message taken apart. -/
def parsed (b : Bytes) : MgmtMsg :=
  let n := leAt b 12 4
  { code := leAt b 5 1, seq := leAt b 8 4, body := slice b 48 n, covered := slice b 5 (43 + n), p384 := slice b (48 + n) 96,
    mldsa := slice b (144 + n) 4627, reserved := !(zeroAt b 6 2 && zeroAt b 16 32) }

theorem iana_read (t : Bytes) : beNat (slice (0x7F :: (natBe 4 Config.iana.toNat ++ t)) 1 4) = Config.iana.toNat := by
  have h : ∀ v : BitVec 32, beNat (natBe 4 v.toNat) = v.toNat := by
    intro v
    have := v.isLt
    simp [natBe, natLe, beNat, leNat, BitVec.toNat_ofNat]
    omega
  have e : slice (0x7F :: (natBe 4 Config.iana.toNat ++ t)) 1 4 = natBe 4 Config.iana.toNat := by
    simp [slice, natBe, natLe]
  rw [e, h]

theorem of_framed {w : Bytes} (h2 : beNat (slice w 1 4) = Config.iana.toNat) (h0 : ¬ w.length < 48 + leAt w 12 4)
    (h1 : leAt w 0 1 = 0x7F) : MgmtMsg.of w = some (parsed w) := by
  unfold MgmtMsg.of parsed
  simp [h0, h1, h2]

theorem of_parsed (code : Byte) (body : Bytes) (h0 : ¬ (mgmtMsg code body).length < 48 + leAt (mgmtMsg code body) 12 4)
    (h1 : leAt (mgmtMsg code body) 0 1 = 0x7F) : MgmtMsg.of (mgmtMsg code body) = some (parsed (mgmtMsg code body)) :=
  of_framed (iana_read _) h0 h1

theorem met_takes {d : Dev} {sess : Option Nat} {c : Byte} {body : Bytes} {o s p : Bool}
    (h0 : ¬ (mgmtMsg c body).length < 48 + leAt (mgmtMsg c body) 12 4) (h1 : leAt (mgmtMsg c body) 0 1 = 0x7F)
    (hr : (d.mgmtUp && (!d.limited || decide (c.toNat ≤ 1)) && decide ((parsed (mgmtMsg c body)).code = c.toNat) &&
      !(parsed (mgmtMsg c body)).reserved && (sess.isSome || o) && (sess.isNone || d.mgmtSession sess) && (!p || d.tokenLive) && d.canDraw) = true)
    (hs : s = true → d.signedOk (parsed (mgmtMsg c body)) = true) :
    d.mgmtTakes sess (mgmtMsg c body) c.toNat o s p (parsed (mgmtMsg c body)) := by
  simp only [Bool.and_eq_true, Bool.or_eq_true, Bool.not_eq_true', decide_eq_true_eq] at hr
  obtain ⟨⟨⟨⟨⟨⟨⟨a1, a2⟩, a3⟩, a4⟩, a5⟩, a6⟩, a7⟩, a8⟩ := hr
  refine ⟨of_parsed c body h0 h1, a1, fun h => ?_, a3, a4, fun h => ?_, fun h => ?_, hs, fun h => ?_, a8⟩
  · rcases a2 with a | a
    · rw [h] at a; cases a
    · exact a
  · subst h; simpa using a5
  · cases sess with
    | none => exact absurd rfl h
    | some i => simpa using a6
  · subst h; simpa using a7

/-- A management port with a secured session, a live token and a life-cycle word. -/
def mgmtDev (lc : BitVec 9) (status : BitVec 4 := 1) (creds : Nat := 1) : Dev :=
  { base with reset := { status := status }, fuses := { lc := lc, creds := [(0, 5)], credCount := creds },
              host := { sessions := [{ port := .management, id := 1, th1 := [], established := true }] },
              mgmt := { lcWord := lc, armed := some 0, cred := some [], nonce := some 3 } }

/-- Selector 0 and the greatest index, selector 1 and the greatest, a selector that is not defined. -/
theorem test_met_ManagementCommandsAreAnswered (hs : (seen (mgmtDev 3)).signedOk (parsed (mgmtMsg 0x31 [])) = true)
    (hb : (seen (mgmtDev 3 3)).signedOk (parsed (mgmtMsg 0x09 [])) = true) :
    (seen (mgmtDev 3)).mgmtTakes none (mgmtMsg 0x00 []) 0x00 true false false (parsed (mgmtMsg 0x00 [])) ∧
    (seen (mgmtDev 3)).mgmtTakes (some 1) (mgmtMsg 0x01 []) 0x01 true false false (parsed (mgmtMsg 0x01 [])) ∧
    (∀ b ∈ [[0, 0, 0, 0, 255, 0, 0, 0], [1, 0, 0, 0, 255, 1, 0, 0], [2, 0, 0, 0, 0, 0, 0, 0]],
      (parsed (mgmtMsg 0x30 b)).body.length = 8 ∧ zeroAt (parsed (mgmtMsg 0x30 b)).body 1 3 = true ∧ (parsed (mgmtMsg 0x30 b)).body = b) ∧
    (seen (mgmtDev 3)).mgmtTakes (some 1) (mgmtMsg 0x30 [0, 0, 0, 0, 255, 0, 0, 0]) 0x30 false true false (parsed (mgmtMsg 0x30 [0, 0, 0, 0, 255, 0, 0, 0]))
      = ((seen (mgmtDev 3)).signedOk (parsed (mgmtMsg 0x30 [0, 0, 0, 0, 255, 0, 0, 0])) = true) ∧
    ((seen (mgmtDev 3)).cellar.dumpValid = false) ∧
    ((seen (mgmtDev 3)).mgmtUp = true ∧ mgmtCodes.contains (parsed (mgmtMsg 0x77 [])).code = false ∧
      MgmtMsg.of (mgmtMsg 0x77 []) = some (parsed (mgmtMsg 0x77 []))) ∧
    (seen (mgmtDev 3)).mgmtTakes (some 1) (mgmtMsg 0x31 []) 0x31 false true false (parsed (mgmtMsg 0x31 [])) ∧
    (seen (mgmtDev 3 3)).mgmtTakes (some 1) (mgmtMsg 0x09 []) 0x09 false true true (parsed (mgmtMsg 0x09 [])) ∧
    (seen (mgmtDev 3 3)).reset.status = 3 ∧ ((0x04 : Byte) ≠ 0x05 ∧ (0x04 : Byte) ≠ 0x06 ∧ (0x04 : Byte) ≠ 0x7F) := by
  have tk : ∀ b, b = [0, 0, 0, 0, 255, 0, 0, 0] → ((seen (mgmtDev 3)).mgmtTakes (some 1) (mgmtMsg 0x30 b) 0x30 false true false (parsed (mgmtMsg 0x30 b))
      = ((seen (mgmtDev 3)).signedOk (parsed (mgmtMsg 0x30 b)) = true)) := by
    intro b hb; subst hb
    exact propext ⟨fun h => h.2.2.2.2.2.2.2.1 rfl, fun h => met_takes (c := 0x30) (by decide +kernel) (by decide +kernel) (by decide +kernel) fun _ => h⟩
  refine ⟨met_takes (c := 0x00) (by decide +kernel) (by decide +kernel) (by decide +kernel) nofun,
    met_takes (c := 0x01) (by decide +kernel) (by decide +kernel) (by decide +kernel) nofun, by decide +kernel, tk _ rfl, by decide +kernel,
    ⟨by decide +kernel, by decide +kernel, of_parsed _ _ (by decide +kernel) (by decide +kernel)⟩,
    met_takes (c := 0x31) (by decide +kernel) (by decide +kernel) (by decide +kernel) fun _ => hs,
    met_takes (c := 0x09) (by decide +kernel) (by decide +kernel) (by decide +kernel) fun _ => hb, by decide +kernel, by decide +kernel⟩

/-- GET_NONCE with a nonzero reserved byte. -/
def reservedMsg : Bytes := 0x7F :: (natBe 4 Config.iana.toNat ++ ([0x00, 0, 1] ++ natLe 4 9 ++ natLe 4 0 ++ List.replicate 32 0))

theorem test_met_ManagementCommandsAreAnswered_reserved : MgmtMsg.of reservedMsg = some (parsed reservedMsg) ∧ (seen (mgmtDev 3)).mgmtUp = true ∧
    (parsed reservedMsg).code = 0 ∧ (parsed reservedMsg).reserved = true ∧ (seen (mgmtDev 3)).canDraw = true :=
  ⟨of_framed (iana_read _) (by decide +kernel) (by decide +kernel), by decide +kernel⟩

/-- The credential a slot of the bank holds is the one presented (2,689 bytes of zeros), or it is not. -/
theorem test_met_ManagementCommandsAreAnswered_present :
    (seen (mgmtDev 3)).mgmtTakes none (mgmtMsg 0x02 (List.replicate 2689 0)) 0x02 true false false (parsed (mgmtMsg 0x02 (List.replicate 2689 0))) ∧
    (parsed (mgmtMsg 0x02 (List.replicate 2689 0))).body.length = 2689 ∧
    ((seen (mgmtDev 3 1 0)).fuses.credCount = 0) ∧
    (let d := seen { (mgmtDev 3) with fuses := { creds := [(0, credDigest (parsed (mgmtMsg 0x02 (List.replicate 2689 0))).body)], credCount := 1 } }
     d.fuses.credCount ≠ 0 ∧ credDigest (parsed (mgmtMsg 0x02 (List.replicate 2689 0))).body = tget d.fuses.creds 0 (d.fuses.credCount - 1)) :=
  ⟨met_takes (c := 0x02) (by decide +kernel) (by decide +kernel) (by decide +kernel) nofun, by decide +kernel, by decide +kernel, by decide +kernel, rfl⟩

theorem test_met_TransitionsResetPartitionsAndBlowFuses
    (hs : ∀ lc ∈ [3#9, 7#9, 0x1F#9, 0x7F#9, 0#9, 1#9], ∀ c ∈ [0x04#8, 0x05#8, 0x06#8, 0x07#8], (seen (mgmtDev lc)).signedOk (parsed (mgmtMsg c [])) = true) :
    ((seen (mgmtDev 0)).mgmtTakes (some 1) (mgmtMsg 0x03 (List.replicate 2689 0)) 0x03 true false true (parsed (mgmtMsg 0x03 (List.replicate 2689 0))) ∧
      (seen (mgmtDev 0)).mayMove 0x03 = true ∧ (parsed (mgmtMsg 0x03 (List.replicate 2689 0))).body.length = 2689) ∧
    ((seen (mgmtDev 1)).mgmtTakes (some 1) (mgmtMsg 0x04 []) 0x04 false true true (parsed (mgmtMsg 0x04 [])) ∧ (seen (mgmtDev 1)).mayMove 0x04 = true) ∧
    ((seen (mgmtDev 3)).mgmtTakes (some 1) (mgmtMsg 0x05 []) 0x05 false true true (parsed (mgmtMsg 0x05 [])) ∧ (seen (mgmtDev 3)).mayMove 0x05 = true) ∧
    ((seen (mgmtDev 0x7F)).mgmtTakes (some 1) (mgmtMsg 0x06 []) 0x06 false true true (parsed (mgmtMsg 0x06 [])) ∧ (seen (mgmtDev 0x7F)).mayMove 0x06 = true) ∧
    ((seen (mgmtDev 0)).mgmtTakes (some 1) (mgmtMsg 0x07 []) 0x07 (decide ((seen (mgmtDev 0)).lc = .manufacture)) false true (parsed (mgmtMsg 0x07 [])) ∧
      (seen (mgmtDev 0)).mayMove 0x07 = true) ∧
    ((seen (mgmtDev 0xFF)).mgmtTakes (some 1) (mgmtMsg 0x05 []) 0x05 false false false (parsed (mgmtMsg 0x05 [])) ∧ (seen (mgmtDev 0xFF)).mayMove 0x05 = false) ∧
    ((seen (mgmtDev 3) 600000000000).tokenLive = false ∧ (seen (mgmtDev 3) 599999999999).tokenLive = true) := by
  refine ⟨⟨met_takes (c := 0x03) (by decide +kernel) (by decide +kernel) (by decide +kernel) nofun, by decide +kernel, by decide +kernel⟩,
    ⟨met_takes (c := 0x04) (by decide +kernel) (by decide +kernel) (by decide +kernel) fun _ => hs 1 (by decide) 4 (by decide), by decide +kernel⟩,
    ⟨met_takes (c := 0x05) (by decide +kernel) (by decide +kernel) (by decide +kernel) fun _ => hs 3 (by decide) 5 (by decide), by decide +kernel⟩,
    ⟨met_takes (c := 0x06) (by decide +kernel) (by decide +kernel) (by decide +kernel) fun _ => hs 0x7F (by decide) 6 (by decide), by decide +kernel⟩,
    ⟨met_takes (c := 0x07) (by decide +kernel) (by decide +kernel) (by decide +kernel) nofun, by decide +kernel⟩,
    ⟨met_takes (c := 0x05) (by decide +kernel) (by decide +kernel) (by decide +kernel) nofun, by decide +kernel⟩, by decide +kernel⟩

/-- A transition that only lacks its token. -/
def tokenless : Dev := { (mgmtDev 3) with mgmt := { lcWord := 3, cred := some [], nonce := some 3 } }

theorem test_met_TransitionsResetPartitionsAndBlowFuses_tokenless (h : (seen tokenless).signedOk (parsed (mgmtMsg 0x05 [])) = true) :
    (seen tokenless).mgmtTakes (some 1) (mgmtMsg 0x05 []) 0x05 false true false (parsed (mgmtMsg 0x05 [])) ∧
    (seen tokenless).mayMove 0x05 = true ∧ (seen tokenless).tokenLive = false :=
  ⟨met_takes (c := 0x05) (by decide +kernel) (by decide +kernel) (by decide +kernel) fun _ => h, by decide +kernel⟩

theorem test_met_TransitionsResetPartitionsAndBlowFuses_install
    (hs : (seen (mgmtDev 3 1 3)).signedOk (parsed (mgmtMsg 0x08 (List.replicate 2689 0))) = true) :
    (seen (mgmtDev 3 1 3)).mgmtTakes (some 1) (mgmtMsg 0x08 (List.replicate 2689 0)) 0x08 false true true (parsed (mgmtMsg 0x08 (List.replicate 2689 0))) ∧
    0 < (seen (mgmtDev 3 1 3)).fuses.credCount ∧ (seen (mgmtDev 3 1 3)).fuses.credCount < 4 ∧
    (parsed (mgmtMsg 0x08 (List.replicate 2689 0))).body.length = 2689 :=
  ⟨met_takes (c := 0x08) (by decide +kernel) (by decide +kernel) (by decide +kernel) fun _ => hs, by decide +kernel, by decide +kernel, by decide +kernel⟩

theorem test_met_FuseReportsAndPresenceTokens :
    (∀ c ∈ [0x03#8, 0x04#8, 0x05#8, 0x06#8, 0x07#8, 0x08#8],
      (seen { base with mgmt := { blow := some { code := c, seq := 1, sess := none } } }).mgmt.blow = some { code := c, seq := 1, sess := none }) ∧
    lcDecode (0x0FF ||| BitVec.ofNat 9 (2 ^ lcBit 0x07 0x0FF)) = .retired ∧
    (let p : Mgmt := {}
     p.lineLow = false ∧ p.presence ≠ .held ∧ p.armed = none) ∧
    (∀ t ∈ [2000000000, 30000000000], let d := seen { base with mgmt := { lineLow := true, presence := .held } } t
     d.mgmt.lineLow = true ∧ d.mgmt.presence = .held ∧ 2000000000 ≤ d.time - d.mgmt.lowSince ∧ d.time - d.mgmt.lowSince ≤ 30000000000) ∧
    (seen { base with mgmt := { lineLow := true, presence := .held } } 1999999999).time - 0 < 2000000000 ∧
    (seen { base with mgmt := { lineLow := true, presence := .lockout } }).mgmt.presence = .lockout ∧
    0 + 30000000000 ≤ (seen { base with mgmt := { lineLow := true, presence := .held } } 30000000000).time ∧
    (let d := seen { base with mgmt := { armed := some 0 } } 600000000000
     d.mgmt.armed = some 0 ∧ 0 + 600000000000 ≤ d.time) ∧
    (seen base 599999999999).time < 0 + 600000000000 := by
  and_intros <;> decide +kernel

/-- The digest of a credential of zeros is not zero. -/
theorem test_met_FuseReportsAndPresenceTokens_install : credDigest ({ code := 0x08, seq := 1, sess := none } : Blow).data ≠ 0 ∧
    ({ code := 0x08, seq := 1, sess := none } : Blow).failed = false ∧ ({ code := 0x08, seq := 1, sess := none, failed := true } : Blow).failed = true := by
  decide +kernel

theorem test_met_ManagementHandlesPartitionsAndVault (hs : ∀ c b, (seen (mgmtDev 3)).signedOk (parsed (mgmtMsg c b)) = true) :
    (∀ q ∈ [1, 2, 3], fld (leAt (parsed (mgmtMsg 0x10 [1, q, 0, 0, 0, 0, 0, 0x80])).body 0 8) 8 3 = q.toNat) ∧
    ((seen (mgmtDev 3)).mgmtTakes (some 1) (mgmtMsg 0x10 [7, 1, 0, 0, 0, 0, 0, 0x80]) 0x10 false true false (parsed (mgmtMsg 0x10 [7, 1, 0, 0, 0, 0, 0, 0x80])) ∧
      (parsed (mgmtMsg 0x10 [7, 1, 0, 0, 0, 0, 0, 0x80])).body.length = 8 ∧ bitOf (leAt (parsed (mgmtMsg 0x10 [7, 1, 0, 0, 0, 0, 0, 0x80])).body 0 8) 63 = true ∧
      fld (leAt (parsed (mgmtMsg 0x10 [7, 1, 0, 0, 0, 0, 0, 0x80])).body 0 8) 0 5 < (seen (mgmtDev 3)).nparts ∧
      ((seen (mgmtDev 3)).part 7).st = .disabled ∧ ((seen (mgmtDev 3)).part 1).st = .bound) ∧
    ((seen (mgmtDev 3)).mgmtTakes (some 1) (mgmtMsg 0x11 [1, 6, 0, 0, 100, 0, 0, 0]) 0x11 false true false (parsed (mgmtMsg 0x11 [1, 6, 0, 0, 100, 0, 0, 0])) ∧
      zeroAt (parsed (mgmtMsg 0x11 [1, 6, 0, 0, 100, 0, 0, 0])).body 2 2 = true ∧ (seen (mgmtDev 3)).quotaBad 1 6 100 = false) ∧
    (seen (mgmtDev 3)).mgmtTakes (some 1) (mgmtMsg 0x20 []) 0x20 false false false (parsed (mgmtMsg 0x20 [])) ∧
    ((seen (mgmtDev 3)).mgmtTakes (some 1) (mgmtMsg 0x21 []) 0x21 false true true (parsed (mgmtMsg 0x21 [])) ∧ (seen (mgmtDev 3)).vaultRefusal true = none) ∧
    ((seen (mgmtDev 3)).mgmtTakes (some 1) (mgmtMsg 0x22 []) 0x22 false true true (parsed (mgmtMsg 0x22 [])) ∧ (seen (mgmtDev 3)).vaultRefusal false = none) ∧
    ((seen (mgmtDev 3)).mgmtTakes (some 1) (mgmtMsg 0x23 [0, 0x40, 0, 0, 0, 0, 0, 0]) 0x23 false true true (parsed (mgmtMsg 0x23 [0, 0x40, 0, 0, 0, 0, 0, 0])) ∧
      (parsed (mgmtMsg 0x23 [0, 0x40, 0, 0, 0, 0, 0, 0])).body.length = 8) ∧
    ((seen (mgmtDev 3)).commandTurn (seen (mgmtDev 3)).time = true ∧ (seen { (mgmtDev 3) with vault := exchanging }).commandTurn 0 = false ∧
      (seen { (mgmtDev 3) with vault := { sealOpen := true } }).vaultRefusal true = some Status.vaultSeal) := by
  refine ⟨by decide +kernel, ⟨met_takes (c := 0x10) (by decide +kernel) (by decide +kernel) (by decide +kernel) fun _ => hs _ _, by decide +kernel⟩,
    ⟨met_takes (c := 0x11) (by decide +kernel) (by decide +kernel) (by decide +kernel) fun _ => hs _ _, by decide +kernel⟩,
    met_takes (c := 0x20) (by decide +kernel) (by decide +kernel) (by decide +kernel) nofun,
    ⟨met_takes (c := 0x21) (by decide +kernel) (by decide +kernel) (by decide +kernel) fun _ => hs _ _, by decide +kernel⟩,
    ⟨met_takes (c := 0x22) (by decide +kernel) (by decide +kernel) (by decide +kernel) fun _ => hs _ _, by decide +kernel⟩,
    ⟨met_takes (c := 0x23) (by decide +kernel) (by decide +kernel) (by decide +kernel) fun _ => hs _ _, by decide +kernel⟩, by decide +kernel⟩


/-! ## Hypotheses met: SPDM, TDISP, IDE_KM -/

/-- DEPLOYED, with a chain in slot 1, an identity and reserved key 3. -/
def spdmDev : Dev :=
  { base with mgmt := { lcWord := 3, chains := [(1, [1, 2, 3])] },
              larder := { drbg := { st := .ready, seeded := true }, identity := some (5, 6), slots := [(3, { key := 9, st := 3 })] } }

theorem test_met_SpdmRequestsAndSessionsAreServed :
    (∀ p ∈ [SpdmPort.physical, .interface 7, .management], spdmPresent .k8 p = true) ∧ (seen spdmDev).spdmUp = true ∧ (seen spdmDev).spdmFull = true ∧
    (seen spdmDev).pkeFull = false ∧ (seen spdmDev).chain 1 = some [1, 2, 3] ∧ (seen spdmDev).canDraw = true ∧ 2 < ([1, 2, 3] : Bytes).length ∧
    (seen { spdmDev with larder := { pke := List.replicate 17 { thread := 0, row := none, since := 0 } } }).pkeFull = true ∧
    (seen { spdmDev with mgmt := { lcWord := 0 } }).spdmFull = false ∧
    (∀ p ∈ [(SpdmPort.physical, 2), (.management, 4)],
      let d := seen { spdmDev with host := { sessions := List.replicate p.2 { port := p.1, id := 1, th1 := [] } } }
      (if p.1 = .management then 4 else 2) ≤ (d.host.sessions.filter fun x => x.port = p.1).length) ∧
    ((seen spdmDev).host.sessions.filter fun x => x.port = .physical).length < 2 ∧
    (∀ x ∈ [({ port := .physical, id := 1, th1 := [] } : Session), { port := .physical, id := 1, th1 := [], established := true, updates := 0xFFFD },
        { port := .physical, id := 1, th1 := [], established := true, updates := 0xFFFE }],
      (seen { spdmDev with host := { sessions := [x] } }).session .physical 1 = some x) ∧
    0 + 120000000000 ≤ (seen spdmDev 120000000000).time ∧ (seen spdmDev 119999999999).time < 0 + 120000000000 := by
  and_intros <;> decide +kernel

/-- A drawn session half that neither R-rule reserves and no session has. -/
theorem test_met_SpdmRequestsAreAnswered_exchange (h : fld (Config.drbg 0 (label 0 0 (partForm (spdmPart .physical)) 0 0 0 0)).toNat 0 16 = 5) :
    let r := fld (Config.drbg ((seen spdmDev).larder.drbg.draws + 0) (label 0 0 (partForm (spdmPart .physical)) 0 0 0 0)).toNat 0 16
    r ≠ 0 ∧ r ≠ 0xFFFF ∧ ((seen spdmDev).host.sessions.any fun x => fld x.id.toNat 16 16 = r) = false ∧ (seen spdmDev).canDraws 3 = true := by
  have e : (seen spdmDev).larder.drbg.draws = 0 := by decide +kernel
  rw [e, h]; exact ⟨by decide, by decide, rfl, by decide +kernel⟩

theorem test_met_TdispLocksAndIdeOperations :
    (∀ s ∈ [(PState.enabled, TdiState.unlocked), (.enabled, .locked), (.enabled, .error), (.bound, .run), (.frozen, .run), (.disabled, .unlocked)],
      let d := seen { spdmDev with parts := [(7, { st := s.1, tdi := s.2, bindCount := 0xFFFD })] }
      7 < d.nparts ∧ d.spdmFull = true ∧ d.ready = true ∧ (d.part 7).st = s.1 ∧ (d.part 7).tdi = s.2 ∧ d.canDraw = true ∧ (d.resKey 3).isSome = true ∧
      (d.part 7).bindCount + 1 < 0xFFFF ∧ (d.placeReserved (40 + 7)).isSome = true) ∧
    (63 < 64 ∧ (2#2) ≠ 3) ∧ (seen spdmDev).larder.identity = some (5, 6) ∧
    (let o : IdeOp := { op := 2, stream := 63, keySet := true, tx := false, sub := 0 }
     (seen { spdmDev with host := { ide := [o] } }).host.ide = [o] ∧ o.own = false ∧ o.since + 1000 ≤ (seen spdmDev 1000).time ∧
     (seen spdmDev 999).time < o.since + 1000) := by
  and_intros <;> decide +kernel


/-! ## Hypotheses met: domain messages -/

/-- A message from node 6, partition 2, to partition 0, under id 0x10001 in domain 77. -/
def domMsg (kind flags : Nat) (body : Bytes) : Bytes := domHead kind flags (32 + body.length) 6 2 5 0 0x10001 77 ++ body
theorem body_of (k f : Nat) (b : Bytes) : (DMsg.of (domMsg k f b)).body = b := rfl
theorem drop_six (t : Bytes) : ([2, 0, 1, 0, 0, 0] ++ t : Bytes).drop 6 = t := rfl
theorem drop_two (t : Bytes) : ([2, 0] ++ t : Bytes).drop 2 = t := rfl
def sess (role : DRole) (stage : DStage) : DSess := { role := role, stage := stage, node := 6, part := 2, id := 0x10001 }
/-- The message in the inbox, partition 0 in its domain with some sessions and its DOMJOIN running in row 9. -/
def domDev (msg : Bytes) (m : Domain) : Dev :=
  let d := member (withFlight base 0 (fl .running (rowWord 0x42 0 0 0 0)))
  { (d.onPart 0 fun p => { p with dom := m, importPair := 3, quotas := [(0, 64)] }) with inbox := [(0, msg)] }
def inDom : Domain := { st := .member, id := 77, epoch := 1 }

theorem test_met_DomainMessagesJoinAndChange_hello :
    (let msg := domMsg 1 0 (List.replicate 32 3)
     let d := seen (domDev msg inDom)
     d.domTakes DomKind.hello msg ∧ (d.dom 0).helloRefused (DMsg.of msg) = none ∧ (d.dom 0).st = .member ∧ d.canDraw = true ∧
     ((d.dom 0).sessions.all fun x => !(x.role ≠ .parent && x.node = (DMsg.of msg).srcNode && x.part = (DMsg.of msg).srcPart
       && x.peerNonce = bytesKey (DMsg.of msg).body)) = true) ∧
    (let msg := domMsg 1 1 (List.replicate 32 3)
     let d := seen (domDev msg { inDom with sessions := List.replicate 14 { sess .peer .keyed with node := 7 } })
     (d.dom 0).helloRefused (DMsg.of msg) = none ∧
     ((seen (domDev msg { inDom with sessions := List.replicate 15 (sess .peer .keyed) })).dom 0).helloRefused (DMsg.of msg) = some 0x06) ∧
    (let msg := domMsg 1 0 (List.replicate 32 3)
     let d := seen (domDev msg { inDom with st := .joining })
     d.domTakes DomKind.hello msg ∧ (d.dom 0).helloRefused (DMsg.of msg) = none ∧ (d.dom 0).st = .joining) := by
  unfold Dev.domTakes; and_intros <;> decide +kernel

/-- A PROOF_C whose entry has undefined flags is refused. -/
def badProof : Bytes := domMsg 3 0 (List.replicate 51 0 ++ [0xFF] ++ List.replicate 11757 0)
theorem test_met_DomainMessagesJoinAndChange_proofC :
    let d := seen (domDev badProof { inDom with sessions := [sess .child .proofPSent] })
    d.domTakes DomKind.proofC badProof ∧ (d.dom 0).sess (DMsg.of badProof) (fun x => x.role ≠ .parent) = some (sess .child .proofPSent) ∧
    d.domKey 0 = some 11 ∧ proofRefused (d.dom 0).core 6 2 (keyBytes 0) (Proof.of (DMsg.of badProof).body) = some 0x02 := by
  refine ⟨⟨by decide +kernel, by decide +kernel, fun l hl => ?_, rfl, ?_⟩, by decide +kernel, by decide +kernel, by decide +kernel⟩
  · have e : (DMsg.of badProof).body = List.replicate 51 0 ++ [0xFF] ++ List.replicate 11757 0 := rfl
    have hl : some 11809 = some l := hl
    cases hl
    rw [e]; simp only [List.length_append, List.length_replicate, List.length_singleton]
  · show (List.find? (fun x => decide (x.2 = badProof)) [(0, badProof)]).isSome = true
    simp

/-- The state of a requester that awaits a PROOF_P; a core and a proof of which every check of R156 holds are the sender's. -/
def asker (stage : DStage) : Domain := { inDom with st := .joining, joinRow := some 9, tickets := [(9, [1])], sessions := [sess .parent stage] }
theorem test_met_DomainMessagesJoinAndChange_proofP :
    let msg := domMsg 2 0 []
    let d := seen (domDev msg (asker .helloSent))
    d.domTakes DomKind.proofP msg ∧ (d.dom 0).joining (DMsg.of msg) = some (sess .parent .helloSent) ∧ (d.dom 0).joinRow = some 9 := by
  unfold Dev.domTakes; and_intros <;> decide +kernel

/-- A policy core of domain 77 with one empty set, unsigned, and a PROOF_P with it that answers the requester's nonce; what its signatures and digests
say is Config's. -/
def bareCore : Bytes :=
  ([0x4B, 0x50, 0x4F, 0x4C] ++ natLe 2 1 ++ [0, 0] ++ natLe 8 77 ++ natLe 4 1 ++ natLe 2 1 ++ natLe 2 0 ++ natLe 4 7923 ++ [0, 0, 0, 0]) ++
    List.replicate 7891 0
def proofPBody : Bytes := ([1, 0, 0, 0] ++ List.replicate 64 0) ++ (bareCore ++ (List.replicate 51 0 ++ [1] ++ List.replicate 11757 0))

theorem test_met_DomainMessagesJoinAndChange_proofP_body :
    leAt proofPBody 0 1 = 1 ∧ (((List.range 1).any fun i => slice (slice proofPBody 4 32) (32 * i) 32 = keyBytes (sess .parent .helloSent).ownNonce) = true) ∧
    coreLength (proofPBody.drop 68) = 7923 ∧ proofPBody.length = 36 + 32 * 1 + 7923 + 736 + 2689 + 8384 ∧
    bitOf (entryFlags (Proof.of ((proofPBody.drop 68).drop 7923)).ep) 0 = true ∧ coreLayout bareCore = true ∧ coreDomain bareCore = 77 := by
  have hl : bareCore.length = 7923 := by unfold bareCore; rw [List.length_append, List.length_replicate]; rfl
  refine ⟨by decide +kernel, by decide +kernel, by decide +kernel, ?_, ?_, ?_, by decide +kernel⟩
  · unfold proofPBody; simp only [List.length_append, List.length_replicate, List.length_cons, List.length_nil, hl]
  · decide +kernel
  · unfold coreLayout; rw [hl]; decide +kernel

/-- A KEY that opens to a key with its confirmation. -/
def keyOpens : Bytes := domMsg 4 0 ([0, 0, 0, 0, 1] ++ List.replicate 1839 0)
theorem test_met_DomainMessagesJoinAndChange_key_opens (key : Key)
    (hd : decapsulate (some 0) 3 (wrapLabel 5 0) (slice (DMsg.of keyOpens).body 4 1792) = some key)
    (hc : confirmation key (sha384 ((sess .parent .proofCSent).transcript ++ (DMsg.of keyOpens).head ++ slice (DMsg.of keyOpens).body 0 1796)) 1 =
      (DMsg.of keyOpens).body.drop 1796) :
    let d := seen (domDev keyOpens (asker .proofCSent))
    (d.domTakes DomKind.key keyOpens ∧ (d.dom 0).sess (DMsg.of keyOpens) (fun x => x.role = .parent) = some (sess .parent .proofCSent) ∧
      (d.dom 0).st = .joining ∧ zeroAt (DMsg.of keyOpens).body 2 2 = true ∧ leAt (slice (DMsg.of keyOpens).body 4 1792) 0 4 = 1) ∧
    decapsulate (some 0) (d.importPair 0) (wrapLabel d.hall.node.toNat 0) (slice (DMsg.of keyOpens).body 4 1792) = some key ∧
    confirmation key (sha384 ((sess .parent .proofCSent).transcript ++ (DMsg.of keyOpens).head ++ slice (DMsg.of keyOpens).body 0 1796)) 1 =
      (DMsg.of keyOpens).body.drop 1796 := by
  refine ⟨by unfold Dev.domTakes; and_intros <;> decide +kernel, ?_, hc⟩
  rw [show (seen (domDev keyOpens (asker .proofCSent))).importPair 0 = 3 by decide +kernel]; exact hd

theorem test_met_DomainMessagesJoinAndChange_epochNew :
    let msg := domMsg 7 0 []
    let d := seen (domDev msg { inDom with sessions := [sess .parent .keyed] })
    d.domTakes DomKind.epochNew msg ∧ (d.dom 0).sess (DMsg.of msg) (fun x => x.role = .parent && x.live) = some (sess .parent .keyed) ∧
    (d.dom 0).joinRow = none ∧ (d.dom 0).leader = false ∧ (d.dom 0).pending = none ∧ d.canDraw = true ∧ d.domKey 0 = some 11 ∧
    (d.dom 0).epoch < 0xFFFE ∧ d.keyUse 0 < d.limit 0 0 ∧ d.larder.pool.take.isSome = true := by
  unfold Dev.domTakes; and_intros <;> decide +kernel

/-- A KEY whose blob has a wrong format (no key comes of it), and one that opens to a key with its confirmation. -/
def keyMsg : Bytes := domMsg 4 0 (List.replicate 1844 0)
theorem test_met_DomainMessagesJoinAndChange_key :
    let d := seen (domDev keyMsg (asker .proofCSent))
    d.domTakes DomKind.key keyMsg ∧ (d.dom 0).sess (DMsg.of keyMsg) (fun x => x.role = .parent) = some (sess .parent .proofCSent) ∧
    (d.dom 0).joinRow = some 9 ∧ (d.dom 0).heldHellos = [] ∧ (d.dom 0).heldNew = [] ∧ d.flight 0 9 = some (fl .running (rowWord 0x42 0 0 0 0)) ∧
    (d.slot (d.resSlot (8 + 0))).retired = false ∧ zeroAt (DMsg.of keyMsg).body 2 2 = true ∧
    decapsulate (some 0) (d.importPair 0) (wrapLabel d.hall.node.toNat 0) (slice (DMsg.of keyMsg).body 4 1792) = none := by
  unfold Dev.domTakes; and_intros <;> decide +kernel

def ackMsg : Bytes := domMsg 5 0 (confirmation 11 [] 2)
theorem test_met_DomainMessagesJoinAndChange_ack :
    (let d := seen (domDev ackMsg { inDom with sessions := [sess .child .keySent] })
     (DMsg.of ackMsg).kind = DomKind.keyAck ∧ d.ready = true ∧ (d.dom 0).pending = none ∧
     (d.dom 0).sess (DMsg.of ackMsg) (fun x => x.role = .child && x.stage = .keySent) = some (sess .child .keySent)) ∧
    (let msg := domMsg 6 0 (List.replicate 48 0)
     let d := seen (domDev msg { inDom with sessions := [sess .peer .confirmSent] })
     d.domTakes DomKind.confirm msg ∧ (d.dom 0).sess (DMsg.of msg) (fun x => x.role = .peer && x.stage = .confirmSent) = some (sess .peer .confirmSent) ∧
     ((d.domKeys 0).any fun k => confirmation k.1 (sess .peer .confirmSent).th 2 = (DMsg.of msg).body) = false) := by
  unfold Dev.domTakes; and_intros <;> decide +kernel
theorem test_met_DomainMessagesJoinAndChange_ack_key :
    ((seen (domDev ackMsg { inDom with sessions := [sess .child .keySent] })).domKeys 0).any
      (fun k => confirmation k.1 (sess .child .keySent).th 2 = (DMsg.of ackMsg).body) = true := by
  rw [show (seen (domDev ackMsg { inDom with sessions := [sess .child .keySent] })).domKeys 0 = [(11, 1)] by decide +kernel,
    show (DMsg.of ackMsg).body = confirmation 11 [] 2 from body_of _ _ _]
  simp [sess]

theorem test_met_DomainMessagesJoinAndChange_refuse :
    (∀ k ∈ [0x0F, 0x0E], let msg := domMsg k 0 (if k = 0x0F then [7] else [])
     let d := seen (domDev msg (asker .helloSent))
     (d.dom 0).joining (DMsg.of msg) = some (sess .parent .helloSent) ∧ (d.dom 0).joinRow = some 9 ∧
     (d.inbox.find? fun x => x.2 = msg).isSome = true ∧ (DMsg.of msg).kind = k ∧ (∀ l, domLength k = some l → (DMsg.of msg).body.length = l)) := by
  intro k hk
  rcases hk with _ | ⟨_, _ | ⟨_, hk⟩⟩
  · and_intros <;> decide +kernel
  · and_intros <;> decide +kernel
  · cases hk

/-- Epoch 2 pending in slot 97 under key 13. -/
def pendingDom (role : DRole) (leader : Bool) : Domain :=
  { inDom with leader := leader, pending := some (97, 2), sessions := [sess role (if role = .child then .epochNewSent else .readySent)] }
def pendDev (msg : Bytes) (m : Domain) : Dev := (domDev msg m).setSlot 97 { key := 13, st := 2, owner := ownerWord 0 0 0 0 }
def readyMsg : Bytes := domMsg 8 0 ([2, 0, 1, 0, 0, 0] ++ hmac (keyBytes 13) (headZero (domHead 8 0 86 6 2 5 0 0x10001 77) ++ [2, 0, 1, 0, 0, 0]))
def commitMsg : Bytes := domMsg 9 0 ([2, 0] ++ hmac (keyBytes 13) (headZero (domHead 9 0 82 6 2 5 0 0x10001 77) ++ [2, 0]))

theorem test_met_DomainMessagesJoinAndChange_epoch :
    (let d := seen (pendDev readyMsg (pendingDom .child true))
     (DMsg.of readyMsg).kind = DomKind.epochReady ∧ d.ready = true ∧
     (d.dom 0).sess (DMsg.of readyMsg) (fun x => x.role = .child && x.live) = some (sess .child .epochNewSent) ∧
     (d.dom 0).pending = some (97, 2) ∧ leAt (DMsg.of readyMsg).body 0 2 = 2 ∧
     (d.dom 0).leader = true ∧ (∀ q ∈ (d.dom 0).sessions, q.role = .child → q.stage = .epochNewSent → q = sess .child .epochNewSent)) ∧
    (let d := seen (pendDev commitMsg (pendingDom .parent false))
     (DMsg.of commitMsg).kind = DomKind.epochCommit ∧
     (d.dom 0).sess (DMsg.of commitMsg) (fun x => x.role = .parent && x.live) = some (sess .parent .readySent) ∧
     leAt (DMsg.of commitMsg).body 0 2 = 2 ∧ (d.slot (d.resSlot (8 + 0))).retired = false) := by
  and_intros <;> decide +kernel
theorem test_met_DomainMessagesJoinAndChange_epoch_macs :
    hmac (keyBytes ((seen (pendDev readyMsg (pendingDom .child true))).slot 97).key) ((DMsg.of readyMsg).head ++ slice (DMsg.of readyMsg).body 0 6) =
      (DMsg.of readyMsg).body.drop 6 ∧
    hmac (keyBytes ((seen (pendDev commitMsg (pendingDom .parent false))).slot 97).key) ((DMsg.of commitMsg).head ++ slice (DMsg.of commitMsg).body 0 2) =
      (DMsg.of commitMsg).body.drop 2 := by
  constructor
  · rw [show ((seen (pendDev readyMsg (pendingDom .child true))).slot 97).key = 13 by decide +kernel,
      show (DMsg.of readyMsg).head ++ slice (DMsg.of readyMsg).body 0 6 =
        headZero (domHead 8 0 86 6 2 5 0 0x10001 77) ++ [2, 0, 1, 0, 0, 0] by decide +kernel]
    rw [readyMsg, body_of, drop_six]
  · rw [show ((seen (pendDev commitMsg (pendingDom .parent false))).slot 97).key = 13 by decide +kernel,
      show (DMsg.of commitMsg).head ++ slice (DMsg.of commitMsg).body 0 2 = headZero (domHead 9 0 82 6 2 5 0 0x10001 77) ++ [2, 0] by decide +kernel]
    rw [commitMsg, body_of, drop_two]

def leaveMsg : Bytes := domMsg 0x0A 0 (hmac (keyBytes 11) (headZero (domHead 0x0A 0 80 6 2 5 0 0x10001 77)))
theorem test_met_DomainMessagesJoinAndChange_rest :
    (let d := seen (domDev leaveMsg { inDom with sessions := [sess .parent .keyed] })
     (DMsg.of leaveMsg).kind = DomKind.leave ∧ (d.dom 0).sess (DMsg.of leaveMsg) DSess.live = some (sess .parent .keyed) ∧ (d.dom 0).pending = none) ∧
    (∀ s ∈ [0, 3, 4], let d := seen (domDev [] { inDom with sessions := [{ sess .child .keySent with sends := s }] }) (base.chTimeout)
     (d.dom 0).sessions[0]? = some { sess .child .keySent with sends := s } ∧ (sess .child .keySent).waits = true ∧ 0 + d.chTimeout ≤ d.time ∧
     (d.dom 0).pending = none) ∧
    (let d := seen (domDev [] (asker .helloSent)) (base.chTimeout - 1)
     d.time < 0 + d.chTimeout ∧ (sess .parent .helloSent).live = false ∧ (d.dom 0).joinRow = some 9) ∧
    (let d := seen (domDev [] { inDom with old := [(97, 0, 0)] }) 1000000000
     (d.dom 0).old = [(97, 0, 0)] ∧ 0 + 1000000000 ≤ d.time ∧ (seen (domDev [] {}) 999999999).time < 0 + 1000000000) ∧
    (seen (domDev [] inDom)).ready = true := by
  and_intros <;> decide +kernel

theorem test_met_DomainMessagesJoinAndChange_leave :
    ((seen (domDev leaveMsg { inDom with sessions := [sess .parent .keyed] })).domKeys 0).any
      (fun k => hmac (keyBytes k.1) (DMsg.of leaveMsg).head = (DMsg.of leaveMsg).body) = true := by
  rw [show (seen (domDev leaveMsg { inDom with sessions := [sess .parent .keyed] })).domKeys 0 = [(11, 1)] by decide +kernel,
    show (DMsg.of leaveMsg).head = headZero (domHead 0x0A 0 80 6 2 5 0 0x10001 77) by decide +kernel,
    show (DMsg.of leaveMsg).body = hmac (keyBytes 11) (headZero (domHead 0x0A 0 80 6 2 5 0 0x10001 77)) from body_of _ _ _]
  simp

/-- REPORT_REQ with the report root key, REPORT; EPOCH_NEW under a core whose checks and key hold. -/
theorem test_met_DomainMessagesJoinAndChange_reports :
    (seen (domDev (domMsg 0x0C 0 []) { inDom with sessions := [sess .child .keyed] })).domTakes DomKind.report (domMsg 0x0C 0 []) ∧
    (let msg := domMsg 0x0B 0 (List.replicate 32 0)
     (seen (domDev msg { inDom with sessions := [sess .child .keyed] })).domTakes DomKind.reportReq msg ∧
       ((seen (domDev msg { inDom with sessions := [sess .child .keyed] })).dom 0).sess (DMsg.of msg) DSess.live = some (sess .child .keyed)) ∧
    (let d := (domDev [] inDom).setSlot 2 { key := 21, st := 3 }
     (d.resKey 2).isSome = true) := by
  unfold Dev.domTakes; and_intros <;> decide +kernel

/-- A PROOF_P with a reserved byte set is malformed; a partition in no domain refuses HELLO; a proof of a peer. -/
theorem test_met_DomainMessagesJoinAndChange_malformed :
    (let msg := domMsg 2 0 [0, 1, 0, 0]
     let d := seen (domDev msg inDom)
     d.inbox.find? (fun x => x.2 = msg) = some (0, msg) ∧ d.ready = true ∧ (DMsg.of msg).kind = DomKind.proofP ∧ zeroAt (DMsg.of msg).body 1 3 = false) ∧
    (let msg := domMsg 1 0 (List.replicate 32 3)
     let d := seen (domDev msg {})
     d.domTakes DomKind.hello msg ∧ (d.dom 0).helloRefused (DMsg.of msg) = some 0x07) ∧
    (let msg := domMsg 7 0 []
     let d := seen (domDev msg { inDom with joinRow := some 9 })
     d.domTakes DomKind.epochNew msg ∧ (d.dom 0).joinRow.isSome = true) := by
  unfold Dev.domTakes; and_intros <;> decide +kernel

/-- KEY_ACK under the key of epoch 0 after the commit of epoch 1. -/
def lateAck : Bytes := domMsg 5 0 (confirmation 13 [] 2)
def lateDom : Domain := { inDom with old := [(97, 0, 0)], sessions := [sess .child .keySent] }
theorem test_met_DomainMessagesJoinAndChange_lateAck :
    let d := seen (pendDev lateAck lateDom)
    (d.domKeys 0).find? (fun k => confirmation k.1 (sess .child .keySent).th 2 = (DMsg.of lateAck).body) = some (13, 0) ∧ 0 < (d.dom 0).epoch ∧
    d.canDraw = true ∧ d.domKey 0 = some 11 ∧ (DMsg.of lateAck).kind = DomKind.keyAck ∧ (d.inbox.find? fun x => x.2 = lateAck).isSome = true := by
  refine ⟨?_, by decide +kernel, by decide +kernel, by decide +kernel, by decide +kernel, by decide +kernel⟩
  rw [show (seen (pendDev lateAck lateDom)).domKeys 0 = [(11, 1), (13, 0)] by decide +kernel,
    show (DMsg.of lateAck).body = confirmation 13 [] 2 from body_of _ _ _]
  decide +kernel

theorem test_met_DomainMessagesJoinAndChange_more :
    (let d := seen (pendDev readyMsg { pendingDom .child true with sessions := [sess .child .epochNewSent, { sess .child .epochNewSent with node := 7 }] })
     ∃ q ∈ (d.dom 0).sessions, q ≠ sess .child .epochNewSent ∧ q.role = .child ∧ q.stage = .epochNewSent) ∧
    (let x := { sess .parent .helloSent with sends := 4 }
     let d := seen (domDev [] { asker .helloSent with sessions := [x] }) base.chTimeout
     (d.dom 0).sessions[0]? = some x ∧ x.waits = true ∧ 4 ≤ x.sends ∧ x.live = false ∧ (d.dom 0).joinRow = some 9 ∧
     d.flight 0 9 = some (fl .running (rowWord 0x42 0 0 0 0))) ∧
    (let d := seen ((domDev [] { inDom with sessions := [sess .child .keyed] }).setSlot 2 { key := 21, st := 3 })
     (d.answerKey 0 6 2 0x10001 0 []).isSome = true) := by
  refine ⟨⟨{ sess .child .epochNewSent with node := 7 }, ?_⟩, ?_, ?_⟩ <;> decide +kernel


/-! ## Hypotheses met: ports, requests and packets -/

/-- Ports 0 and 7 up; partition 0 a member of a domain; channel slot 4 (handle 1), square slot 2 (handle 1), region slot 3 (64 MiB at 0). -/
def portDev (c : Chan) (q : Square) : Dev :=
  let d := (member base).onTh 0 fun t => { t with handles := [(hKey .channel 1, { st := .live, slot := 4 }), (hKey .square 1, { st := .live, slot := 2 })] }
  { d with ports := [(0, { up := true }), (7, { up := true })], chans := [(4, c)], squares := [(2, q)], regions := [(3, reg3)] }

/-- A transmit and a receive channel of partition 0 with partition 2 of node 6, id 9, with their key at hand. -/
def txChan : Chan := { st := .open_, peerNode := 6, peerPart := 2, id := 9, next := 40, keys := [{ epoch := 0, dom := true, key := 5, used := 0 }] }
def rxChan : Chan := { txChan with rx := true, floor := 40 }

/-- A request header (R488). -/
def reqHdr (type cells offset more : Nat) : BitVec 256 :=
  BitVec.ofNat 256 (type + 0x1001 * 2 ^ 16 + (cells - 1) * 2 ^ 32 + offset * 2 ^ 40 + 0x5A * 2 ^ 88 + more * 2 ^ 96)

theorem test_met_ChannelSendsLeaveOrAreHeld :
    (let d := seen (portDev txChan {})
     7 < Kind.ports d.kind ∧ d.portOpen 7 = true ∧ d.requestTaken 7 (reqHdr 1 1 32 0) (List.replicate 32 0) 1 ∧
     d.liveSlot 0 .channel (TxReq.of (reqHdr 1 1 32 0)).handle = some 4 ∧ d.ch 4 = txChan ∧ (d.part 0).st ≠ .frozen ∧ txChan.next + 1 < 2 ^ 62 ∧
     txChan.epochFull = false ∧ txChan.held = [] ∧ txChan.marker = none ∧ txChan.next < txChan.credited + 1024 ∧ 7 ∈ d.routes txChan.peerNode ∧
     (touched (TxReq.of (reqHdr 1 1 32 0)).offset 32).length ≤ (txChan.grant + 65536 - txChan.touches % 65536) % 65536 ∧
     (d.chanKey 4 txChan.epoch (d.domBit 0)).isSome = true) ∧
    (let d := seen { (portDev txChan {}) with ports := [] }
     d.requestTaken 7 (reqHdr 1 1 32 1) (List.replicate 32 0) 1 ∧ d.routes 6 = [] ∧ d.stalled 7 < 64) ∧
    ((TxReq.of (reqHdr 5 1 0 0)).type = 5 ∧ (TxReq.of (reqHdr 0 1 0 0)).type = 0 ∧ (TxReq.of (reqHdr 5 1 0 0)).part < (seen base).nparts) ∧
    fld (reqHdr 1 1 32 2).toNat 96 4 = 2 ∧ (TxReq.of (reqHdr 1 1 31 0)).offset % 32 ≠ 0 ∧
    (seen base).liveSlot 0 .channel 0x1001 = none ∧
    (rxChan.st = .open_ ∧ rxChan.rx = true) ∧ ((seen ((portDev txChan {}).onPart 0 fun p => { p with st := .frozen })).part 0).st = .frozen := by
  unfold Dev.requestTaken; and_intros <;> decide +kernel

/-- A ring of three whose index 1 partition 0 is, and one whose receiver it is. -/
def ringOf (i : Nat) : SumCtx := { sumId := 1, ringId := 2, index := i, n := 3, st := .open_, row := 0 }
/-- Operands of a sum request: sum 1, ring 2, pkt 0 of 1, gather g towards a node and partition, expecting e. -/
def sumOps (g node part e : Nat) : Nat := 1 + 2 * 2 ^ 32 + g * 2 ^ 68 + node * 2 ^ 83 + part * 2 ^ 97 + e * 2 ^ 102

theorem test_met_SquareRequestsLeaveOrPend :
    (∀ g ∈ [1, 3], let h := reqHdr 2 1 32 (sumOps g 6 2 3)
     let d := seen (portDev {} { live2 with ctxs := [ringOf 1] })
     d.requestTaken 7 h (List.replicate 32 0) 2 ∧ d.liveSlot 0 .square 0x1001 = some 2 ∧ (d.sq 2).st ≠ .gone ∧ d.ctxOf 2 65538 = some (ringOf 1) ∧
     (SumReq.of h).gather = g ∧ d.sumRefusal (TxReq.of h) (SumReq.of h) (ringOf 1) = none ∧ (ringOf 1).acc 0 = none ∧ d.accsOpen 7 < 64 ∧ 7 ∈ d.routes 6) ∧
    (let h := reqHdr 2 1 32 (sumOps 3 5 0 3)
     let d := seen (portDev {} { live2 with ctxs := [ringOf 0] })
     d.requestTaken 7 h (List.replicate 32 0) 2 ∧ d.ctxOf 2 65538 = some (ringOf 0) ∧ d.sumRefusal (TxReq.of h) (SumReq.of h) (ringOf 0) = none ∧
     1 < (ringOf 0).n ∧ 0 ∉ (ringOf 0).committed ∧ d.inOneRegion (d.sq 2).thread 32 32 = true) ∧
    (let d := seen (portDev {} { live2 with ctxs := [ringOf 1] })
     d.sumRefusal (TxReq.of (reqHdr 2 1 32 (sumOps 4 6 2 3))) (SumReq.of (reqHdr 2 1 32 (sumOps 4 6 2 3))) (ringOf 1) = some Status.badField) ∧
    (let h := reqHdr 3 1 32 9
     let d := seen (portDev {} live2)
     d.requestTaken 7 h (List.replicate 32 0) 3 ∧ (d.part 0).multicast < 2 ^ 64 ∧ 7 ∈ d.routes (fld h.toNat 96 14) ∧
     (seen { (portDev {} live2) with ports := [] }).routes 9 = []) ∧
    (let h := reqHdr 4 1 128 (6 + 2 * 2 ^ 14 + 14 * 2 ^ 19)
     let d := seen (portDev {} live2)
     d.requestTaken 7 h [] 4 ∧ (TxReq.of h).offset % 128 = 0 ∧ (TxReq.of h).offset % 2048 / 128 + (ReadReq.of h).lines ≤ 16 ∧
     (ReadReq.of h).node ≠ d.hall.node.toNat ∧ (d.sqReads.filter fun x => x.port = 7).length < 256) ∧
    (TxReq.of (reqHdr 4 1 64 6)).offset % 128 ≠ 0 := by
  unfold Dev.requestTaken; and_intros <;> decide +kernel

/-- A packet of the receive channel's sender. -/
def rxPkt (kind : Nat) (key : Key) (seq offset : Nat) (data : Bytes) : Bytes :=
  sealPacket key (chanIv 9 seq) (chanHead kind true (data.length / 32) 0 0 5 2 6 9 seq 0 offset) data
/-- One with a tag of zeros. -/
def rawPkt (kind seq offset : Nat) : Bytes :=
  chanHead kind true 1 0 0 5 2 6 9 seq 0 offset ++ List.replicate 64 0

theorem test_met_ReceiveChannelsTakePacketsOnceInOrder :
    (∀ s ∈ [39, 40, 1063, 1064], let b := rawPkt 1 s 32
     let d := seen (portDev rxChan {})
     d.packetTaken 7 b 1 ∧ d.chanMalformed (Pkt.of b) = false ∧
     d.findChan true (Pkt.of b).dstPart (Pkt.of b).srcNode (Pkt.of b).srcPart (leAt (Pkt.of b).head 12 4) = some (4, rxChan) ∧ d.ch 4 = rxChan ∧
     leAt (Pkt.of b).head 24 2 = rxChan.epoch ∧ leAt (Pkt.of b).head 16 8 = s ∧ (d.chanKey 4 0 true).isSome = true) ∧
    (let b := rawPkt 2 40 0
     (seen (portDev rxChan {})).packetTaken 7 b 2 ∧ (seen (portDev rxChan {})).chanMalformed (Pkt.of b) = false ∧
     (seen base).findChan true (Pkt.of b).dstPart (Pkt.of b).srcNode (Pkt.of b).srcPart (leAt (Pkt.of b).head 12 4) = none ∧
     (seen (portDev rxChan {})).chanOpen 4 0 true 5 (chanIv 9 40) (Pkt.of b).head (Pkt.of b).payload (Pkt.of b).tag = none) ∧
    (seen (portDev rxChan {})).regionAt 0 0 = some 3 ∧ ((seen (portDev rxChan {})).merge.find? fun m => m.line = 0) = none := by
  unfold Dev.packetTaken; and_intros <;> decide +kernel
/-- A MARKER and a DATA packet whose tags hold, at the floor and above a gap, staged and not. -/
theorem test_met_ReceiveChannelsTakePacketsOnceInOrder_opens :
    (let b := rxPkt 2 5 40 0 (natLe 8 3 ++ List.replicate 24 0)
     ((seen (portDev rxChan {})).chanOpen 4 0 true 5 (chanIv 9 40) (Pkt.of b).head (Pkt.of b).payload (Pkt.of b).tag).map (fun p => zeroAt p.2 8 24) = some true) ∧
    (∀ s ∈ [40, 41], let b := rxPkt 1 5 s 32 (List.replicate 32 7)
     ((seen (portDev rxChan {})).chanOpen 4 0 true 5 (chanIv 9 s) (Pkt.of b).head (Pkt.of b).payload (Pkt.of b).tag).map (·.2) = some (List.replicate 32 7) ∧
     32 % 128 + 32 ≤ 128) ∧
    rxChan.floor < 41 ∧ rxChan.floor ∉ rxChan.seen ∧ rxChan.waiting = [] ∧ (seen (portDev rxChan {})).stages 7 32 = true ∧
    (seen (portDev rxChan {})).stages 7 1024 = false ∧ ({ rxChan with seen := [41] } : Chan).seen.contains 41 = true := by
  and_intros <;> decide +kernel

/-- A port without a node id, and one that has met a transmit failure. -/
theorem test_met_ChannelSendsLeaveOrAreHeld_unsent :
    (∀ d ∈ [seen { (portDev txChan {}) with hall := {} }, seen { (portDev txChan {}) with ports := [(7, { up := true, txSpoiled := true })] }],
      7 < Kind.ports d.kind ∧ d.portOpen 7 = true ∧ d.reqBad (reqHdr 1 1 32 0) = false ∧ reqLength (reqHdr 1 1 32 0) (List.replicate 32 0) = false ∧
      (d.hall.nodeValid = false ∨ d.hall.nodeValid = true ∧ (d.port 7).txSpoiled = true)) ∧
    (let d := seen (portDev { txChan with st := .down } {})
     (d.ch 4).st = .down ∧ (d.ch 4).rx = false ∧ d.liveSlot 0 .channel 0x1001 = some 4) := by
  and_intros <;> decide +kernel


/-! ## Hypotheses met: acknowledgements, synchronisation, packets on squares -/

/-- The transmit channel with the marker of row 9's RFENCE, sent, and the row. -/
def markedChan : Chan := { txChan with marker := some { m := 38, sent := true, since := 0, firstSent := 0, lastSent := 0, thread := 0, row := 9 } }
def ackDev (c : Chan) : Dev := (portDev c {}).onTh 0 fun t => { t with flights := [rfenceFl .running] }
/-- A CTRL packet from partition 2 of node 6. -/
def ctrlPkt (type : Nat) (payload : Bytes) : Bytes := clearPacket (ctrlHead 6 2 5 0 type (payload.length / 32)) payload
def syncReqPkt : Bytes := ctrlPkt 2 (natLe 4 9 ++ List.replicate 28 0 ++ List.replicate 32 4)
def syncBody (st : Byte) : Bytes := natLe 4 9 ++ [st, 0] ++ natLe 2 3 ++ natLe 8 70 ++ List.replicate 16 0 ++ keyBytes 0x77
def syncAckPkt (st : Byte) : Bytes := ctrlPkt 3 (syncBody st ++ syncMac 11 (ctrlHead 6 2 5 0 3 4) (syncBody st) ++ List.replicate 16 0)

theorem test_met_AcknowledgementsCreditsAndSync_acks :
    (∀ c ∈ [markedChan, { markedChan with st := .closing }], let b := rxPkt 3 5 (2 ^ 63 + 38) 0 (natLe 8 38 ++ List.replicate 24 0)
     let d := seen (ackDev c)
     d.packetTaken 7 b 3 ∧ d.chanMalformed (Pkt.of b) = false ∧ (d.chanOpen 4 c.epoch true 5 (chanIv 9 (2 ^ 63 + 38)) (Pkt.of b).head (Pkt.of b).payload
       (Pkt.of b).tag).map (fun p => zeroAt p.2 8 24) = some true ∧
     d.findChan false (Pkt.of b).dstPart (Pkt.of b).srcNode (Pkt.of b).srcPart (leAt (Pkt.of b).head 12 4) = some (4, c) ∧ d.ch 4 = c ∧
     leAt (Pkt.of b).head 24 2 = c.epoch ∧ leAt (Pkt.of b).head 16 8 = 2 ^ 63 + 38 ∧ (d.chanKey 4 0 true).isSome = true ∧
     (d.flight c.thread 9).isSome = true ∧ txChan.marker = none) ∧
    (∀ l ∈ [none, some 6], let b := rxPkt 4 5 (2 ^ 63 + 2 ^ 62 + 7) 0 (natLe 8 100 ++ natLe 2 64 ++ List.replicate 22 0)
     let d := seen (ackDev { txChan with lastCredit := l })
     d.packetTaken 7 b 4 ∧ d.chanMalformed (Pkt.of b) = false ∧ (d.chanOpen 4 0 true 5 (chanIv 9 (2 ^ 63 + 2 ^ 62 + 7)) (Pkt.of b).head
       (Pkt.of b).payload (Pkt.of b).tag).map (fun p => zeroAt p.2 10 22) = some true ∧
     d.findChan false (Pkt.of b).dstPart (Pkt.of b).srcNode (Pkt.of b).srcPart (leAt (Pkt.of b).head 12 4) = some (4, d.ch 4) ∧
     ((d.ch 4).lastCredit.all fun l => decide (l < 7)) = true ∧ (d.chanKey 4 0 true).isSome = true) := by
  unfold Dev.packetTaken; and_intros <;> decide +kernel

theorem test_met_AcknowledgementsCreditsAndSync_sync :
    (∀ c ∈ [{ txChan with credited := 40, epoch := 0xFFFD }, { txChan with credited := 39 }], let d := seen (ackDev c)
     d.ctrlTaken 7 syncReqPkt 2 ∧ d.domKey (Pkt.of syncReqPkt).dstPart = some 11 ∧
     d.findChan false (Pkt.of syncReqPkt).dstPart (Pkt.of syncReqPkt).srcNode (Pkt.of syncReqPkt).srcPart (leAt (Pkt.of syncReqPkt).payload 0 4) =
       some (4, c) ∧ d.ch 4 = c ∧ (c.answered.all fun a => a.1 ≠ slice (Pkt.of syncReqPkt).payload 32 32) = true) ∧
    ((seen (ackDev { txChan with answered := [(List.replicate 32 4, [])] })).ch 4).answered.all (fun a => a.1 ≠ slice (Pkt.of syncReqPkt).payload 32 32) = false ∧
    (({ txChan with credited := 40, epoch := 0xFFFD } : Chan).sendNext = 40 ∧ ({ txChan with credited := 39 } : Chan).sendNext = 40) ∧
    ((seen base).portOpen 7 = true ∧ kindDefined (Pkt.of (rawPkt 5 0 0)).kind = false ∧ kindDefined (Pkt.of (rawPkt 0x23 0 0)).kind = false) := by
  unfold Dev.ctrlTaken Dev.packetTaken; and_intros <;> decide +kernel
theorem test_met_AcknowledgementsCreditsAndSync_syncAck : ∀ st ∈ [(1 : Byte), 2],
    let d := seen (ackDev { rxChan with st := .syncing, syncNonce := 0x77 })
    let p := Pkt.of (syncAckPkt st)
    d.ctrlTaken 7 (syncAckPkt st) 3 ∧ d.findChan true p.dstPart p.srcNode p.srcPart (leAt p.payload 0 4) = some (4, d.ch 4) ∧
      slice p.payload 32 32 = keyBytes (d.ch 4).syncNonce ∧ (11, 1) ∈ d.domKeys 0 ∧ syncMac 11 p.head p.payload = slice p.payload 64 48 ∧
      leAt p.payload 4 1 = st.toNat := by
  unfold Dev.ctrlTaken Dev.packetTaken; decide +kernel
theorem test_met_AcknowledgementsCreditsAndSync_fragments : ∀ x ∈ [(32, 0), (64, 32), (65, 64), (97, 64)],
    let b := ctrlPkt 1 (domHead 8 0 x.1 6 2 5 0 0x10001 77 ++ List.replicate x.2 0)
    let d := seen (ackDev txChan)
    d.ctrlTaken 7 b 1 ∧ d.fragBad (Pkt.of b) = false ∧ d.assembling = [] ∧ (DMsg.of (Pkt.of b).payload).offset = 0 ∧
      (((Pkt.of b).payload.drop 32).take ((DMsg.of (Pkt.of b).payload).total - 32)).length = (if x.1 = 97 then 64 else x.1 - 32) := by
  unfold Dev.ctrlTaken Dev.packetTaken; decide +kernel

/-- A partial for packet 0 of the ring whose receiver partition 0 is. -/
def sumPkt (count : Nat) : Bytes :=
  sumBytes false 5 0 { sumId := 1, ringId := 2, pktsM1 := 0, pkt := 0, offset := 32 } count 3 (List.replicate 8 3) [0, 0, 0, 0]
/-- The receiver's accumulator with its own term, two of three in, whose tag words agree with tau. -/
def nearly (tau : List Nat) : SumCtx :=
  { ringOf 0 with accs := [{ pkt := 0, port := 7, opened := 0, target := 3, count := 2, offset := 32, lanes := List.replicate 8 1, taus := [0, 0, 0, 0],
                             tsum := [0, 0, 0, 0], own := some (List.replicate 8 1, tau) }] }
theorem test_met_SquarePacketsSumStoreAndRead_sum :
    (let d := seen (portDev {} { live2 with ctxs := [ringOf 0] })
     let q := SumPkt.of (Pkt.of (sumPkt 2))
     d.packetTaken 7 (sumPkt 2) 0x10 ∧ d.sumBad (Pkt.of (sumPkt 2)) = false ∧ d.findCtx q.dstPart 65538 = some (2, ringOf 0) ∧
     d.ctxOf 2 65538 = some (ringOf 0) ∧ q.expect = (ringOf 0).n ∧ (ringOf 0).ended = false ∧ q.at_.pkt = 0 ∧ q.count < 3 ∧ d.accsOpen 7 < 64 ∧
     d.inOneRegion (d.sq 2).thread q.at_.offset (4 * q.lanes.length) = true ∧ q.at_.sumId * 65536 + q.at_.ringId = 65538) ∧
    (let q := SumPkt.of (Pkt.of (sumPkt 1))
     let c := nearly (live2.partialHash q)
     let d := seen (portDev {} { live2 with ctxs := [c] })
     d.packetTaken 7 (sumPkt 1) 0x10 ∧ d.sumBad (Pkt.of (sumPkt 1)) = false ∧ d.findCtx q.dstPart 65538 = some (2, c) ∧ d.ctxOf 2 65538 = some c ∧
     c.ended = false ∧ (c.acc 0).map (fun a => (a.count + q.count, a.offset, a.lanes.length)) = some (3, q.at_.offset, q.lanes.length) ∧
     addVec (addVec [0, 0, 0, 0] q.taus) (live2.partialHash q) = addVec [0, 0, 0, 0] ((d.sq 2).partialHash q) ∧
     addVec (addVec [0, 0, 0, 0] q.taus) [0, 0, 0, 0] ≠ addVec [0, 0, 0, 0] ((d.sq 2).partialHash q)) := by
  unfold Dev.packetTaken; and_intros <;> decide +kernel

def mstorePkt (seq : Nat) : Bytes := sealPacket 12 (mstoreIv 6 seq) (chanHead 0x20 false 1 0 0 99 2 6 40 seq 0 32) (List.replicate 32 9)
theorem test_met_SquarePacketsSumStoreAndRead_mstore :
    (∀ z ∈ [live2, { live2 with windows := [{ node := 6, dom := false, floor := 8, seen := [] }] },
       { live2 with windows := [{ node := 6, dom := false, floor := 0, seen := [7] }] }],
     let d := seen (portDev {} z)
     let p := Pkt.of (mstorePkt 7)
     d.packetTaken 7 (mstorePkt 7) 0x20 ∧ d.mstoreMalformed p = false ∧ p.srcNode ≠ d.hall.node.toNat ∧
     d.liveSquare p.dstPart (leAt p.head 12 4) = some (2, z) ∧ d.sq 2 = z ∧ z.keyFor p.dom = some 12 ∧
     (gcmOpen 12 (mstoreIv p.srcNode (leAt p.head 16 8)) (authHead p.head) p.payload p.tag).isSome = true ∧
     (z.windows.all fun w => w.node = p.srcNode && w.dom = p.dom && (decide (7 < w.floor) || w.seen.contains 7)) = true) := by
  unfold Dev.packetTaken; decide +kernel

/-- Header of a square read's request or response. -/
def readHead (kind cells lines : Nat) (st : Byte) (offset : Nat) : Bytes :=
  headFirst kind false cells 0 0 5 ++ natLe 4 (6 + 2 * 2 ^ 14) ++ natLe 4 40 ++ natLe 6 offset ++ natLe 1 (lines - 1) ++ [st] ++ List.replicate 8 0
def readReqPkt : Bytes := clearPacket (readHead 0x21 1 16 0 2048) (List.replicate 32 0)
def readCells : Bytes := List.replicate 128 7
def readRspPkt : Bytes :=
  clearPacket (readHead 0x22 5 1 0 2048) (natLe 8 256 ++ readTag (expand 12) 6 16 256 readCells ++ List.replicate 16 0 ++ readCells)
def readBadPkt : Bytes := clearPacket (readHead 0x22 1 1 9 2048) (List.replicate 32 0)
def pendingRead : SqRead :=
  { port := 7, tags := [(0x5A, 0)], part := 0, square := 2, node := 6, respPart := 2, offset := 2048, lines := 1, since := 0, sent := true }
theorem test_met_SquarePacketsSumStoreAndRead_reads :
    (∀ z ∈ [live2, { live2 with st := .gone }], let d := seen { (portDev {} z) with regions := [] }
     let p := Pkt.of readReqPkt
     d.packetTaken 7 readReqPkt 0x21 ∧ d.readReqMalformed p = false ∧ d.findSquare p.dstPart (leAt p.head 12 4) = some (2, z) ∧ d.sqResps = [] ∧
     (z.st = .gone → d.liveSquare p.dstPart (d.sq 2).id = none) ∧ (z.st = .live → d.liveSquare p.dstPart (d.sq 2).id = some (2, z)) ∧
     d.regionAt p.dstPart (2048 / 128) = none) ∧
    (∀ b ∈ [readBadPkt, readRspPkt], let d := seen { (portDev {} live2) with sqReads := [pendingRead] }
     let p := Pkt.of b
     d.packetTaken 7 b 0x22 ∧ d.readRspMalformed p = false ∧ (leAt p.head 23 1 ≠ 0 ↔ b = readBadPkt) ∧
     (d.sqReads.find? fun r => r.part = p.dstPart && (d.sq r.square).id = leAt p.head 12 4 && r.node = p.srcNode && r.respPart = p.srcPart
        && r.offset = leAt p.head 16 6 && r.lines = leAt p.head 22 1 + 1) = some pendingRead ∧ (d.sq 2).keyFor p.dom = some 12) ∧
    (let p := Pkt.of readRspPkt
     readTag (expand 12) p.srcNode (2048 / 128) (leAt p.payload 0 8) (slice p.payload 32 128) = slice p.payload 8 8) := by
  unfold Dev.packetTaken; and_intros <;> decide +kernel


/-! ## Hypotheses met: timers, links, sums that end -/

/-- The ports' block with a channel timeout of 1000 ns. -/
def timed (c : Chan) (q : Square) : Dev := { (portDev c q) with hall := { node := 5, nodeValid := true, chTimeout := 1, mergeWindow := 100 } }
def held1 : HeldReq := { seq := 39, tag := 1, port := 7, add := false, offset := 0, payload := [], since := 0 }
def waits1 : Waiting := { seq := 41, marker := true, epoch := 0, dom := true, add := false, offset := 0, payload := [], port := 7, staged := false, key := 5 }

theorem test_met_ChannelTimersRetryThenBringDown :
    (let d := seen (timed { rxChan with markerDue := some (39, 0) } {})
     d.ready = true ∧ (d.ch 4).markerDue = some (39, 0) ∧ 39 < (d.ch 4).floor ∧ d.markerDrained 4 39 = true ∧
     ((d.route 6 none).bind fun r => r.2.chanKey 4 0 (d.domBit 0)).isSome = true ∧
     ((seen (timed { rxChan with st := .closing, markerDue := some (39, 0) } {})).ch 4).st = .closing) ∧
    (let x : MEntry := { line := 0, part := 0, region := 3, words := [], touches := [(4, 38)] }
     (seen { (timed { rxChan with markerDue := some (39, 0) } {}) with merge := [x] }).markerDrained 4 39 = false) ∧
    (∀ n ∈ [3, 4], let d := seen (timed { rxChan with st := .syncing, syncSends := n } {}) 1000
     (d.ch 4).st = .syncing ∧ (d.ch 4).syncSent + d.chTimeout ≤ d.time ∧ (n < 4 ∨ 4 ≤ (d.ch 4).syncSends)) ∧
    (let d := seen (timed { rxChan with st := .syncing } {}) 999
     d.time < (d.ch 4).syncSent + d.chTimeout) ∧
    (let d := seen (timed markedChan {}) 250
     (d.ch 4).marker = markedChan.marker ∧ d.chTimeout / 4 = d.time ∧ (d.route 6 none).isSome = true) ∧
    ((seen (timed markedChan {}) 249).time < (seen (timed markedChan {}) 249).chTimeout / 4) ∧
    (markedChan.marker.map MarkerOut.start = some 0 ∧ (seen (timed markedChan {}) 1000).time = (seen (timed markedChan {})).chTimeout ∧
     (seen (timed markedChan {})).chTimeout < (seen (timed markedChan {}) 1001).time ∧
     ((seen (timed { markedChan with st := .closing } {}) 1001).ch 4).st = .closing ∧ txChan.st ≠ .closing) ∧
    (let c := { txChan with held := [held1] }
     ((seen (timed c {}) 1001).ch 4).held = [held1] ∧ held1.since + (seen (timed c {})).chTimeout < (seen (timed c {}) 1001).time ∧
     (seen (timed c {}) 1000).time ≤ held1.since + (seen (timed c {})).chTimeout ∧
     ((seen (timed { c with st := .closing } {}) 1001).ch 4).held = [held1]) ∧
    (let c := { rxChan with waiting := [waits1] }
     ((seen (timed c {}) 1000).ch 4).waiting ≠ [] ∧ (c.gapSince + 1000 ≤ (seen (timed c {}) 1000).time) ∧
     (seen (timed c {}) 999).time < c.gapSince + (seen (timed c {})).chTimeout ∧ rxChan.waiting = []) ∧
    (let d := seen (timed { rxChan with creditFloor := 39 } {}) 1000
     (d.ch 4).creditFloor < (d.ch 4).floor ∧ (d.ch 4).advancedAt + 1000 ≤ d.time ∧
     ((d.route 6 none).bind fun r => r.2.chanKey 4 0 (d.domBit 0)).isSome = true) ∧
    (seen (timed { rxChan with creditFloor := 39 } {}) 999).time < 0 + 1000 ∧
    (let c := { txChan with epoch := 1, former := [(0, 0)] }
     ∃ f ∈ c.former, f.2 + (seen (timed c {})).chTimeout ≤ (seen (timed c {}) 1000).time) := by
  and_intros <;> decide +kernel

/-- A multicast request held for a link since 0. -/
def parked1 : Parked := { port := 7, hdr := reqHdr 3 1 32 9, payload := List.replicate 32 0, since := 0, slot := some 2 }
theorem test_met_PortsLinkHoldAndEvict :
    (let d := seen base
     d.managerMay mgrReq ∧ 7 < Kind.ports d.kind ∧ d.powered (d.portDomain 7) = true ∧ d.nodeLocked = false ∧ d.chans = [] ∧ d.portOpen 7 = true ∧
     (d.port 7).up = false) ∧
    (let d := seen (timed txChan {})
     d.nodeLocked = true ∧ (d.port 7).up = true ∧ d.managerMay mgrReq ∧ 4 < 2 ^ 16 ∧ (d.ch 4).st = .open_) ∧
    (∃ e ∈ (seen (timed txChan {})).chans, e.2.st ≠ .free) ∧ (∃ e ∈ (seen (member base)).parts, e.2.dom.st ≠ .none) ∧
    (∀ st ∈ [ChState.syncing, .free, .closing], ((seen (timed { rxChan with st := st } {})).ch 4).st = st) ∧
    (let d := seen { (timed txChan {}) with parked := [parked1] } 1000
     (d.parked.filter fun p => p.port = 7 && p.built.isNone && (TxReq.of p.hdr).type ≠ 4 && decide (p.since + d.chTimeout ≤ d.time)) = [parked1]) ∧
    (let d := seen { (timed txChan {}) with parked := [parked1] } 999
     (d.parked.filter fun p => p.port = 7 && p.built.isNone && (TxReq.of p.hdr).type ≠ 4 && decide (p.since + d.chTimeout ≤ d.time)) = []) := by
  unfold Dev.managerMay; and_intros <;> decide +kernel

/-- A ring of three seen from an index with one accumulator open since 0. -/
def gathering (i : Nat) : SumCtx := { ringOf i with accs := [{ pkt := 0, port := 7, opened := 0, target := 3, count := 1 }] }
def merge1 (opened : Nat) : MEntry :=
  { line := 0, part := 0, region := 3, words := List.replicate 32 (.none, 0), chans := [4], opened := opened, port := 7 }

theorem test_met_SumsReadsAndMergesEndInTime_sums :
    (∀ i ∈ [0, 1], let d := seen (timed {} { live2 with ctxs := [gathering i] }) 1001
     d.ready = true ∧ d.ctxOf 2 65538 = some (gathering i) ∧ (gathering i).acc 0 = some { pkt := 0, port := 7, opened := 0, target := 3, count := 1 } ∧
     0 + d.chTimeout < d.time ∧ (gathering i).index = i) ∧
    (seen (timed {} {}) 1000).time ≤ 0 + (seen (timed {} {})).chTimeout ∧
    (let c := { ringOf 0 with pkts := some 1, firstAt := some 0 }
     let d := seen (timed {} { live2 with ctxs := [c] }) 1001
     d.ctxOf 2 65538 = some c ∧ c.index = 0 ∧ c.st = .open_ ∧ c.lastAt + d.chTimeout < d.time ∧ c.committed = [] ∧ c.failed = [] ∧ c.accs = [] ∧ c.ended = false ∧ c.status = 0) ∧
    (∀ c ∈ [{ ringOf 0 with pkts := some 1, committed := [0] }, { ringOf 0 with pkts := some 1, failed := [(0, Status.tagFail)] }],
     let d := seen (timed {} { live2 with ctxs := [c] })
     d.ctxOf 2 65538 = some c ∧ c.ended = true ∧ (d.th 0).fifo.length < 64 ∧ (statusOk c.outcome = true ↔ c.failed = [])) ∧
    (let c := { ringOf 0 with status := Status.squareGone }
     c.ended = false ∧ c.status ≠ 0 ∧ statusOk c.outcome = false) ∧
    (let d := seen ((timed {} { live2 with ctxs := [ringOf 0] }).onPart 0 fun p => { p with sumSelect := BitVec.ofNat _ (1 + 2 * 2 ^ 32) })
     d.ownerMay (partReq 0) 0 ∧ 0 < d.nparts ∧ d.findCtx 0 (d.part 0).sumPair = some (2, ringOf 0)) := by
  unfold Dev.ownerMay; and_intros <;> decide +kernel
theorem test_met_SumsReadsAndMergesEndInTime_reads :
    (let d := seen { (timed {} live2) with sqReads := [pendingRead] } 1001
     d.ready = true ∧ 7 < Kind.ports d.kind ∧ pendingRead.tags = [(0x5A, 0)] ∧ 0 + d.chTimeout < d.time ∧
     (d.sqReads.find? fun y => y.port = 7 && y.tags.any fun z => z.1 = 0x5A && decide (z.2 + d.chTimeout < d.time)) = some pendingRead) ∧
    (∀ now ∈ [999, 1000], let d := seen { (timed rxChan {}) with merge := [merge1 900] } now
     d.ready = true ∧ (d.merge.find? fun m => m.line = 0) = some (merge1 900) ∧
     ((merge1 900).opened + d.hall.mergeWindow ≤ d.time ↔ now = 1000)) ∧
    (let d := seen { (timed rxChan {}) with merge := [merge1 0], engines := [(0, { ops := [{ id := 1, origin := .engine, act := .convert none, addr := 0, part := 0, region := 3, locks := [(0, 64)] }] })] } 1000
     (d.merge.find? fun m => m.line = 0) = some (merge1 0) ∧ d.pageHeld 0 = true) ∧
    (let d := seen ({ (timed rxChan {}) with merge := [merge1 0] }.onPort 7 fun p => { p with markerReleased := [4] })
     (d.merge.filter fun m => m.port = 7 && !m.overflow && m.chans.any (d.port 7).markerReleased.contains) = [merge1 0] ∧
     d.pageHeld 0 = false ∧ d.readOnly 3 = false ∧ d.seqOnly 3 0 = false ∧ (merge1 0).touches = [] ∧ d.regionLc = true ∧ d.engineOf 0 < Kind.engines d.kind) := by
  and_intros <;> decide +kernel


/-! ## Hypotheses met: accesses, engines, memory registers, jobs, the host path -/

/-- Partition 0 with 64 MiB at 0, nothing in flight. -/
def memDev : Dev := withFlight (regionDev 0 (fl .running 0) reg3) 8 (fl .running 0)
/-- An access header (R492): operation, address, partition 0 tagged, master, granules. -/
def accHdr (op addr part master granules : Nat) : BitVec 256 :=
  BitVec.ofNat 256 (9 + op * 2 ^ 19 + master * 2 ^ 23 + 2 ^ 25 + part * 2 ^ 26 + addr * 2 ^ 31 + granules * 2 ^ 79 + 0xFF * 2 ^ 83)

theorem test_met_StreamAccessesQueueReadOrAreRefused :
    (seen { memDev with power := { domains := [(8, { st := .turningOff })] } }).engOpen 0 = false ∧ (seen memDev).engOpen 0 = true ∧
    ((AccHead.of (accHdr 2 0 0 0 1)).op ≠ 1 ∧ (AccHead.of (accHdr 1 0 0 3 1)).master = 3 ∧ (AccHead.of (accHdr 1 0 0 0 0)).granules = 0 ∧
      (AccHead.of (BitVec.ofNat 256 ((accHdr 1 0 0 0 1).toNat + 0x400))).rsv = true) ∧
    (∀ op ∈ [1, 2], ∀ a ∈ [64, 0, 128], let h := AccHead.of (accHdr op a 0 0 1)
      (h.master ≠ 3 ∧ h.op = op ∧ h.rsv = false ∧ h.granules ≠ 0) ∧ (h.addr % 128 ≠ 0 ↔ a = 64)) ∧
    (∀ w ∈ [true, false], (match (seen memDev).admission .core true 1 0 w with
      | .error o => o
      | .ok _ => some 9) = none) ∧
    (∀ w ∈ [true, false], (match (seen memDev).admission .core true 0 0 w with
      | .error _ => (9, true)
      | .ok x => x) = (3, false)) ∧
    (seen memDev).engineOf 0 = 0 ∧ (seen memDev).quiet = true ∧ (seen memDev).engines = [] ∧ ((seen memDev).eng 0).slots = [] ∧
    ((seen memDev).eng 0).untouched ((seen memDev).localPage 0) = true ∧ ((seen memDev).reg 3).importing = false ∧
    ((seen memDev).eng 0).faults = [] ∧ ((seen memDev).eng 0).spoiled = false ∧ (seen memDev).coverAt ((seen memDev).pageLine 0 0) = some 3 ∧
    ((seen memDev).eng 0).lockedAt 0 = false := by
  and_intros <;> decide +kernel

/-- The page at 0 under conversion, with a number of writes behind its lock. -/
def lockedEng (n : Nat) : Engine :=
  { ops := { id := 1, origin := .job 0, act := .convert none, addr := 0, part := 0, region := 3 } :: (List.range n).map fun k =>
      { id := 2 + k, origin := .stream 9 1, act := .write 0 0, addr := 1, part := 0, region := 3 } }
theorem test_met_StreamAccessesQueueReadOrAreRefused_locked : ∀ n ∈ [63, 64], let d := seen { memDev with engines := [(0, lockedEng n)] }
    (d.eng 0).lockedAt 0 = true ∧ ((d.eng 0).heldCount < holdQueue ↔ n = 63) ∧ d.engOpen 0 = true ∧ d.engineOf 0 = 0 := by
  decide +kernel

/-- Waiting reads of two segments of partition 0. -/
def waitOf (op seg : Nat) : SlotWait := { op := op, seg := seg, part := 0 }
def tagEntry : PEntry := { line := 7, cls := .tagLine, value := 0, dirty := true }
theorem test_met_EnginesTakeLinesSlotsAndWays :
    (((seen memDev).eng 0).reads.find? fun r => r.tag = 5) = none ∧
    (let d := seen { memDev with engines := [(0, { reads := [{ tag := 5, line := 40 }] })] }
     ((d.eng 0).reads.find? fun r => r.tag = 5) = some { tag := 5, line := 40 } ∧ (d.eng 0).readQueue = []) ∧
    (seen memDev).nextWaiting 0 = none ∧
    (let d := seen { (memDev.onPart 0 fun p => { p with quotas := [(6, 1)] }) with engines := [(0, { slotWaits := [waitOf 4 0, waitOf 5 1] })] }
     d.nextWaiting 0 = some (waitOf 4 0) ∧ ((d.eng 0).slotWaits.filter fun x => x.seg = 0) = [waitOf 4 0]) ∧
    (let d := seen { memDev with engines := [(0, { slots := [{ seg := 0, part := 0, users := [1] }], slotWaits := [waitOf 4 0] })] }
     d.nextWaiting 0 = none) ∧
    ((seen memDev 15999).time / 16000 ≤ ((seen memDev).eng 0).interval ∧ ((seen memDev).eng 0).interval < (seen memDev 16000).time / 16000) ∧
    (∀ h ∈ [true, false], let d := seen { memDev with engines := [(0, { hold := h })] }
     d.engOpen 0 = true ∧ (d.eng 0).hold = h) ∧
    (let e : Engine := {}
     leastOf 0 (1, 5, 5) = 0 ∧ mostOf 1 (1, 5, 5) = 1 ∧ mostOf 2 (1, 5, 5) = 2 ∧ (e.classWays 0).2.1 < (e.classWays 0).1 ∧ (e.classWays 1).1 < (e.classWays 1).2.2 ∧
     leastOf 1 (3, 3, 3) = mostOf 1 (3, 3, 3)) ∧
    ((seen memDev).eng 0).pantry.filter PEntry.dirty = [] ∧
    (∀ k ∈ [0, 1], let d := seen { memDev with engines := [(0, { pantry := [tagEntry] })],
                                               power := { cost := 0x100000000, tokens := k } }
     (d.eng 0).pantry.filter PEntry.dirty = [tagEntry] ∧ d.power.unlimited = false ∧ (d.aheadCost ≤ d.power.tokens ↔ k = 1)) := by
  and_intros <;> decide +kernel

/-- A base region in slot 3 that partition 1 maps, shared with it. -/
def baseReg (map : Bool) : Dev :=
  { memDev with regions := [(3, { reg3 with kind := 1, share := 2 }), (4, { reg3 with kind := 2, thread := if map then 1 else 2 })],
                hall := { regionSelect := 3 } }
theorem test_met_MemoryRegistersAreGuarded :
    (seen memDev).managerMay mgrReq ∧ (seen memDev).powered ((seen memDev).engDomain 3) = true ∧
    (∀ x ∈ [(2, 20, 7, 2), (8, 4, 17, 16), (5, 4, 20, 16)], (({ hold := true } : Engine).workingWays.toNat = x.1 + x.2.1 + x.2.2.1 ∧
      2 ≤ x.1 ∧ x.1 ≤ 8 ∧ 4 ≤ x.2.1 ∧ x.2.1 ≤ 20 ∧ 4 ≤ x.2.2.1 ∧ x.2.2.1 ≤ 20 ∧ 2 ≤ x.2.2.2 ∧ x.2.2.2 ≤ 16)) ∧
    ¬ (((seen memDev).eng 0).hold = true) ∧
    (let d := seen (baseReg true)
     d.reg d.hall.regionSelect = { reg3 with kind := 1, share := 2 } ∧ reg3.st = .live ∧ reg3.loadLocked = false ∧ 1 < d.nparts ∧
     (2#32).getLsbD 1 = true ∧ (0#64).getLsbD 1 = false ∧ d.mapsBase 1 { reg3 with kind := 1, share := 2 } = true ∧
     (seen (baseReg false)).mapsBase 1 { reg3 with kind := 1, share := 2 } = false) ∧
    ((seen memDev).reg 3).kind ≠ 1 ∧
    (BitVec.ofNat 2 0 ≤ reg3.dma ∧ BitVec.ofNat 2 (0 / 4) ≤ reg3.dbg ∧ reg3.dma < BitVec.ofNat 2 1 ∧ reg3.dbg < BitVec.ofNat 2 (4 / 4)) ∧
    (seen memDev).ownerMay (partReq 0) 0 ∧ ((seen memDev).th 0).pageOut = 0 ∧
    ((seen (memDev.onTh 0 fun t => { t with pageOut := 1 })).th 0).pageOut ≠ 0 := by
  unfold Dev.managerMay Dev.ownerMay; and_intros <;> decide +kernel

/-- A job in entry 0 on the region in slot 3, with tokens for it. -/
def jobDev (j : Job) (tokens : Nat) (d : Dev := memDev) : Dev :=
  { d with thresh := { jobs := [(0, { j with target := 3 })] }, power := { cost := 0x00010002, tokens := tokens } }
theorem test_met_JobsPassPagesChunksAndEnd_pages :
    (∀ ex ∈ [true, false], ∀ k ∈ [1, 2], ∀ st ∈ [JState.queued, .running], let d := seen (jobDev { st := st, export_ := ex } k)
     d.powered (d.engDomain 0) = true ∧ (d.job 0).kind = .rekey ∧ (d.job 0).st = st ∧ (d.job 0).export_ = ex ∧
     (d.rekeyNext 0 0).1 < (d.rekeyNext 0 0).2 ∧ d.converting 0 = false ∧ d.power.unlimited = false ∧ (d.job 0).urgent = false ∧
     (d.pageCost ≤ d.power.tokens ↔ k = 2)) ∧
    (let d := seen (jobDev { st := .running, boundary := [(0, 64 * ((seen memDev).regionChunks 3 0).2)] } 2)
     (d.rekeyNext 0 0).2 ≤ (d.rekeyNext 0 0).1) ∧
    (∀ k ∈ [0, 1], let d := seen (jobDev { st := .queued, kind := .sweep } k { memDev with regions := [(5, { reg3 with sweeping := true, thread := 3 })] })
     d.sweepNext 0 0 = some 0 ∧ (d.chunkCost ≤ d.power.tokens ↔ k = 1) ∧ d.sweepRegions (d.job 0).target = [5]) := by
  and_intros <;> decide +kernel
theorem test_met_JobsPassPagesChunksAndEnd_ends :
    (let d := seen (jobDev { st := .ending } 0)
     d.ready = true ∧ (d.job 0).kind = .rekey ∧ d.exportWrites 0 = false ∧ (d.job 0).status ≠ Status.pagedOut ∧ (d.reg 3).exportKey = none ∧ d.jobOps 0 = false ∧
     ((seen (jobDev { st := .ending, status := Status.pagedOut, export_ := true } 0)).job 0).status = Status.pagedOut) ∧
    (let d := seen (jobDev { st := .ending } 0 { memDev with engines := [(0, { ops := [{ id := 1, origin := .job 0, act := .convert none, addr := 0, part := 0, region := 3 }] })] })
     d.jobOps 0 = true) ∧
    (seen memDev).job 0 = {} ∧ ({} : Job).st = .free ∧
    (∀ now ∈ [2999999, 3000000], ∀ x ∈ [true, false], let d := seen (jobDev { st := .running, stalled := x } 2) now
     (d.job 0).st ≠ .free ∧ (d.job 0).stalled = x ∧ ((d.job 0).lastReport + 3000000 ≤ d.time ↔ now = 3000000)) ∧
    (∀ x ∈ [true, false], let d := seen (jobDev { st := .running, stalled := x } 2) 3000000
     d.starved 0 = false ∧ (d.job 0).lastReport + 3000000 ≤ d.time ∧ (d.job 0).stalled = x) ∧
    (seen (jobDev { st := .running } 1)).starved 0 = true ∧
    (seen memDev).reset.status ≠ 2 ∧ islandDomain .k8 0x10 = some 8 ∧ (seen memDev).powered 8 = true ∧ islandDomain .k8 0x14 = none ∧
    islandDomain .k8 0x41 = some 13 ∧ islandDomain .k8 0x42 = none ∧
    (seen { memDev with power := { domains := [(8, { st := .turningOff })] } }).powered 8 = false := by
  and_intros <;> decide +kernel

/-- A host request under tag 7. -/
def hostReq7 (write issued : Bool) (u : HostUse) : HostReq :=
  { tag := 7, write := write, inst := 1, addr := 0x5000, length := 4, data := [1, 2, 3, 4], issued := issued, use := u }
def hostDev (write issued : Bool) (u : HostUse) : Dev :=
  { (withFlight base 0 (fl .running 0)) with host := { reqs := [hostReq7 write issued u] } }
theorem test_met_HostPathAnswersServeRequests :
    (seen base).hostReq 7 false = none ∧ (seen base).hostReq 7 true = none ∧
    (seen (hostDev false true (.pageIn 0 9 3))).hostReq 7 false = some (hostReq7 false true (.pageIn 0 9 3)) ∧
    (let d := seen (hostDev true true (.save 0 9 1 []))
     d.hostReq 7 true = some (hostReq7 true true (.save 0 9 1 [])) ∧ d.flight 0 9 = some (fl .running 0) ∧ (fl .running 0).stage = .running) ∧
    (∀ u ∈ [HostUse.attest 0 9, .pageOut 0 9 3 1, .exportRecord 0, .attic], (seen (hostDev true true u)).hostReq 7 true = some (hostReq7 true true u)) ∧
    (∀ u ∈ [HostUse.attest 0 9, .pageOut 0 9 3 1, .exportRecord 0, .attic], ∀ t w n x, u ≠ .save t w n x) ∧
    (seen base).host.xlat.contains 5 = false ∧ ((seen { base with reset := {} }).reset.frozen = false ∧ (seen { base with reset := {} }).ready = false) ∧
    (∀ w ∈ [true, false], let r := hostReq7 w false (if w then .attic else .pageIn 0 9 3)
     let d := seen { base with host := { reqs := [r], xlat := [5] } }
     d.host.xlat.contains 5 = true ∧ d.host.reqs = [r] ∧ r.issued = false ∧ hostPages r.addr r.length = [5] ∧
     d.host.invalidating.contains 5 = false) ∧
    (seen base).host.invalidating.contains 5 = false ∧ (seen { (hostDev true true .attic) with kind := .k8 }).pageInUse 5 = true ∧
    (let d := seen { base with host := { invalidating := [5] } }
     d.host.invalidating.contains 5 = true ∧ d.pageInUse 5 = false ∧ d.host.reqs = []) := by
  and_intros
  any_goals first | decide +kernel | (intro u hu t w n x h; subst h; simp at hu)


/-! ## Hypotheses met: partitions, mailboxes, counters, units, power, boots -/

def stPart (st : PState) (tdi : TdiState := .unlocked) : Dev := base.onPart 7 fun p => { p with st := st, tdi := tdi }
theorem test_met_PartitionsEnableDisableAndReset :
    (seen base).managerMay mgrReq ∧ 7 < Kind.parts base.kind ∧
    (∀ st ∈ [PState.disabled, .enabled, .bound, .frozen, .resetting], ((seen (stPart st)).part 7).st = st ∧ ((seen (stPart st)).part 7).tdi = .unlocked) ∧
    (∀ t ∈ [TdiState.locked, .run, .error], ((seen (stPart .enabled t)).part 7).tdi ≠ .unlocked) ∧
    (seen (stPart .resetting)).partBusy 7 = false ∧
    (seen { (stPart .resetting) with engines := [(0, { ops := [{ id := 1, origin := .stream 9 1, act := .read false, addr := 0, part := 7, region := 3 }] })] }).partBusy 7 = true := by
  unfold Dev.managerMay; and_intros <;> decide +kernel

/-- A header that would post, with a length and a reserved byte. -/
def mbxHeader (len rsv : Nat) : BitVec 128 := BitVec.ofNat 128 (2 ^ 63 + len * 2 ^ 48 + rsv * 2 ^ 32)
theorem test_met_MailboxesPostTakeAndConsent :
    (let d := seen base
     d.ready = true ∧ (d.part 0).bound = true ∧ d.ownerMay (partReq 0) 0 ∧ d.managerMay mgrReq ∧ d.hall.mbxSelect = 0 ∧
     (d.part 0).mbxFull true 15 = false ∧ (d.part 0).mbxFull false 15 = false ∧ tget d.intc.asserted 0 82 = 0 ∧ tget d.intc.asserted 0 16 = 0) ∧
    ((mbxHeader 240 0).getLsbD 63 = true ∧ (mbxHeader 240 0).toNat / 2 ^ 48 % 2 ^ 8 ≤ 240 ∧ (mbxHeader 240 0).toNat / 2 ^ 56 % 2 ^ 7 = 0 ∧
     (mbxHeader 240 0).toNat / 2 ^ 32 % 2 ^ 8 = 0) ∧
    ((mbxHeader 241 0).getLsbD 63 = true ∧ ¬ ((mbxHeader 241 0).toNat / 2 ^ 48 % 2 ^ 8 ≤ 240)) ∧
    ((mbxHeader 0 1).getLsbD 63 = true ∧ (mbxHeader 0 1).toNat / 2 ^ 32 % 2 ^ 8 ≠ 0) ∧ (0#128).getLsbD 63 = false ∧
    (∀ o ∈ [true, false], let d := seen (base.onPart 0 fun p => { p with mbx := [(mbxKey o 15 0, BitVec.ofNat 64 (2 ^ 63))] })
     (d.part 0).mbxFull o 15 = true ∧ (d.part 0).bound = true) ∧
    ((BitVec.ofNat 64 (2 ^ 35 - 1) : Word).toNat / 2 ^ 35 % 2 ^ 28 = 0 ∧ (BitVec.ofNat 64 (2 ^ 63) : Word).toNat / 2 ^ 35 % 2 ^ 28 = 0) ∧
    ((BitVec.ofNat 64 (2 ^ 35) : Word).toNat / 2 ^ 35 % 2 ^ 28 ≠ 0 ∧ (BitVec.ofNat 64 (2 ^ 62) : Word).toNat / 2 ^ 35 % 2 ^ 28 ≠ 0) := by
  unfold Dev.managerMay Dev.ownerMay; and_intros <;> decide +kernel

theorem test_met_CountersAndAtticRecordsAreRead :
    (seen base).ownerMay (partReq 0) 0 ∧ 0 < (seen base).nparts ∧ (seen base).managerMay mgrReq ∧ ((seen base).part 0).latched = none ∧
    ((seen (base.onPart 0 fun p => { p with latched := some (0, []) })).part 0).latched = some ((seen base).time, []) ∧
    ((seen (base.onPart 0 fun p => { p with latched := some (0, []) }) 1).time ≠ 0) ∧
    ((seen base).count.snaps = 0 ∧ (seen { base with count := { snaps := 1 } }).count.snaps ≠ 0 ∧
      (seen { base with count := { snaps := 1 } }).count.time = (seen base).time) ∧
    (let d := seen { base with attic := { queue := [{}], ctrl := 1 } }
     d.attic.queue = [{}] ∧ d.attic.ctrl.getLsbD 1 = false ∧ d.powered 3 = true) ∧
    ((seen base).attic.queue = [] ∧ (2#3).getLsbD 1 = true) ∧
    (∀ h ∈ [127, 128], let d := seen { base with attic := { head := h, ctrl := 5 } }
     d.ready = true ∧ d.attic.ctrl.getLsbD 2 = true ∧ d.powered 3 = true ∧ d.attic.head ≤ 65536 ∧ d.attic.skipped < 2 ^ 32 ∧
     (128 * (d.attic.nextBlock + 1) ≤ d.attic.head ↔ h = 128)) ∧
    ((seen base).attic.ctrl.getLsbD 2 = false) ∧
    ((seen { base with power := { domains := [(3, { st := .off })] } }).powered 3 = false) := by
  unfold Dev.managerMay Dev.ownerMay; and_intros <;> decide +kernel

theorem test_met_FailingUnitsAreMappedOut :
    base.reset.frozen = false ∧ unitPresent .k8 (.memLane 3 61) = true ∧ unitPresent .k8 (.memLane 3 62) = false ∧
    (seen { base with power := { domains := [(11, { st := .off })] } }).unitOn (.memLane 3 61) = false ∧
    (seen base).powered ((seen base).engDomain 3) = true ∧ 61 < 60 + Kind.memSpares .k8 ∧
    (∀ n ∈ [0, 1], let d := seen { base with engines := [(3, { lanes := 60, sparesLeft := BitVec.ofNat 3 n, spareWays := BitVec.ofNat 2 n })] }
     ((d.eng 3).sparesLeft ≠ 0 ↔ n = 1) ∧ (d.eng 3).lanes ≠ 0 ∧ ((d.eng 3).spareWays ≠ 0 ↔ n = 1) ∧ (d.eng 3).workingWays ≠ 0) ∧
    (∀ x ∈ [true, false], let d := seen { base with ports := [(7, { txLanes := 0xFF, txSpare := x })] }
     7 < Kind.ports d.kind ∧ d.powered (d.portDomain 7) = true ∧ (d.port 7).txLanes.getLsbD 7 = true ∧ (d.port 7).txSpare = x) ∧
    (seen base).managerMay mgrReq := by
  unfold Dev.managerMay; and_intros <;> decide +kernel

/-- A way that leaves with and without entries; parity failures of engine 3 in the last second; the parts an upset may strike. -/
theorem test_met_FailingUnitsAreMappedOut_upsets :
    (∀ p ∈ [[], [tagEntry]], let d := seen { base with engines := [(3, { pantry := p, workingWays := 32, spareWays := 0 })] }
     (d.eng 3).spareWays = 0 ∧ (d.eng 3).leavingWays < (d.eng 3).workingWays.toNat ∧ (d.eng 3).workingWays ≠ 0 ∧ d.reset.status ≠ 2 ∧ d.quiet = true ∧
     (d.engines.all fun x => x.2.ops.isEmpty) = true ∧ ((d.eng 3).pantry = [] ↔ p = [])) ∧
    (∀ n ∈ [2, 3], let d := seen { base with cellar := { checkTimes := [(0x13, List.replicate n 0)] } } 1000000000
     let before := (tget d.cellar.checkTimes [] (0x10 + 3)).filter fun t => decide (d.time ≤ t + 1000000000)
     before.length = n ∧ d.reset.status ≠ 2) ∧
    (let d := seen { base with cellar := { checkTimes := [(0x13, List.replicate 3 0)] } } 1000000001
     ((tget d.cellar.checkTimes [] (0x10 + 3)).filter fun t => decide (d.time ≤ t + 1000000000)).length < 3) ∧
    unitPresent .k8 (.upset (.symbol 3)) = true ∧ unitPresent .k8 (.upset (.symbol 4)) = false ∧ unitPresent .k8 (.upset .manager) = true ∧
    unitPresent .k8 (.upset (.copy 3 true true 3071)) = true ∧ unitPresent .k8 (.upset (.copy 3 true true 3072)) = false ∧
    unitPresent .k8 (.upset (.copy 3 false false 47)) = true := by
  and_intros <;> decide +kernel

/-- Domain n in a state, its request as given. -/
def powerDev (n : Nat) (p : PDomain) (req : BitVec 28 := BitVec.allOnes 28) : Dev := { base with power := { domains := [(n, p)], req := req } }
theorem test_met_PowerDomainsSwitchOnAcknowledgement :
    (∀ n ∈ [3, 4, 8, 13], Kind.switchable .k8 n = true ∧ n < Kind.domains .k8 ∧ ((seen base).pdom n).st = .on ∧ (seen base).power.req.getLsbD n = true ∧
      (seen base).offAllowed n = true) ∧
    (seen base).managerMay mgrReq ∧ (∀ n ∈ [0, 2, 5, 7], Kind.switchable .k8 n = false ∧ n < Kind.domains .k8) ∧
    (seen { base with ports := [(7, { up := true })] }).offAllowed 13 = false ∧
    (∀ n ∈ [3, 8, 13], ((seen (powerDev n { st := .off } 0)).pdom n).st = .off ∧ (seen (powerDev n { st := .off } 0)).power.req.getLsbD n = false ∧
      ((seen (powerDev n { st := .turningOff } 0)).pdom n).st = .turningOff ∧ ((seen (powerDev n { st := .turningOn })).pdom n).st = .turningOn) ∧
    (seen (powerDev 8 { st := .turningOn })).canDraws 2 = true ∧
    (seen { (powerDev 8 { st := .turningOn }) with larder := { drbg := { st := .ready, seeded := true, sinceReseed := 65535 } } }).canDraws 2 = false := by
  unfold Dev.managerMay; and_intros <;> decide +kernel

theorem test_met_ClocksBudgetsAndLinkRecords_loops :
    (∀ n ∈ [8, 13], laneIsland .k8 n = true ∧ (seen base).powered n = true ∧ n < Kind.domains .k8) ∧
    (∀ x ∈ [(81, 0), (0, 51)], 80 < x.1 ∨ 50 < x.2) ∧
    (let p := ((seen (powerDev 8 { point := 1 })).pdom 8)
     p.point ≠ 0 ∧ p.aim = none) ∧
    ((seen (powerDev 8 {})).pdom 8).point = 0 ∧
    (∀ l ∈ [48, 49], let p := ((seen (powerDev 8 { point := 2, lows := l })).pdom 8)
     p.aim = none ∧ p.point ≠ 3 ∧ 49 * (100 - 20 * p.point.toNat) < 75 * (100 - 20 * (p.point + 1).toNat) ∧ (49 ≤ p.lows ↔ l = 49) ∧ p.point < p.floor ∧
     ¬ (80 < 49 ∨ 50 < 50)) ∧
    (¬ (80 < 80 ∨ 50 < 50) ∧ ¬ (80 * 100 < 75 * 80)) ∧
    ((seen (powerDev 8 { point := 2, aim := some 1 })).pdom 8).aim = some 1 ∧
    ((seen base).power.spread = true ∧ (seen (powerDev 8 { st := .off })).powered 8 = false ∧
      (seen { base with power := { spread := false } }).power.spread = false) ∧
    (seen base).managerMay mgrReq := by
  unfold Dev.managerMay; and_intros <;> decide +kernel
theorem test_met_ClocksBudgetsAndLinkRecords_budget :
    ((seen base).lc = .deployed ∧ (seen { base with mgmt := { lcWord := 0 } }).lc = .manufacture ∧ (seen { base with mgmt := { lcWord := 7 } }).lc = .debug) ∧
    ((seen { base with power := { word := some 5, tokens := 9 } }).power.word = some 5 ∧ (seen base).power.word = none ∧
      (seen base).power.unlimited = false) ∧
    (∀ e ∈ [0, 1000000], let d := seen { base with thresh := { jobs := [(63, { st := .running, epochPassed := e })] } }
     (d.job 63).st = .running ∧ (d.job 63).urgent = false ∧
     ((d.job 63).epochPassed * unitBytes .rekey * 16 < d.jobRate .rekey * 100000 * Kind.engines d.kind ↔ e = 0) ∧ 0 < d.power.ageLimit) ∧
    ((seen base).job 0).st = .free ∧ (255#10).toNat / 32 < Kind.ports .k8 ∧ ¬ (256#10).toNat / 32 < Kind.ports .k8 := by
  and_intros <;> decide +kernel

def phaseDev (p : BootPhase) (r : Reset := {}) : Dev := { base with reset := { r with phase := p } }
/-- The generator before its start-up test, and after one that failed. -/
def unseeded (st : DrbgState) : Larder := { drbg := { st := st, draws := 7 } }
/-- Boot items that hold one patch image, then the end. -/
def patchItem (b : Bytes) : Bytes := natLe 4 1 ++ natLe 4 b.length ++ b ++ List.replicate 8 0
theorem test_met_BootsAndResetsClearAndServe :
    (∀ p ∈ [BootPhase.none, .cold, .warm, .warmDone], (seen (phaseDev p)).reset.phase = p ∧ (seen (phaseDev p)).reset.frozen = false) ∧
    bootItems (8 + 1) (List.replicate 8 0) = ([], true) ∧
    bootItems ((patchItem [7]).length + 1) (patchItem [7]) = ([(1, [7])], true) ∧ (seen (phaseDev .warm)).mgmt.patch = 0 ∧
    (seen (phaseDev .none)).reset.request ≠ some 3 ∧ (seen (phaseDev .warmDone { frozen := true })).reset.frozen = true ∧
    (∀ x ∈ [true, false], (seen (phaseDev .warmDone { boardedEnd := x })).reset.boardedEnd = x) ∧ (seen (phaseDev .warmDone)).cellar.boarded = false ∧
    (let d := seen { (phaseDev .cold) with larder := unseeded .instantiating }
     d.reset.phase = .cold ∧ d.larder.drbg.seeded = false ∧ d.larder.drbg.st = .instantiating ∧ d.larder.subst = [] ∧ (d.slot 3).retired = false ∧
     (d.slot 4).retired = false ∧ d.reset.staged = false ∧ d.reset.status = 0 ∧ d.lc ≠ .retired) ∧
    (∀ p ∈ [BootPhase.cold, .warm], let d := seen { (phaseDev p) with larder := unseeded .healthHold }
     d.reset.phase = p ∧ d.larder.drbg.seeded = false ∧ d.larder.drbg.st ≠ .instantiating) ∧
    ((seen (phaseDev .cold)).larder.drbg.seeded = true ∧ (seen (phaseDev .warm)).larder.drbg.seeded = true) ∧
    ((seen { (phaseDev .warmDone) with mgmt := { coldNeeded := true } }).mgmt.coldNeeded = true ∧ (seen (phaseDev .warmDone)).mgmt.coldNeeded = false ∧
      (seen (phaseDev .warmDone)).lc ≠ .retired) ∧
    (seen base).managerMay mgrReq ∧ (seen base).mgmt.i3c = false ∧ (seen { base with mgmt := { i3c := true } }).mgmt.i3c = true := by
  unfold Dev.managerMay; and_intros <;> decide +kernel
theorem test_met_BootsAndResetsClearAndServe_patch : patchOk [] = false := by decide +kernel
/-- Image bytes of a patch whose header is right, but for the ROM's version: what is left are it and the two signatures. -/
def patchImage : Bytes := [0x4B, 0x50, 0x41, 0x54, 1, 0, 5, 9] ++ natLe 4 16 ++ List.replicate 4743 0
theorem test_met_BootsAndResetsClearAndServe_patchOk (hv : Config.romVersion.toNat = leAt patchImage 7 1)
    (h1 : Config.p384Verify Config.patchP384 (slice patchImage 0 32) (slice patchImage 32 96) = true)
    (h2 : Config.mldsaVerify Config.patchMldsa [] (slice patchImage 0 32) (slice patchImage 128 4627) = true) : patchOk patchImage = true := by
  have e : leAt patchImage 8 4 = 16 := by decide +kernel
  unfold patchOk
  rw [e]
  simp only [hv, h1, h2, Bool.and_true]
  decide +kernel


/-! ## Hypotheses met: the Vault -/

/-- The Vault with the manager's row 9 running, reserved slots 1, 3 and 5 filled, its base region in slot 3 loading. -/
def vDev (v : Vault) : Dev :=
  let d := withFlight base 8 (fl .running 0)
  { d with vault := v, regions := [(3, { reg3 with thread := 8, kind := 1, loadLocked := true })],
           larder := { d.larder with slots := [(1, { key := 8, st := 3 }), (3, { key := 9, st := 3 }), (5, { key := 9, st := 3 })] } }
def awaits (purpose : Nat) (a : VAwait) (seq : Nat) : Vault := { st := .opening, await := a, purpose := purpose, seqIn := seq, req := { row := some (8, 9) } }

theorem test_met_VaultFramesOpenTheLink_wrong :
    (∀ k ∈ [(2, VAwait.ident), (3, .proof), (6, .pairOk), (8, .manifest), (10, .key), (12, .shard), (15, .progOk)],
      let d := seen (vDev (awaits 0 k.2 0))
      leAt [] 0 1 ≠ k.1 ∧ leAt [BitVec.ofNat 8 k.1] 0 1 = k.1 ∧ d.vault.st ≠ .closed ∧ d.powered 4 = true ∧ d.ready = true ∧
      d.vault.body [BitVec.ofNat 8 k.1] k.1 none = none ∧ d.flight 8 9 = some (fl .running 0)) ∧
    (seen (vDev {})).vault.st = .closed ∧ (seen { (vDev {}) with power := { domains := [(4, { st := .off })] } }).powered 4 = false ∧
    (seen { (vDev {}) with reset := {} }).ready = false := by
  and_intros <;> decide +kernel

theorem slice_front (h b : Bytes) (i n : Nat) (hi : i + n ≤ h.length) : slice (h ++ b) i n = slice h i n := by
  have e : ((h ++ b).drop i).take n = (h.drop i).take n := by
    rw [List.drop_append_of_le_length (by omega), List.take_append_of_le_length (by rw [List.length_drop]; omega)]
  unfold slice
  rw [e]
/-- A frame whose sixteen bytes of header are right and that has no trailer is taken with the rest as its body. -/
theorem bare_body (v : Vault) (kind len : Nat) (h b : Bytes) (hl : b.length = len) (hh : h.length = 16)
    (e : leAt h 1 1 = 1 ∧ zeroAt h 2 2 = true ∧ leAt h 4 4 = len ∧ leAt h 8 8 = v.seqIn) : v.body (h ++ b) kind none = some b := by
  have es : slice (h ++ b) 16 len = b := by
    unfold slice
    rw [← hh, List.drop_left, ← hl, List.take_length]
    show b ++ List.replicate (b.length - b.length) 0 = b
    rw [Nat.sub_self]
    exact List.append_nil b
  have en : (h ++ b).length = 16 + len := by rw [List.length_append, hh, hl]
  obtain ⟨e1, e2, e4, e8⟩ := e
  have f1 : leAt (h ++ b) 1 1 = 1 := by unfold leAt; rw [slice_front _ _ _ _ (by omega)]; exact e1
  have f2 : zeroAt (h ++ b) 2 2 = true := by unfold zeroAt; rw [slice_front _ _ _ _ (by omega)]; exact e2
  have f4 : leAt (h ++ b) 4 4 = len := by unfold leAt; rw [slice_front _ _ _ _ (by omega)]; exact e4
  have f8 : leAt (h ++ b) 8 8 = v.seqIn := by unfold leAt; rw [slice_front _ _ _ _ (by omega)]; exact e8
  unfold Vault.body
  rw [f4, f8]
  simp only [f1, f2, es, en]
  cases bareKind kind <;> simp

/-- An IDENT of an epoch and a life used, its chains empty. -/
def identBody (epoch life : Nat) : Bytes := List.replicate 16 0 ++ natLe 2 life ++ natLe 2 epoch ++ List.replicate 6432 0
theorem ident_length (e l : Nat) : (identBody e l).length = 6452 := by
  show (List.replicate 6432 (0 : Byte)).length + 20 = 6452
  rw [List.length_replicate]
def identFrame (e l : Nat) : Bytes := ([2, 1, 0, 0] ++ natLe 4 6452 ++ natLe 8 0) ++ identBody e l
theorem ident_taken (v : Vault) (e l : Nat) (h0 : v.seqIn = 0) (ho : v.st ≠ .closed) (ha : v.await = .ident) :
    (seen (vDev v)).frameTaken (identFrame e l) 0x02 .ident none (identBody e l) := by
  refine ⟨?_, ho, by rfl, by rfl, bare_body v 2 6452 _ _ (ident_length e l) (by decide +kernel) ?_, ha⟩
  · unfold identFrame leAt; rw [slice_front _ _ _ _ (by decide +kernel)]; decide +kernel
  · rw [h0]; decide +kernel
theorem ident_fields : ∀ x ∈ [(0, 0), (1, 0), (0xFFFD, 0), (0xFFFE, 0), (0xFFFF, 0), (1, 30000), (1, 30001)], let b := identBody x.1 x.2
    leAt b 56 4 = 0 ∧ leAt b 60 4 = 0 ∧ zeroAt b 22 2 = true ∧ leAt b 8 4 = 0 ∧ leAt b 18 2 = x.1 := by decide +kernel
/-- The chains and the two signatures of an IDENT, which Config leaves open, hold. -/
def identSigned (v : Vault) (b : Bytes) : Prop :=
  let keys := Config.vaultLeafKeys [] []
  Config.vaultChainsOk [] [] = true ∧ Config.p384Verify keys.1 (keyBytes v.nK ++ b.take 1729) (slice b 1729 96) = true ∧
    Config.mldsaVerify keys.2 [0x6B, 0x65, 0x72, 0x72, 0x65, 0x2D, 0x76, 0x61, 0x75, 0x6C, 0x74] (keyBytes v.nK ++ b.take 1729) (slice b 1825 4627) = true
theorem ident_ok (v : Vault) (e l : Nat) (hx : (e, l) ∈ [(0, 0), (1, 0), (0xFFFD, 0), (0xFFFE, 0), (0xFFFF, 0), (1, 30000), (1, 30001)])
    (h : identSigned v (identBody e l)) : (seen (vDev v)).identOk (identBody e l) = true := by
  obtain ⟨h1, h2, h3⟩ := h
  obtain ⟨e1, e2, e3, e4, -⟩ := ident_fields _ hx
  have s0 (b : Bytes) (i : Nat) : slice b i 0 = [] := rfl
  unfold Dev.identOk
  simp only [e1, e2, e3, e4, s0, ident_length, Nat.add_zero, Nat.reduceAdd, h1]
  rw [show (seen (vDev v)).vault = v from rfl, h2, h3]
  decide
theorem test_met_VaultFramesOpenTheLink_ident (h : ∀ e ∈ [0, 1, 0xFFFF], identSigned (awaits 0 .ident 0) (identBody e 0)) : ∀ e ∈ [0, 1, 0xFFFF],
    let d := seen (vDev (awaits 0 .ident 0))
    d.frameTaken (identFrame e 0) 0x02 .ident none (identBody e 0) ∧ d.vault.purpose = 0 ∧ d.identOk (identBody e 0) = true ∧
    (leAt (identBody e 0) 18 2 = e) ∧ ∃ k g, (d.onVault fun v => v.record (identBody e 0)).pairingKey 1 = some k ∧ d.setReserved 5 k Origin.derived 1 = some g := by
  intro e he
  refine ⟨ident_taken _ _ _ rfl (by decide) rfl, rfl, ident_ok _ _ _ ?_ (h e he), ?_, _, _, rfl, rfl⟩
  all_goals (simp at he; rcases he with rfl | rfl | rfl <;> decide +kernel)
theorem test_met_VaultPairsProgramsAndEnds_ident (h1 : ∀ e ∈ [0xFFFD, 0xFFFE], identSigned (awaits 1 .ident 0) (identBody e 0))
    (h2 : ∀ l ∈ [30000, 30001], identSigned (awaits 2 .ident 0) (identBody 1 l)) :
    (∀ e ∈ [0xFFFD, 0xFFFE], let d := seen (vDev (awaits 1 .ident 0))
     d.frameTaken (identFrame e 0) 0x02 .ident none (identBody e 0) ∧ d.identOk (identBody e 0) = true ∧ d.vault.purpose = 1 ∧
     leAt (identBody e 0) 18 2 = e ∧ d.canDraw = true ∧ ∃ k, (d.onVault fun v => v.record (identBody e 0)).pairingKey (e + 1) = some k) ∧
    (∀ l ∈ [30000, 30001], let v := { awaits 2 .ident 0 with imageLength := 1 }
     leAt (identBody 1 l) 18 2 ≠ 0 ∧ (v.record (identBody 1 l)).lifeAfter = l ∧ 0 < v.imageLength ∧
     (seen (vDev v)).frameTaken (identFrame 1 l) 0x02 .ident none (identBody 1 l) ∧ (seen (vDev v)).identOk (identBody 1 l) = true) := by
  refine ⟨fun e he => ?_, fun l hl => ?_⟩
  · refine ⟨ident_taken _ _ _ rfl (by decide) rfl, ident_ok _ _ _ ?_ (h1 e he), rfl, ?_, by decide +kernel, _, rfl⟩
    all_goals (simp at he; rcases he with rfl | rfl <;> decide +kernel)
  refine ⟨?_, ?_, by decide, ident_taken _ _ _ rfl (by decide) rfl, ident_ok _ _ _ ?_ (h2 l hl)⟩
  all_goals (simp at hl; rcases hl with rfl | rfl <;> decide +kernel)

/-- The storage keys of such a module are as Config has them: it pairs, waits while a reseed is due, or is refused. -/
def reseedDue : Dev := { (vDev (awaits 1 .ident 0)) with larder := { (vDev {}).larder with drbg := { st := .ready, seeded := true, sinceReseed := 65536 } } }
theorem test_met_VaultPairsProgramsAndEnds_waits : (seen reseedDue).canDraw = false ∧ (seen reseedDue).vault.await = .ident ∧ (seen reseedDue).ready = true ∧
    (recipientOk (storageKeys (identBody 0xFFFD 0)).1 (storageKeys (identBody 0xFFFD 0)).2 = true ∨
      recipientOk (storageKeys (identBody 0xFFFD 0)).1 (storageKeys (identBody 0xFFFD 0)).2 = false) := by
  refine ⟨by decide +kernel, by decide +kernel, by decide +kernel, ?_⟩
  cases recipientOk (storageKeys (identBody 0xFFFD 0)).1 (storageKeys (identBody 0xFFFD 0)).2 <;> simp

/-- The answer to a challenge of zeros under the pairing key 9: 66 bytes of zeros under HMAC-SHA-384. -/
def proofBody : Bytes := natBe 48 0x09ad5beedba4b0f7b89dd02e0854d144b6315bf227600eddf348d35d771b5f8f27c26445641512572166fb9aaaefc6f1
def proofFrame : Bytes := [3, 1, 0, 0] ++ natLe 4 48 ++ natLe 8 1 ++ proofBody
theorem proof_mac : hmac (keyBytes 9) (keyBytes 0 ++ keyBytes 0 ++ natLe 2 0) = proofBody := by decide +kernel
theorem test_met_VaultFramesOpenTheLink_proof : ∀ p ∈ [0, 3],
    let d := seen (vDev (awaits p .proof 1))
    d.frameTaken proofFrame 0x03 .proof none proofBody ∧ d.vault.purpose = p ∧ d.resKey 5 = some 9 ∧
    proofBody = hmac (keyBytes 9) (keyBytes d.vault.nK ++ keyBytes d.vault.nM ++ natLe 2 d.vault.sessions.toNat) ∧
    (d.setReserved 6 (linkKey 9 0) Origin.derived 0).isSome = true := by
  intro p hp
  refine ⟨?_, ?_, ?_, proof_mac.symm, rfl⟩
  · simp at hp; unfold Dev.frameTaken; rcases hp with rfl | rfl <;> decide +kernel
  all_goals (simp at hp; rcases hp with rfl | rfl <;> decide +kernel)

/-- The wrapped key of RFC 3394 in a KEY frame, its trailer under the wrapping key. -/
def keyFrame : Bytes := [10, 1, 0, 0] ++ natLe 4 40 ++ natLe 8 4 ++ rfcWrapped ++
  natBe 48 0x2e293f68c2c270669d344f62049059e61eb7337a1a265ff4674b1327d64aef542e7963066ef44d522fbdf2676da56c78
theorem test_met_VaultFramesOpenTheLink_key :
    let d := seen (vDev { awaits 0 .key 4 with trailer := some rfcKek })
    d.frameTaken keyFrame 0x0A .key d.vault.trailer rfcWrapped ∧ rfcWrapped.length = 40 ∧ d.vault.trailer = some rfcKek ∧
    (∃ k, kwUnwrap rfcKek rfcWrapped = some k) ∧ d.vault.req.row = some (8, 9) ∧ d.flight 8 9 = some (fl .running 0) ∧ (fl .running 0).stage = .running := by
  refine ⟨?_, by decide +kernel, rfl, ⟨_, test_kw_rfc3394⟩, rfl, by decide +kernel, rfl⟩
  unfold Dev.frameTaken; and_intros <;> decide +kernel

/-- A manifest of one image of 160 bytes in one shard. -/
def manifestBody : Bytes := [0x4B, 0x4D, 0x41, 0x4E, 1, 0, 1, 0] ++ natLe 8 5 ++ natLe 4 1 ++ List.replicate 4588 0 ++ natLe 8 160 ++ natLe 4 0 ++
  natLe 4 1 ++ List.replicate 48 0 ++ List.replicate 4723 0
theorem manifest_length : manifestBody.length = 9395 := by
  simp only [manifestBody, List.length_append, List.length_replicate]
  rfl
theorem test_met_VaultFramesOpenTheLink_manifest
    (h1 : Config.p384Verify (slice manifestBody 64 97) (manifestBody.take 4672) (slice manifestBody 4672 96) = true)
    (h2 : Config.mldsaVerify (slice manifestBody 161 2592) [0x6B, 0x65, 0x72, 0x72, 0x65, 0x2D, 0x6D, 0x61, 0x6E, 0x69, 0x66, 0x65, 0x73, 0x74]
      (manifestBody.take 4768) (slice manifestBody 4768 4627) = true) :
    (seen (vDev (awaits 0 .manifest 0))).frameTaken (([8, 1, 0, 0] ++ natLe 4 9395 ++ natLe 8 0) ++ manifestBody) 0x08 .manifest none manifestBody ∧
      manifestOk manifestBody = true := by
  refine ⟨⟨?_, by decide, by rfl, by rfl, bare_body (awaits 0 .manifest 0) 8 9395 _ _ manifest_length (by decide +kernel) (by decide +kernel), rfl⟩, ?_⟩
  · unfold leAt; rw [slice_front _ _ _ _ (by decide +kernel)]; decide +kernel
  have e : leAt manifestBody 6 2 = 1 := by decide +kernel
  unfold manifestOk
  simp only [e, manifest_length]
  rw [h1]
  simp only [List.cons_append, List.nil_append, h2]
  decide +kernel

/-- PAIR_OK without a body, its trailer under the new pairing key 7. -/
def pairOkFrame : Bytes := [6, 1, 0, 0] ++ natLe 4 0 ++ natLe 8 2 ++
  natBe 48 0x2ac4da492ba2b9f4dc72bea432b69ac19086d63416cc283c820f6244f5fbf6e7943cf579129032d0b14a790e0f3b9ec5
theorem test_met_VaultPairsProgramsAndEnds_frames :
    (let d := seen (vDev { awaits 1 .pairOk 2 with newPair := 7 })
     d.frameTaken pairOkFrame 0x06 .pairOk (some 7) [] ∧ d.vault.newPair = 7 ∧ (d.setReserved 5 7 Origin.derived 1).isSome = true) ∧
    (let b : Bytes := natLe 4 3 ++ natLe 2 30000
     (seen (vDev (awaits 2 .progOk 2))).frameTaken ([15, 1, 0, 0] ++ natLe 4 6 ++ natLe 8 2 ++ b) 0x0F .progOk none b ∧ b.length = 6) ∧
    (∀ x ∈ [(1 : Byte), 2, 3], ∀ a ∈ [VAwait.none, .key], let d := seen (vDev (awaits 0 a 2))
     d.frameTaken ([31, 1, 0, 0] ++ natLe 4 1 ++ natLe 8 2 ++ [x]) 0x1F d.vault.await d.vault.trailer [x]) ∧
    ((seen (vDev {})).vault.await = .none ∧ (∀ now ∈ [9999999, 10000000], let d := seen (vDev (awaits 0 .key 0)) now
     d.vault.await ≠ .none ∧ d.vault.await ≠ .shard ∧ (d.vault.since + 10000000 ≤ d.time ↔ now = 10000000))) := by
  unfold Dev.frameTaken; and_intros <;> decide +kernel

def load3 : VLoad := { thread := 8, row := 9, region := 3, handle := 0, entry := 0, cookie := 0, replace := false }
/-- The link open, or loading the one shard of the manifest's entry as the cnt-th of its entry. -/
def loadVault (st : VState) (cnt retries : Nat) : Vault :=
  { st := st, await := if st = .loading then .shard else .none, seqIn := 2, loads := [load3], loadRunning := st = .loading, retries := retries, contentKey := 6,
    manifest := List.replicate 8 0 ++ natLe 8 5 ++ List.replicate 4592 0 ++ natLe 8 160 ++ natLe 4 0 ++ natLe 4 cnt ++ List.replicate 48 0 }
def shardAad : Bytes := natLe 8 5 ++ natLe 2 0 ++ [0, 0] ++ natLe 4 0 ++ natLe 4 160 ++ [0, 0, 0, 0]
/-- SHARD_DATA for a shard number, its tag right or with its last byte changed. -/
def shardBody (k : Nat) (x : Byte) : Bytes :=
  let (c, t) := gcmSeal 6 (natBe 8 5 ++ natBe 4 0) shardAad (List.replicate 160 4)
  natLe 4 k ++ [0, 0, 0, 0] ++ c ++ t.dropLast ++ [t.getLast?.getD 0 + x]
theorem test_met_VaultLoadsTakeTheirShards :
    (let d := seen (vDev (loadVault .open_ 1 0))
     d.vault.loads = [load3] ∧ d.vault.loadRunning = false ∧ d.vault.st = .open_ ∧ d.vault.await = .none ∧ d.powered 4 = true ∧ d.engines = [] ∧
     d.larder.baseSeq < 2 ^ 32 ∧ d.resKey 3 = some 9) ∧
    (∀ cnt ∈ [1, 2], ∀ x ∈ [(0 : Byte), 1], let d := seen (vDev (loadVault .loading cnt (if x = 0 then 0 else 1 + cnt)))
     let b := shardBody 0 x
     d.frameTaken ([12, 1, 0, 0] ++ natLe 4 184 ++ natLe 8 2 ++ b) 0x0C .shard none b ∧ d.vault.loads = [load3] ∧ d.vault.loadRunning = true ∧
     leAt b 0 4 = entryFirst (entryOf d.vault.manifest 0) + d.vault.shardNext ∧ zeroAt b 4 4 = true ∧ d.vault.shardLength 0 = 160 ∧ b.length = 184 ∧
     entryCount (entryOf d.vault.manifest 0) = cnt ∧ leAt d.vault.manifest 8 8 = 5 ∧
     (gcmOpen 6 (natBe 8 5 ++ natBe 4 0) shardAad (slice b 8 160) (slice b 168 16)).map List.length = (if x = 0 then some 160 else none)) ∧
    leAt (shardBody 1 0) 0 4 ≠ 0 ∧ ((seen (vDev (loadVault .loading 1 2))).vault.retries < 3 ∧ 3 ≤ (seen (vDev (loadVault .loading 2 3))).vault.retries) := by
  unfold Dev.frameTaken; and_intros <;> decide +kernel

end Sys2Proof.Tests
end

section
/-! The register port: which sizes and alignments of an access it takes (R26, R36), and what it answers for a window whose island is
off (R35). -/

namespace Sys2Proof.Machine

/-! ## Sizes and alignments (R26, R36) -/

/-- The check of the size, as the listed sizes: 64 bits, or 128 bits of a write. -/
theorem listedSize_iff {write : Bool} {size : Nat} :
    (!(size = 8 || (write && size = 16))) = false ↔ size = 8 ∨ write = true ∧ size = 16 := by
  simp only [Bool.not_eq_false', Bool.or_eq_true, Bool.and_eq_true, decide_eq_true_eq]

/-- SIZE comes first in R36's order: an access of a size that R26 does not list has this kind whatever else is wrong with it. -/
theorem Dev.portFault_of_unlisted_size {d : Dev} {r : Requester} {write : Bool} {off size : Nat}
    (hs : ¬ (size = 8 ∨ write = true ∧ size = 16)) : d.portFault r write off size = some .size := by
  unfold Dev.portFault
  rw [if_pos (Bool.of_not_eq_false (mt listedSize_iff.mp hs))]

/-- ALIGN comes second. -/
theorem Dev.portFault_of_misaligned {d : Dev} {r : Requester} {write : Bool} {off size : Nat}
    (hs : size = 8 ∨ write = true ∧ size = 16) (ha : off % size ≠ 0) : d.portFault r write off size = some .align := by
  unfold Dev.portFault
  rw [if_neg (Bool.eq_false_iff.mp (listedSize_iff.mpr hs)), if_pos ha]

/-- What can still be wrong with an access of a listed size at its alignment: each later check of R36's order has a kind of its own. -/
theorem Dev.portFault_of_aligned {d : Dev} {r : Requester} {write : Bool} {off size : Nat}
    (hs : size = 8 ∨ write = true ∧ size = 16) (ha : off % size = 0) :
    d.portFault r write off size = none ∨
      ∃ f ∈ [PortFault.notReady, .unmapped, .denied, .rowHalf], d.portFault r write off size = some f := by
  unfold Dev.portFault
  rw [if_neg (Bool.eq_false_iff.mp (listedSize_iff.mpr hs)), if_neg (not_not_intro ha)]
  split
  · exact .inr ⟨.notReady, by simp, rfl⟩
  split
  · exact .inr ⟨.unmapped, by simp, rfl⟩
  split
  · exact .inr ⟨.denied, by simp, rfl⟩
  split
  · split
    · exact .inr ⟨.rowHalf, by simp, rfl⟩
    · exact .inl rfl
  · exact .inl rfl

/-- An access gets past the checks of SIZE and ALIGN exactly if its size is listed and its offset a multiple of that size. -/
theorem Dev.portFault_ne_size_align_iff {d : Dev} {r : Requester} {write : Bool} {off size : Nat} :
    (d.portFault r write off size ≠ some .size ∧ d.portFault r write off size ≠ some .align) ↔
      (size = 8 ∨ write = true ∧ size = 16) ∧ off % size = 0 := by
  constructor
  · rintro ⟨hsize, halign⟩
    have hs := Classical.not_not.mp (mt Dev.portFault_of_unlisted_size hsize)
    exact ⟨hs, Classical.not_not.mp (mt (Dev.portFault_of_misaligned hs) halign)⟩
  · rintro ⟨hs, ha⟩
    obtain hn | ⟨f, hf, he⟩ := Dev.portFault_of_aligned (d := d) (r := r) hs ha
    · simp [hn]
    · rw [he]
      constructor <;> rintro ⟨⟩ <;> simp at hf

/-! ## A window whose island is off (R35) -/

/-- A read that has no fault, of a window that is off, is answered with zero and nothing else. -/
theorem Dev.portRead_off {d : Dev} {r : Requester} {off size o : Nat} {w : Win} (hz : d.reset.frozen = false)
    (hf : d.portFault r false off size = none) (hw : windowOf d.kind off = some (w, o)) (hoff : d.windowOn w = false) :
    d.portRead r off size = d.emit (.regRead 0 false) := by
  simp [Dev.portRead, hz, hf, hw, hoff]

/-- A write that has no fault, of a window that is off, is answered and nothing else. -/
theorem Dev.portWrite_off {d : Dev} {r : Requester} {off size o : Nat} {w : Win} {v : BitVec 128} (hz : d.reset.frozen = false)
    (hf : d.portFault r true off size = none) (hw : windowOf d.kind off = some (w, o)) (hoff : d.windowOn w = false) :
    d.portWrite r off size v = d.emit (.regWrite false) := by
  simp [Dev.portWrite, hz, hf, hw, hoff]

/-- An answer of the port leaves a quiet block quiet. -/
theorem Dev.emit_quiet {d : Dev} (h : d.quiet = true) (o : Out) : (d.emit o).quiet = true := by
  have ht := Dev.quiet_tickets h
  exact Dev.quiet_of h rfl rfl rfl rfl rfl rfl rfl rfl rfl rfl ht

/-! ## The two accesses as commands -/

theorem exec_registerRead_eq_run (r : Requester) (off size now : Nat) (s : State) :
    exec (.registerRead r off size now) s = s.run now fun d => d.portRead r off size := rfl

theorem exec_registerWrite_eq_run (r : Requester) (off size : Nat) (v : BitVec 128) (now : Nat) (s : State) :
    exec (.registerWrite r off size v now) s = s.run now fun d => (d.portWrite r off size v).pump := rfl

end Sys2Proof.Machine
end

section
/-! The statements about accesses of the register port. -/

open Sys2Proof Sys2Proof.Machine

/-- Settles O10: SIZE and ALIGN are the first two checks of R36's order, and no later check gives their kind. -/
theorem accessSizesAndAlignments : Obligations.AccessSizesAndAlignments := by
  intro d r write off size
  rw [Dev.portFault_ne_size_align_iff]
  constructor
  · rintro (⟨rfl, ha⟩ | ⟨hw, rfl, ha⟩)
    · exact ⟨.inl rfl, ha⟩
    · exact ⟨.inr ⟨hw, rfl⟩, ha⟩
  · rintro ⟨rfl | ⟨hw, rfl⟩, ha⟩
    · exact .inl ⟨rfl, ha⟩
    · exact .inr ⟨hw, rfl, ha⟩

/-- Settles O12: the port answers without reaching the window, and in a quiet block nothing else goes on after the write. -/
theorem switchedOffWindowsReadZero : Obligations.SwitchedOffWindowsReadZero := by
  intro s r off size now o w val hz hq hw hoff
  dsimp only
  constructor
  · intro hf
    rw [exec_registerRead_eq_run]
    exact State.run_eq (Dev.portRead_off hz hf hw hoff) rfl rfl rfl
  · intro hf
    have he : ((s.at now).portWrite r off size val).pump = (s.at now).emit (.regWrite false) := by
      rw [Dev.portWrite_off hz hf hw hoff, Dev.pump_quiet (Dev.emit_quiet hq _)]
    rw [exec_registerWrite_eq_run]
    exact State.run_eq he rfl rfl rfl

end

section
/-! The end of a row: what its retirement leaves of the thread (R60, R62, R66, R231), what posting an event leaves (R65, R69), and the serial
order of cookies (R67). -/

namespace Sys2Proof.Machine

/-! ## The serial order of cookies (R67) -/

/-- How far cookie a is ahead of b, modulo 2^32. -/
theorem cookie_sub_toNat (a b : BitVec 32) : (a - b).toNat = (a.toNat + 2 ^ 32 - b.toNat) % 2 ^ 32 := by
  have hb := b.isLt
  rw [BitVec.toNat_sub]
  congr 1
  omega

theorem cookieAtOrAfter_iff (a b : BitVec 32) :
    cookieAtOrAfter a b = true ↔ (a.toNat + 2 ^ 32 - b.toNat) % 2 ^ 32 < 2 ^ 31 := by
  rw [← cookie_sub_toNat, cookieAtOrAfter, decide_eq_true_iff]

theorem cookieAfter_iff (a b : BitVec 32) :
    cookieAfter a b = true ↔ 1 ≤ (a.toNat + 2 ^ 32 - b.toNat) % 2 ^ 32 ∧ (a.toNat + 2 ^ 32 - b.toNat) % 2 ^ 32 < 2 ^ 31 := by
  rw [← cookie_sub_toNat]
  simp only [cookieAfter, Bool.and_eq_true, decide_eq_true_iff]

/-! ## Counters and interrupt sources

Retiring and posting end by adding to counters and asserting sources. What these leave alone is one relation, closed under composition. -/

/-- e is d but for counters and asserted sources: no thread, no guard bit of a partition, nothing outside the partitions, the global
counters and the interrupt controller differs. -/
structure Dev.Booked (d e : Dev) : Prop where
  frame : { e with parts := d.parts, count := d.count, intc := d.intc } = d
  addRange : ∀ m, (e.part m).addRange = (d.part m).addRange

theorem Dev.Booked.refl (d : Dev) : d.Booked d := ⟨rfl, fun _ => rfl⟩

theorem Dev.Booked.trans {d e f : Dev} (h1 : d.Booked e) (h2 : e.Booked f) : d.Booked f where
  frame := calc
    { f with parts := d.parts, count := d.count, intc := d.intc }
      = { { f with parts := e.parts, count := e.count, intc := e.intc } with parts := d.parts, count := d.count, intc := d.intc } := rfl
    _ = { e with parts := d.parts, count := d.count, intc := d.intc } := by rw [h2.frame]
    _ = d := h1.frame
  addRange m := (h2.addRange m).trans (h1.addRange m)

theorem Dev.Booked.ite {c : Prop} [Decidable c] {d e f : Dev} (he : d.Booked e) (hf : d.Booked f) : d.Booked (if c then e else f) := by
  split <;> assumption

theorem Dev.Booked.th {d e : Dev} (h : d.Booked e) (m : Nat) : e.th m = d.th m := by
  have hthreads := congrArg Dev.threads h.frame
  exact congrArg (tget · {} m) hthreads

theorem Dev.Booked.of_addCount (d : Dev) (n k v : Nat) : d.Booked (d.addCount n k v) := by
  unfold Dev.addCount
  split
  · refine ⟨rfl, fun m => ?_⟩
    by_cases hm : m = n
    · rw [hm, Dev.part_onPart_same]
    · rw [Dev.part_onPart_other _ _ _ _ hm]
  · exact .refl d

theorem Dev.Booked.of_addGlobal (d : Dev) (k v : Nat) : d.Booked (d.addGlobal k v) := ⟨rfl, fun _ => rfl⟩

theorem Dev.Booked.of_raise (d : Dev) (i : Nat) : d.Booked (d.raise i) := by
  unfold Dev.raise
  split
  · exact ⟨rfl, fun _ => rfl⟩
  · exact .refl d

theorem Dev.Booked.of_errorOf (d : Dev) (n : Nat) : d.Booked (d.errorOf n) := by
  unfold Dev.errorOf
  split
  · exact .of_raise d _
  · exact .refl d

@[simp] theorem Dev.addCount_count (d : Dev) (n k v : Nat) : (d.addCount n k v).count = d.count := by
  unfold Dev.addCount
  split <;> rfl

@[simp] theorem Dev.raise_count (d : Dev) (i : Nat) : (d.raise i).count = d.count := by
  unfold Dev.raise
  split <;> rfl

/-! ## Posting an event (R65 to R67, R69) -/

/-- The thread with an event of its in the FIFO: the entry, the cookie register and the job slot. -/
def Thread.withEvent (t : Thread) (n time : Nat) (p : Post) : Thread :=
  { t with
    fifo := t.fifo ++ [eventBits n p.row p.opcode p.status (p.cookie.getD t.cookie) time]
    cookie := if p.moves && cookieAfter (p.cookie.getD t.cookie) t.cookie then p.cookie.getD t.cookie else t.cookie
    jobs := if p.job then t.jobs - 1 else t.jobs }

/-- R67: an event that moves the register does so exactly if its cookie lies ahead in serial order. -/
theorem Thread.withEvent_cookie (t : Thread) (n time : Nat) (p : Post) :
    (t.withEvent n time p).cookie =
      if p.moves = true ∧ 1 ≤ ((p.cookie.getD t.cookie).toNat + 2 ^ 32 - t.cookie.toNat) % 2 ^ 32 ∧
        ((p.cookie.getD t.cookie).toNat + 2 ^ 32 - t.cookie.toNat) % 2 ^ 32 < 2 ^ 31
      then p.cookie.getD t.cookie else t.cookie := by
  simp only [Thread.withEvent, Bool.and_eq_true, cookieAfter_iff]

theorem Dev.postEvent_booked (d : Dev) (n : Nat) (p : Post) :
    (d.setTh n ((d.th n).withEvent n d.time p)).Booked (d.postEvent n p) :=
  (Dev.Booked.of_addCount _ n 14 1).trans (.of_raise _ _)

theorem Dev.postEvent_th_same (d : Dev) (n : Nat) (p : Post) : (d.postEvent n p).th n = (d.th n).withEvent n d.time p := by
  rw [(d.postEvent_booked n p).th, Dev.th_setTh_same]

theorem Dev.onTh_postEvent_th_other (d : Dev) (n : Nat) (f : Thread → Thread) (p : Post) {m : Nat} (h : m ≠ n) :
    ((d.onTh n f).postEvent n p).th m = d.th m := by
  rw [((d.onTh n f).postEvent_booked n p).th, Dev.th_setTh_other _ _ _ _ h, Dev.th_onTh_other _ _ _ _ h]

@[simp] theorem Dev.postEvent_count (d : Dev) (n : Nat) (p : Post) : (d.postEvent n p).count = d.count := by
  simp [Dev.postEvent]

/-- Posting an event, with a change of the thread before it, leaves everything but threads, partitions and the interrupt controller. -/
theorem Dev.onTh_postEvent_frame (d : Dev) (n : Nat) (f : Thread → Thread) (p : Post) :
    { (d.onTh n f).postEvent n p with threads := d.threads, parts := d.parts, intc := d.intc } = d := by
  have hb := congrArg (fun x : Dev => { x with threads := d.threads }) ((d.onTh n f).postEvent_booked n p).frame
  have hc : ((d.onTh n f).postEvent n p).count = d.count := by simp
  calc { (d.onTh n f).postEvent n p with threads := d.threads, parts := d.parts, intc := d.intc }
      = { (d.onTh n f).postEvent n p with threads := d.threads, parts := d.parts, count := d.count, intc := d.intc } := by rw [← hc]
    _ = d := hb

/-- The event of a row that has retired, while the FIFO has space. -/
theorem Dev.eventPost_eq {d : Dev} {n : Nat} {p : Post} {rest : List Post} (hr : d.ready = true) (hp : (d.th n).posts = p :: rest)
    (hf : (d.th n).fifo.length < 64) : d.eventPost n = (d.onTh n fun t => { t with posts := rest }).postEvent n p := by
  simp [Dev.eventPost, hp, hr, hf]

/-- A job event behind the row events, while the FIFO has space: it never moves the cookie register. -/
theorem Dev.jobEventPost_eq {d : Dev} {n : Nat} {p : Post} {rest : List Post} (hr : d.ready = true)
    (hj : (d.th n).jobEnds = p :: rest) (hp : (d.th n).posts = []) (hf : (d.th n).fifo.length < 64) :
    d.jobEventPost n = (d.onTh n fun t => { t with jobEnds := rest }).postEvent n { p with moves := false } := by
  simp [Dev.jobEventPost, hj, hp, hr, hf]

/-! ## Retirement (R60, R62, R66, R231) -/

/-- Opcodes whose event carries the step's own cookie, which may move the register (R67). -/
def Step.ownCookie (p : Step) : Bool := p.op = some .fence || p.op = some .event

/-- The event a row makes as it retires. -/
def Flight.retirePost (x : Flight) (st : Byte) : Post :=
  { row := x.row, opcode := BitVec.ofNat 8 (Step.of x.step).opcode, status := st
    cookie := if (Step.of x.step).ownCookie then some (BitVec.ofNat 32 (fld (Step.of x.step).d 0 32)) else none
    moves := (Step.of x.step).ownCookie }

/-- R66's rule, the opcodes that always post first. -/
theorem posts_eq_own_or (p : Step) (st : Byte) : posts p st = (p.op = some .fence || p.op = some .event || p.notify || st ≠ Status.done) := by
  rw [posts, Bool.or_assoc (_ || _), Bool.or_comm, ← Bool.or_assoc]

/-- The thread's oldest row was the last of those issued before it halts (R62). -/
def Thread.stopsWith (t : Thread) (rest : List Flight) : Bool := t.halting.isSome && rest.isEmpty

/-- The thread without its oldest row, the event of it waiting where R66 has one. -/
def Thread.withoutOldest (t : Thread) (x : Flight) (rest : List Flight) (st : Byte) : Thread :=
  { t with
    rows := tmod t.rows 0 x.row clearGo, retireRow := (x.row + 1) % 256, flights := rest
    posts := if Machine.posts (Step.of x.step) st then t.posts ++ [x.retirePost st] else t.posts }

/-- The thread with its oldest row retired with status st: where that was the last one before the halt, halted. -/
def Thread.retired (t : Thread) (x : Flight) (rest : List Flight) (st : Byte) : Thread :=
  if t.stopsWith rest then { t.withoutOldest x rest st with halted := true, haltRow := t.halting.getD 0, halting := none }
  else t.withoutOldest x rest st

section
variable (t : Thread) (x : Flight) (rest : List Flight) (st : Byte)

@[simp] theorem Thread.retired_flights : (t.retired x rest st).flights = rest := by
  unfold Thread.retired; split <;> rfl

@[simp] theorem Thread.retired_retireRow : (t.retired x rest st).retireRow = (x.row + 1) % 256 := by
  unfold Thread.retired; split <;> rfl

@[simp] theorem Thread.retired_rows : (t.retired x rest st).rows = tmod t.rows 0 x.row clearGo := by
  unfold Thread.retired; split <;> rfl

@[simp] theorem Thread.retired_cookie : (t.retired x rest st).cookie = t.cookie := by
  unfold Thread.retired; split <;> rfl

@[simp] theorem Thread.retired_fifo : (t.retired x rest st).fifo = t.fifo := by
  unfold Thread.retired; split <;> rfl

theorem Thread.retired_posts :
    (t.retired x rest st).posts = t.posts ++ if Machine.posts (Step.of x.step) st then [x.retirePost st] else [] := by
  have h : (t.retired x rest st).posts = if Machine.posts (Step.of x.step) st then t.posts ++ [x.retirePost st] else t.posts := by
    unfold Thread.retired; split <;> rfl
  rw [h]
  split
  · rfl
  · rw [List.append_nil]

end

/-- R231: the status a completed row retires with. -/
def Dev.retireStatus (d : Dev) (n : Nat) (x : Flight) (st : Byte) : Byte :=
  if d.fenceNear n (Step.of x.step) st then Status.rangeNear else st

/-- R231: a FENCE that finds the guard band passed clears the partition's bit. -/
def Dev.guardCleared (d : Dev) (n : Nat) (near : Bool) : Dev :=
  if near then d.onPart n fun p => { p with addRange := false } else d

@[simp] theorem Dev.guardCleared_th (d : Dev) (n m : Nat) (near : Bool) : (d.guardCleared n near).th m = d.th m := by
  unfold Dev.guardCleared; split <;> rfl

theorem Dev.guardCleared_frame (d : Dev) (n : Nat) (near : Bool) : { d.guardCleared n near with parts := d.parts } = d := by
  unfold Dev.guardCleared; split <;> rfl

theorem Dev.guardCleared_addRange (d : Dev) (n : Nat) (near : Bool) :
    ((d.guardCleared n near).part n).addRange = ((d.part n).addRange && !near) := by
  cases near <;> simp [Dev.guardCleared]

/-- The counters a retirement adds to, and the error source where the thread halts. -/
def Dev.retireBooks (d : Dev) (n : Nat) (st : Byte) (stop : Bool) : Dev :=
  let d := if n = d.mgr then d.addGlobal 320 1 else d.addCount n 10 1
  let d := if n ≠ d.mgr && !statusOk st then d.addCount n 11 1 else d
  if stop then d.errorOf n else d

theorem Dev.Booked.of_retireBooks (d : Dev) (n : Nat) (st : Byte) (stop : Bool) : d.Booked (d.retireBooks n st stop) := by
  have hrows : d.Booked (if n = d.mgr then d.addGlobal 320 1 else d.addCount n 10 1) := .ite (.of_addGlobal ..) (.of_addCount ..)
  exact (hrows.trans (.ite (.of_addCount ..) (.refl _))).trans (.ite (.of_errorOf ..) (.refl _))

section
variable (d : Dev) (n : Nat) (x : Flight) (rest : List Flight) (st : Byte)

/-- What retiring the oldest row x with completion status st leaves. -/
def Dev.retire : Dev :=
  ((d.guardCleared n (d.fenceNear n (Step.of x.step) st)).setTh n ((d.th n).retired x rest (d.retireStatus n x st))).retireBooks
    n (d.retireStatus n x st) ((d.th n).stopsWith rest)

theorem Dev.retire_booked :
    ((d.guardCleared n (d.fenceNear n (Step.of x.step) st)).setTh n
      ((d.th n).retired x rest (d.retireStatus n x st))).Booked (d.retire n x rest st) := .of_retireBooks ..

theorem Dev.retire_th_same : (d.retire n x rest st).th n = (d.th n).retired x rest (d.retireStatus n x st) := by
  rw [(d.retire_booked n x rest st).th, Dev.th_setTh_same]

theorem Dev.retire_th_other {m : Nat} (h : m ≠ n) : (d.retire n x rest st).th m = d.th m := by
  rw [(d.retire_booked n x rest st).th, Dev.th_setTh_other _ _ _ _ h, Dev.guardCleared_th]

theorem Dev.retire_addRange :
    ((d.retire n x rest st).part n).addRange = ((d.part n).addRange && !d.fenceNear n (Step.of x.step) st) := by
  rw [(d.retire_booked n x rest st).addRange, ← Dev.guardCleared_addRange]
  rfl

theorem Dev.retire_frame :
    { d.retire n x rest st with threads := d.threads, parts := d.parts, count := d.count, intc := d.intc } = d := by
  have hbooks := (d.retire_booked n x rest st).frame
  have hguard := d.guardCleared_frame n (d.fenceNear n (Step.of x.step) st)
  calc { d.retire n x rest st with threads := d.threads, parts := d.parts, count := d.count, intc := d.intc }
      = { d.guardCleared n (d.fenceNear n (Step.of x.step) st) with
          threads := d.threads, parts := d.parts, count := d.count, intc := d.intc } :=
        congrArg (fun f : Dev => { f with threads := d.threads, parts := d.parts, count := d.count, intc := d.intc }) hbooks
    _ = d := congrArg (fun f : Dev => { f with threads := d.threads, parts := d.parts, count := d.count, intc := d.intc }) hguard

end

section
variable {d : Dev} {n : Nat} {x : Flight} {rest : List Flight} {st : Byte}

/-- A completed row either waits for a place in the FIFO or retires. -/
theorem Dev.rowRetire_eq (hr : d.ready = true) (hx : (d.th n).flights = x :: rest) (hst : x.stage = .completed st) :
    d.rowRetire n =
      if posts (Step.of x.step) (d.retireStatus n x st) && decide (64 ≤ (d.th n).fifo.length + (d.th n).posts.length) then
        d.setTh n { d.th n with fifoFull := true }
      else d.retire n x rest st := by
  have h : d.rowRetire n =
      match (d.th n).flights with
      | [] => d
      | y :: ys =>
        match y.stage with
        | .completed c =>
          if !d.ready then d
          else if posts (Step.of y.step) (d.retireStatus n y c) && decide (64 ≤ (d.th n).fifo.length + (d.th n).posts.length) then
            d.setTh n { d.th n with fifoFull := true }
          else d.retire n y ys c
        | _ => d := rfl
  simp only [h, hx, hst, hr, Bool.not_true, Bool.false_eq_true, if_false]

/-- A row that makes an event does not retire while the FIFO and the events that wait fill its 64 places. -/
theorem Dev.rowRetire_of_full (hr : d.ready = true) (hx : (d.th n).flights = x :: rest) (hst : x.stage = .completed st)
    (hp : posts (Step.of x.step) (d.retireStatus n x st) = true) (hf : 64 ≤ (d.th n).fifo.length + (d.th n).posts.length) :
    d.rowRetire n = d.setTh n { d.th n with fifoFull := true } := by
  rw [Dev.rowRetire_eq hr hx hst, if_pos (by rw [hp, decide_eq_true hf]; rfl)]

/-- Otherwise it retires. -/
theorem Dev.rowRetire_of_space (hr : d.ready = true) (hx : (d.th n).flights = x :: rest) (hst : x.stage = .completed st)
    (hp : posts (Step.of x.step) (d.retireStatus n x st) = false ∨ (d.th n).fifo.length + (d.th n).posts.length < 64) :
    d.rowRetire n = d.retire n x rest st := by
  rw [Dev.rowRetire_eq hr hx hst, if_neg]
  rw [Bool.and_eq_true, decide_eq_true_iff]
  rintro ⟨hmakes, hfull⟩
  rcases hp with hp | hp
  · rw [hp] at hmakes
    cases hmakes
  · omega

end

/-! ## The three as commands on a thread -/

/-- A command on a thread that is there, whose effect stays within threads, partitions, global counters and interrupts. -/
theorem State.onThread_of_frame {s : State} {now n : Nat} {f : Dev → Dev} {e : Dev} {ths : Tbl Thread} {pts : Tbl Part} {cnt : Count}
    {ic : Intc} (hn : n ≤ (s.at now).mgr) (he : f (s.at now) = e)
    (h : { e with threads := ths, parts := pts, count := cnt, intc := ic } = s.at now) : s.onThread now n f = s.left e := by
  have hkind := congrArg Dev.kind h
  have htime := congrArg Dev.time h
  have hfuses := congrArg Dev.fuses h
  exact State.runUnit_eq (decide_eq_true hn) he hkind htime hfuses

theorem exec_rowRetire_eq_onThread (n now : Nat) (s : State) :
    exec (.rowRetire n now) s = s.onThread now n fun d => d.rowRetire n := rfl

theorem exec_eventPost_eq_onThread (n now : Nat) (s : State) :
    exec (.eventPost n now) s = s.onThread now n fun d => d.eventPost n := rfl

theorem exec_jobEvent_eq_onThread (n now : Nat) (s : State) :
    exec (.jobEvent n now) s = s.onThread now n fun d => d.jobEventPost n := rfl

end Sys2Proof.Machine
end

section
/-! The statement about retirement, events and cookies. -/

open Sys2Proof Sys2Proof.Machine

/-- Settles O18: the two outcomes of a completed row, and the one of posting an event, which a job event shares but for the cookie. -/
theorem rowsRetireAndEventsPostInOrder : Obligations.RowsRetireAndEventsPostInOrder := by
  refine ⟨cookieAtOrAfter_iff, fun s n now hr hn => ?_⟩
  dsimp only
  refine ⟨fun x rest st hx hst => ⟨fun hspace => ?_, fun hmakes hfull => ?_⟩, fun p rest hp hf => ?_, fun p rest hj hp hf => ?_⟩
  · rw [← posts_eq_own_or] at hspace ⊢
    have hframe := (s.at now).retire_frame n x rest st
    rw [exec_rowRetire_eq_onThread, State.onThread_of_frame hn (Dev.rowRetire_of_space hr hx hst hspace) hframe]
    refine ⟨_, rfl, hframe, ?_⟩
    rw [Dev.retire_th_same]
    exact ⟨Thread.retired_flights .., Thread.retired_retireRow .., Thread.retired_rows .., Thread.retired_cookie ..,
      Thread.retired_fifo .., fun m hm => Dev.retire_th_other _ _ _ _ _ hm, Dev.retire_addRange .., Thread.retired_posts ..⟩
  · rw [← posts_eq_own_or] at hmakes
    rw [exec_rowRetire_eq_onThread]
    exact State.runUnit_eq (decide_eq_true hn) (Dev.rowRetire_of_full hr hx hst hmakes hfull) rfl rfl rfl
  · have hframe := (s.at now).onTh_postEvent_frame n (fun t => { t with posts := rest }) p
    rw [exec_eventPost_eq_onThread, State.onThread_of_frame hn (Dev.eventPost_eq hr hp hf) hframe]
    refine ⟨_, rfl, hframe, ?_⟩
    rw [Dev.postEvent_th_same, Dev.th_onTh_same]
    exact ⟨rfl, rfl, Thread.withEvent_cookie .., fun m hm => Dev.onTh_postEvent_th_other _ _ _ _ hm⟩
  · have hframe := (s.at now).onTh_postEvent_frame n (fun t => { t with jobEnds := rest }) { p with moves := false }
    rw [exec_jobEvent_eq_onThread, State.onThread_of_frame hn (Dev.jobEventPost_eq hr hj hp hf) hframe]
    refine ⟨_, rfl, hframe, ?_⟩
    rw [Dev.postEvent_th_same, Dev.th_onTh_same]
    exact ⟨rfl, rfl, fun hjob => if_pos hjob, rfl, fun m hm => Dev.onTh_postEvent_th_other _ _ _ _ hm⟩

end

section
/-! Key steps at their engines: the fields of a slot's attr word (R83), a step that stands dispatched (R59) and the
status it finishes with (R60), the slot it fills (R85), and `GENKEY` as these make it up (R93, R94). -/

namespace Sys2Proof.Machine

/-! ## Attribute words (R83) -/

theorem fld_eq_div_mod (n lo w : Nat) : fld n lo w = n / 2 ^ lo % 2 ^ w := by
  rw [fld, Nat.shiftRight_eq_div_pow]

theorem b2n_le_one (b : Bool) : b2n b ≤ 1 := by cases b <;> decide

section
variable {l : LSlot} {k : Kind} {usage origin level epoch : Nat} {wrappable : Bool} {m : Masks}
  (h : l.attr = attrWord k usage wrappable origin level epoch m)
include h

/-- The fields that every configuration has lie in the low half of the word; the masks stand above them. -/
theorem LSlot.attr_low_half : l.attr.toNat % 2 ^ 32 =
    usage % 16 + b2n wrappable * 16 + origin % 4 * 256 + level % 4 * 1024 + epoch % 65536 * 65536 := by
  have hw := b2n_le_one wrappable
  rw [h, attrWord, BitVec.toNat_ofNat]
  split <;> omega

theorem LSlot.usage_eq_of_attr : l.usage = usage % 16 := by
  have hlow := LSlot.attr_low_half h
  rw [LSlot.usage, fld_eq_div_mod]
  omega

theorem LSlot.wrappable_eq_of_attr : l.wrappable = wrappable := by
  have hlow := LSlot.attr_low_half h
  have hw := b2n_le_one wrappable
  have hbit : l.attr.toNat / 2 ^ 4 % 2 = b2n wrappable := by omega
  rw [LSlot.wrappable, BitVec.getLsbD, Nat.testBit_eq_decide_div_mod_eq, hbit]
  cases wrappable <;> rfl

theorem LSlot.spent_eq_of_attr : l.spent = false := by
  have hlow := LSlot.attr_low_half h
  have hw := b2n_le_one wrappable
  rw [LSlot.spent, BitVec.getLsbD, Nat.testBit_eq_decide_div_mod_eq, decide_eq_false_iff_not]
  omega

theorem LSlot.origin_eq_of_attr : l.origin = origin % 4 := by
  have hlow := LSlot.attr_low_half h
  have hw := b2n_le_one wrappable
  rw [LSlot.origin, fld_eq_div_mod]
  omega

theorem LSlot.level_eq_of_attr : fld l.attr.toNat 10 2 = level % 4 := by
  have hlow := LSlot.attr_low_half h
  have hw := b2n_le_one wrappable
  rw [fld_eq_div_mod]
  omega

theorem LSlot.epoch_eq_of_attr : l.epoch = epoch % 65536 := by
  have hlow := LSlot.attr_low_half h
  have hw := b2n_le_one wrappable
  rw [LSlot.epoch, fld_eq_div_mod]
  omega

end

/-! ## Flights and their stages (R59, R60) -/

/-- A change that keeps row numbers reaches the flight that a row has. -/
theorem Thread.flight_onFlight_same {t : Thread} {row : Nat} {f : Flight → Flight} (hf : ∀ x, (f x).row = x.row) :
    (t.onFlight row f).flight row = (t.flight row).map f := by
  have hrow : ∀ x : Flight, (if x.row = row then f x else x).row = x.row := fun x => by
    split
    · exact hf x
    · rfl
  simp only [Thread.flight, Thread.onFlight, List.find?_map, Function.comp_def, hrow]
  cases hx : t.flights.find? fun x => decide (x.row = row) with
  | none => rfl
  | some x =>
    have hxr : x.row = row := by simpa using List.find?_some hx
    simp [hxr]

/-- A flight whose engine has finished it; one that is not at its engine stays as it is. -/
def Flight.finishedWith (x : Flight) (st : Byte) : Flight :=
  match x.stage with
  | .dispatched | .running => { x with stage := .finished st }
  | _ => x

theorem Flight.finishedWith_row (x : Flight) (st : Byte) : (x.finishedWith st).row = x.row := by
  unfold Flight.finishedWith
  split <;> rfl

theorem Flight.finishedWith_stage {x : Flight} (h : x.stage = .dispatched) (st : Byte) : (x.finishedWith st).stage = .finished st := by
  simp [Flight.finishedWith, h]

theorem Dev.finish_eq_onFlight (d : Dev) (thread row : Nat) (st : Byte) :
    d.finish thread row st = d.onFlight thread row fun x => x.finishedWith st := rfl

theorem Dev.stageOf_finish_same {d : Dev} {thread row : Nat} {x : Flight} (hx : d.flight thread row = some x) (hst : x.stage = .dispatched)
    (st : Byte) : (d.finish thread row st).stageOf thread row = some (.finished st) := by
  have hflight : (d.finish thread row st).flight thread row = some (x.finishedWith st) := by
    rw [Dev.finish_eq_onFlight, Dev.flight, Dev.onFlight, Dev.th_onTh_same,
      Thread.flight_onFlight_same fun y => y.finishedWith_row st, ← Dev.flight, hx, Option.map_some]
  rw [Dev.stageOf, hflight, Option.map_some, Flight.finishedWith_stage hst]

@[simp] theorem Dev.finish_larder (d : Dev) (thread row : Nat) (st : Byte) : (d.finish thread row st).larder = d.larder := rfl

@[simp] theorem Dev.slot_finish (d : Dev) (thread row i : Nat) (st : Byte) : (d.finish thread row st).slot i = d.slot i := rfl

/-- A step that stands dispatched runs its engine. -/
theorem Dev.runStep_of_dispatched {d : Dev} {thread row : Nat} {op : Opc} {x : Flight} (h : d.dispatched thread row op x)
    (f : Flight → Dev → Dev) : (d.loading thread row op).runStep thread row op f = f x d := by
  obtain ⟨hready, -, hx, hst, hop, horphan, hawaits, hloads⟩ := h
  simp [hloads, Dev.runStep, hready, hx, hst, hop, horphan, hawaits]

/-- The command of a step that stands dispatched, whose engine leaves configuration, house time and fuses. -/
theorem State.atEngine_of_dispatched {s : State} {now thread row : Nat} {op : Opc} {x : Flight} {f : Flight → Dev → Dev} {e : Dev}
    (h : (s.at now).dispatched thread row op x) (he : f x (s.at now) = e) (hkind : e.kind = (s.at now).kind)
    (htime : e.time = (s.at now).time) (hfuses : e.fuses = (s.at now).fuses) : s.atEngine now thread row op f = s.left e := by
  have ⟨_, hthread, _⟩ := h
  rw [State.atEngine, State.onThread]
  refine State.runUnit_eq (decide_eq_true hthread) ?_ hkind htime hfuses
  rw [Dev.runStep_of_dispatched h, he]

/-! ## Filling a slot (R85) -/

/-- The words a slot is filled with; its check is the one over them, its bad marks stay. -/
theorem Dev.slot_fillSlot_same (d : Dev) (i : Nat) (key : Key) (attr owner : Word) (st : BitVec 2) :
    (d.fillSlot i key attr owner st).slot i =
      { d.slot i with key := key, attr := attr, owner := owner, st := st
                      check := d.slotCheck i { d.slot i with key := key, attr := attr, owner := owner, st := st } } := by
  rw [Dev.fillSlot, Dev.slot_onSlot_same]

theorem Dev.slot_fillSlot_other (d : Dev) {i j : Nat} (h : j ≠ i) (key : Key) (attr owner : Word) (st : BitVec 2) :
    (d.fillSlot i key attr owner st).slot j = d.slot j :=
  Dev.slot_onSlot_other _ _ _ _ h

/-! ## `GENKEY` (R93, R94) -/

/-- The part_a form of a thread's partition; the manager's thread has none (R76). -/
theorem Dev.partForm_partOf (d : Dev) (n : Nat) : partForm (d.partOf n) = if n < d.nparts then n % 32 else 0x80 := by
  unfold Dev.partOf
  split <;> rfl

/-- The attr word `GENKEY` gives its slot. -/
def Dev.genkeyAttr (d : Dev) (p : Step) : Word :=
  attrWord d.kind (fld p.c 0 4) (bitOf p.c 4) Origin.generated 2 0 (masksFrom (fld p.d 0 5) (fld p.d 8 3) (fld p.d 16 5))

/-- The block with the slot of a `GENKEY` filled from the DRBG. -/
def Dev.genkeyFilled (d : Dev) (n : Nat) (x : Flight) : Dev :=
  d.drew.fillSlot x.slot (d.drawn (drawLabel (d.partOf n) x.slot)) (d.genkeyAttr (Step.of x.step)) (ownerOf n (Step.of x.step).a 0) 1

/-- While the DRBG serves requests `GENKEY` fills its slot and finishes. -/
theorem Dev.genkey_of_canDraw {d : Dev} (h : d.canDraw = true) (n row : Nat) (x : Flight) :
    d.genkey n row x = (d.genkeyFilled n x).finish n row Status.done := by
  simp [Dev.genkey, h, Dev.genkeyFilled, Dev.genkeyAttr]

/-- The slot's words after the fill, with a check over them. -/
theorem Dev.slot_genkeyFilled_same (d : Dev) (n : Nat) (x : Flight) : ∃ check, (d.genkeyFilled n x).slot x.slot =
    { d.slot x.slot with
      key := d.drawn (drawLabel (d.partOf n) x.slot), attr := d.genkeyAttr (Step.of x.step), owner := ownerOf n (Step.of x.step).a 0,
      st := 1, check := check } :=
  ⟨_, Dev.slot_fillSlot_same ..⟩

theorem Dev.slot_genkeyFilled_other (d : Dev) (n : Nat) (x : Flight) {j : Nat} (h : j ≠ x.slot) :
    (d.genkeyFilled n x).slot j = d.slot j :=
  Dev.slot_fillSlot_other _ h ..

@[simp] theorem Dev.genkeyFilled_draws (d : Dev) (n : Nat) (x : Flight) :
    (d.genkeyFilled n x).larder.drbg.draws = d.larder.drbg.draws + 1 := rfl

theorem Dev.flight_genkeyFilled (d : Dev) (n : Nat) (x : Flight) (thread row : Nat) :
    (d.genkeyFilled n x).flight thread row = d.flight thread row := rfl

/-- The fill and the end of the step leave everything but the Larder, the thread's row and the generator's global count. -/
theorem Dev.genkeyFilled_finish_frame (d : Dev) (n row : Nat) (x : Flight) (st : Byte) :
    { (d.genkeyFilled n x).finish n row st with larder := d.larder, threads := d.threads, count := d.count } = d := by
  rfl

/-- The fields `GENKEY` refuses where it names no masks: no usage at all, or a bit of c above the wrappable one. -/
theorem Dev.keyBad_genkey {d : Dev} {u : Step} (hd : u.d = 0) : d.keyBad .genkey u = (decide (u.c % 16 = 0) || decide (32 ≤ u.c)) := by
  simp [Dev.keyBad, hd, only, fld_eq_div_mod]

/-- Checks 2 to 5 of a `GENKEY` of the manager or of a BOUND partition whose other fields are zero come down to its field rule. -/
theorem Dev.checkFields_genkey {d : Dev} {t : Nat} {u : Step} (ht : t ≤ d.mgr) (hp : t < d.nparts → (d.part t).st = .bound)
    (hr : u.reserved = 0) (hb : u.b = 0) :
    d.checkFields t .genkey u = if d.keyBad .genkey u = true then some Status.badField else none := by
  have hlate : d.checkLate t .genkey u = none := by
    have hnot : ¬ (t ≠ d.mgr ∧ (d.part t).st = .frozen) := fun ⟨hne, hfrozen⟩ => by
      rw [hp (Nat.lt_of_le_of_ne ht hne)] at hfrozen
      cases hfrozen
    simpa [Dev.checkLate, Dev.alignBad] using hnot
  have hearly : d.checkEarly t .genkey u = if d.keyBad .genkey u = true then some Status.badField else none := by
    simp [Dev.checkEarly, Opc.byManager, Opc.byPartition, Opc.useA, Opc.useB, Dev.fieldBad, Dev.objectBad, hr, hb]
  rw [Dev.checkFields, hearly, hlate, Option.or_none]

theorem exec_genkey_eq_atEngine (n row now : Nat) (s : State) :
    exec (.genkey n row now) s = s.atEngine now n row .genkey fun x d => d.genkey n row x := rfl

end Sys2Proof.Machine
end

section
/-! The statement about `GENKEY`. -/

open Sys2Proof Sys2Proof.Machine

/-- Settles O20: the step's engine fills the one slot with the words of R94 and finishes the row, and the checks of its fields come down to
c[3:0] and the bits of c above c[4]. -/
theorem genkeyFillsANewSlotFromTheDrbg : Obligations.GenkeyFillsANewSlotFromTheDrbg := by
  intro s n row now x h hdraw
  dsimp only
  refine ⟨⟨((s.at now).genkeyFilled n x).finish n row Status.done, ?_, ?_⟩, fun t u ht hp hr hb hd => ?_⟩
  · rw [exec_genkey_eq_atEngine]
    exact State.atEngine_of_dispatched h (Dev.genkey_of_canDraw hdraw n row x) rfl rfl rfl
  · obtain ⟨-, -, hx, hst, -⟩ := h
    rw [← Dev.flight_genkeyFilled _ n x] at hx
    obtain ⟨check, hslot⟩ := (s.at now).slot_genkeyFilled_same n x
    have hattr := congrArg LSlot.attr hslot
    simp only [Dev.slot_finish, Dev.finish_larder, Dev.genkeyFilled_draws, ← Dev.partForm_partOf]
    refine ⟨congrArg LSlot.key hslot, ?_, LSlot.wrappable_eq_of_attr hattr, LSlot.origin_eq_of_attr hattr, LSlot.level_eq_of_attr hattr,
      LSlot.epoch_eq_of_attr hattr, LSlot.spent_eq_of_attr hattr, congrArg LSlot.st hslot, congrArg LSlot.owner hslot, trivial,
      Dev.stageOf_finish_same hx hst _, fun j hj => Dev.slot_genkeyFilled_other _ n x hj, Dev.genkeyFilled_finish_frame _ n row x _⟩
    calc (((s.at now).genkeyFilled n x).slot x.slot).usage
        = fld (Step.of x.step).c 0 4 % 16 := LSlot.usage_eq_of_attr hattr
      _ = (Step.of x.step).c % 16 := by simp [fld_eq_div_mod]
  · rw [Dev.checkFields_genkey ht hp hr hb, Dev.keyBad_genkey hd]
    exact ⟨fun hzero => by simp [hzero], fun hnonzero hlt => by simp [hnonzero, hlt]⟩

end
